-- ==== Sys2Proof/Word.lean ====
section
/-! DEFINITION. The words and bytes of the Tamrex 2496 and their plainest arithmetic (R4). -/
namespace Sys2Proof

/-- A 64-bit register or memory word. -/
abbrev Word := BitVec 64

/-- A byte of memory. -/
abbrev Byte := BitVec 8

/-- The STICKY flags NV, DZ, OF, UF, NX, QOV, NARF, MDL, GNONE in bits 0 to 8 (R123). -/
abbrev Flags := BitVec 9

namespace Flags
/-- IEEE invalid; integer or g32 saturation. -/
def nv : Flags := 0x001#9
/-- Division by zero. -/
def dz : Flags := 0x002#9
/-- IEEE overflow. -/
def ovf : Flags := 0x004#9
/-- IEEE underflow. -/
def uf : Flags := 0x008#9
/-- IEEE inexact. -/
def nx : Flags := 0x010#9
/-- Quire range left. -/
def qov : Flags := 0x020#9
/-- NaR produced or consumed. -/
def narf : Flags := 0x040#9
/-- A visible-at store was late. -/
def mdl : Flags := 0x080#9
/-- No token legal at a sampling step. -/
def gnone : Flags := 0x100#9
/-- No flag. -/
def none : Flags := 0x000#9
end Flags

/-- A flag when a condition holds. -/
def flagIf (c : Bool) (f : Flags) : Flags := if c then f else Flags.none

/-- A context of a core: core index 0–767 (R15) and context number 0–3 (R86). -/
structure CtxRef where
  core : Nat
  ctx : Nat
deriving DecidableEq, Repr

end Sys2Proof
end

