-- ==== Sys2Proof/Syntax.lean ====
section
/-! DEFINITION. The instruction formats of R63 to R70 and the one inductive Instr: a constructor for every row of
the opcode table. The first 174 constructors are instruction words (a guard and the fields of a format); the
others are the steps of the machine that no word encodes (95_what_each_step_holds.md). -/
namespace Sys2Proof

/-- The guard of an instruction word: PG names a predicate and GN negates it (R55, R59). -/
structure Guard where
  pg : BitVec 4
  gn : Bool
deriving DecidableEq, Repr

/-- Format A (R63). -/
structure FmtA where
  dst : BitVec 6
  opa : BitVec 6
  opb : BitVec 6
  aux : BitVec 6
  fmt : BitVec 6
  prof : BitVec 6
  sga : Bool
  sgb : Bool
  msk : BitVec 3
  sub : BitVec 5
deriving DecidableEq, Repr

/-- Format B (R65). -/
structure FmtB where
  dst : BitVec 6
  opa : BitVec 6
  imm : BitVec 34
deriving DecidableEq, Repr

/-- Format J (R66). -/
structure FmtJ where
  ja : BitVec 6
  jb : BitVec 6
  jhi : BitVec 18
  jlo : BitVec 16
deriving DecidableEq, Repr

/-- Format L (R67). -/
structure FmtL where
  dt : BitVec 6
  base : BitVec 5
  idx : BitVec 6
  off : BitVec 20
  sz : BitVec 3
  msk : BitVec 3
  lx : BitVec 3
deriving DecidableEq, Repr

/-- Format K (R68); `tgt` is the field TO and `frm` the field FROM. -/
structure FmtK where
  ch : BitVec 2
  tgt : BitVec 5
  frm : BitVec 5
  lrec : BitVec 5
  cnt : BitVec 6
  intr : Bool
  swe : Bool
  sw : BitVec 9
  kx : BitVec 12
deriving DecidableEq, Repr

/-- Format M (R69); `tile` is the field AT. -/
structure FmtM where
  tile : BitVec 3
  osa : BitVec 6
  osb : BitVec 6
  prof : BitVec 6
  sga : Bool
  sgb : Bool
  fmta : BitVec 6
  fmtb : BitVec 6
  klen : BitVec 7
  mx : BitVec 4
deriving DecidableEq, Repr

/-- Format W (R70). -/
structure FmtW where
  dst : BitVec 6
  hi : Bool
  imm : BitVec 39
deriving DecidableEq, Repr

/-- The fields of a verified configuration block (R394), whose byte layout is not given. -/
structure ConfigBlock where
  moduleNo : Nat
  budget : Nat
  meshRef : Nat
  policy : List (Nat × Nat)
  /-- The Neatline links between other modules of the extended mesh that the policy lists. Log 59, DESIGN CHOICE. -/
  farLinks : List (Nat × Nat)
  fwFloor : Nat
deriving DecidableEq, Repr

/-- What bring-up meets beside what host memory holds: the version of each I/O die's firmware image whose signature verified
(R395). -/
structure BootInput where
  firmware : List (Option Nat)
deriving DecidableEq, Repr

/-- One power arbitration: the current budget asked for each die, in W, the core voltages asked for, in millivolts, and the
dies whose demand exceeds the grant or fits it with margin (R396, R398). Log 13, DESIGN CHOICE. -/
structure PowerInput where
  grants : List (Nat × Nat)
  volts : List (Nat × Nat)
  short : List Nat
  margin : List Nat
deriving DecidableEq, Repr

/-- How a host port link trains (R386). -/
inductive LinkKind
  | pcie
  | cxl
deriving DecidableEq, Repr

/-- One constructor per row of spec/opcode_table.json. -/
inductive Instr
  | nop (g : Guard) (f : FmtJ)
  | br (g : Guard) (f : FmtJ)
  | brc (g : Guard) (f : FmtJ)
  | brm (g : Guard) (f : FmtJ)
  | pbr (g : Guard) (f : FmtJ)
  | brt (g : Guard) (f : FmtJ)
  | jtb (g : Guard) (f : FmtJ)
  | lpad (g : Guard) (f : FmtJ)
  | call (g : Guard) (f : FmtJ)
  | ret (g : Guard) (f : FmtJ)
  | lseq (g : Guard) (f : FmtJ)
  | lbr (g : Guard) (f : FmtJ)
  | tfence (g : Guard) (f : FmtJ)
  | pmark (g : Guard) (f : FmtJ)
  | fence (g : Guard) (f : FmtA)
  | yield (g : Guard) (f : FmtJ)
  | twait (g : Guard) (f : FmtJ)
  | trap (g : Guard) (f : FmtJ)
  | svc (g : Guard) (f : FmtJ)
  | tend (g : Guard) (f : FmtJ)
  | add (g : Guard) (f : FmtA)
  | sub (g : Guard) (f : FmtA)
  | mul (g : Guard) (f : FmtA)
  | mulh (g : Guard) (f : FmtA)
  | div (g : Guard) (f : FmtA)
  | rem (g : Guard) (f : FmtA)
  | and (g : Guard) (f : FmtA)
  | or (g : Guard) (f : FmtA)
  | xor (g : Guard) (f : FmtA)
  | andn (g : Guard) (f : FmtA)
  | shl (g : Guard) (f : FmtA)
  | shr (g : Guard) (f : FmtA)
  | sra (g : Guard) (f : FmtA)
  | rotl (g : Guard) (f : FmtA)
  | clz (g : Guard) (f : FmtA)
  | popc (g : Guard) (f : FmtA)
  | min (g : Guard) (f : FmtA)
  | max (g : Guard) (f : FmtA)
  | cmp (g : Guard) (f : FmtA)
  | sel (g : Guard) (f : FmtA)
  | pand (g : Guard) (f : FmtA)
  | por (g : Guard) (f : FmtA)
  | pxor (g : Guard) (f : FmtA)
  | pnot (g : Guard) (f : FmtA)
  | mfs (g : Guard) (f : FmtB)
  | mts (g : Guard) (f : FmtB)
  | mtsSticky (g : Guard) (f : FmtB)
  | mtsPend (g : Guard) (f : FmtB)
  | regrelWrite (g : Guard) (f : FmtB)
  | tinvcStart (g : Guard) (f : FmtB)
  | time (g : Guard) (f : FmtA)
  | lea (g : Guard) (f : FmtB)
  | movi (g : Guard) (f : FmtW)
  | moviHi (g : Guard) (f : FmtW)
  | addi (g : Guard) (f : FmtB)
  | andi (g : Guard) (f : FmtB)
  | ori (g : Guard) (f : FmtB)
  | xori (g : Guard) (f : FmtB)
  | shli (g : Guard) (f : FmtB)
  | shri (g : Guard) (f : FmtB)
  | srai (g : Guard) (f : FmtB)
  | cmpi (g : Guard) (f : FmtB)
  | ldb (g : Guard) (f : FmtL)
  | ldh (g : Guard) (f : FmtL)
  | ldw (g : Guard) (f : FmtL)
  | ldd (g : Guard) (f : FmtL)
  | stb (g : Guard) (f : FmtL)
  | sth (g : Guard) (f : FmtL)
  | stw (g : Guard) (f : FmtL)
  | std (g : Guard) (f : FmtL)
  | vld (g : Guard) (f : FmtL)
  | vst (g : Guard) (f : FmtL)
  | vlds (g : Guard) (f : FmtL)
  | vsts (g : Guard) (f : FmtL)
  | cld (g : Guard) (f : FmtL)
  | cst (g : Guard) (f : FmtL)
  | rwr (g : Guard) (f : FmtL)
  | rws (g : Guard) (f : FmtL)
  | ldnb (g : Guard) (f : FmtL)
  | stva (g : Guard) (f : FmtL)
  | rwva (g : Guard) (f : FmtL)
  | sarr (g : Guard) (f : FmtL)
  | swait (g : Guard) (f : FmtL)
  | sacq (g : Guard) (f : FmtL)
  | srel (g : Guard) (f : FmtL)
  | sset (g : Guard) (f : FmtL)
  | saeq (g : Guard) (f : FmtL)
  | saef (g : Guard) (f : FmtL)
  | vadd (g : Guard) (f : FmtA)
  | vsub (g : Guard) (f : FmtA)
  | vmul (g : Guard) (f : FmtA)
  | vmin (g : Guard) (f : FmtA)
  | vmax (g : Guard) (f : FmtA)
  | vand (g : Guard) (f : FmtA)
  | vor (g : Guard) (f : FmtA)
  | vxor (g : Guard) (f : FmtA)
  | vlut3 (g : Guard) (f : FmtA)
  | vshl (g : Guard) (f : FmtA)
  | vshr (g : Guard) (f : FmtA)
  | vfsh (g : Guard) (f : FmtA)
  | vpopc (g : Guard) (f : FmtA)
  | vclz (g : Guard) (f : FmtA)
  | vrot (g : Guard) (f : FmtA)
  | vperm (g : Guard) (f : FmtA)
  | vbcast (g : Guard) (f : FmtA)
  | vsel (g : Guard) (f : FmtA)
  | vcmp (g : Guard) (f : FmtA)
  | vfadd (g : Guard) (f : FmtA)
  | vfsub (g : Guard) (f : FmtA)
  | vfmul (g : Guard) (f : FmtA)
  | vfma (g : Guard) (f : FmtA)
  | vfmin (g : Guard) (f : FmtA)
  | vfmax (g : Guard) (f : FmtA)
  | vfdiv (g : Guard) (f : FmtA)
  | vfsqrt (g : Guard) (f : FmtA)
  | vfabs (g : Guard) (f : FmtA)
  | vfneg (g : Guard) (f : FmtA)
  | vcvt (g : Guard) (f : FmtA)
  | vrmax (g : Guard) (f : FmtA)
  | vrmin (g : Guard) (f : FmtA)
  | vradd (g : Guard) (f : FmtA)
  | mand (g : Guard) (f : FmtA)
  | mor (g : Guard) (f : FmtA)
  | mnot (g : Guard) (f : FmtA)
  | mpop (g : Guard) (f : FmtA)
  | vswt (g : Guard) (f : FmtA)
  | vspickStart (g : Guard) (f : FmtA)
  | vspickScan (g : Guard) (f : FmtA)
  | vspickFinal (g : Guard) (f : FmtA)
  | qclr (g : Guard) (f : FmtA)
  | qdot (g : Guard) (f : FmtA)
  | qfma (g : Guard) (f : FmtA)
  | qadd (g : Guard) (f : FmtA)
  | qaddq (g : Guard) (f : FmtA)
  | qneg (g : Guard) (f : FmtA)
  | qrnd (g : Guard) (f : FmtA)
  | qsave (g : Guard) (f : FmtL)
  | qload (g : Guard) (f : FmtL)
  | qtst (g : Guard) (f : FmtA)
  | qtstNar (g : Guard) (f : FmtA)
  | qfrom (g : Guard) (f : FmtA)
  | mclaim (g : Guard) (f : FmtA)
  | mrel (g : Guard) (f : FmtA)
  | mlda (g : Guard) (f : FmtL)
  | mma (g : Guard) (f : FmtM)
  | mmai (g : Guard) (f : FmtM)
  | mlut (g : Guard) (f : FmtM)
  | mzero (g : Guard) (f : FmtM)
  | msave (g : Guard) (f : FmtL)
  | mload (g : Guard) (f : FmtL)
  | drd (g : Guard) (f : FmtA)
  | dsgd (g : Guard) (f : FmtA)
  | dmom (g : Guard) (f : FmtA)
  | dpub (g : Guard) (f : FmtL)
  | dclr (g : Guard) (f : FmtM)
  | kcp (g : Guard) (f : FmtK)
  | kcpOpimg (g : Guard) (f : FmtK)
  | kcpn (g : Guard) (f : FmtK)
  | kcpv (g : Guard) (f : FmtK)
  | ktr (g : Guard) (f : FmtK)
  | kenc (g : Guard) (f : FmtK)
  | krec (g : Guard) (f : FmtK)
  | kseal (g : Guard) (f : FmtK)
  | ksealUnseal (g : Guard) (f : FmtK)
  | ktab (g : Guard) (f : FmtK)
  | kdrain (g : Guard) (f : FmtK)
  | kres (g : Guard) (f : FmtK)
  | kresDrop (g : Guard) (f : FmtK)
  | knmc (g : Guard) (f : FmtK)
  | kcol (g : Guard) (f : FmtK)
  | kcan (g : Guard) (f : FmtK)
  | ktsk (g : Guard) (f : FmtK)
  | gstep (g : Guard) (f : FmtK)
  | gmask (g : Guard) (f : FmtK)
  | tretResume (c : CtxRef)
  | tretSuspend (c : CtxRef)
  | tretKill (c : CtxRef)
  | pendingRelease (core : Nat) (tile : Bool) (n : Nat)
  | groupFetch (c : CtxRef)
  | blockedGroupIssue (c : CtxRef)
  | resultLanding (c : CtxRef)
  | arrayResultLanding (c : CtxRef)
  | tileClearDone (core : Nat) (n : Nat)
  | slotClearDone (core : Nat) (n : Nat)
  | regionZeroDone (core : Nat) (n : Nat)
  | saeRunApply (c : CtxRef)
  | remoteWriteArrival (c : CtxRef) (id : Nat)
  | timedWritePerform (core : Nat) (id : Nat)
  | lateNoticeArrival (id : Nat)
  | releaseMessageArrival (id : Nat)
  | gateOpen (c : CtxRef) (id : Nat)
  | commandStart (core : Nat) (id : Nat)
  | copyUnitTransfer (core : Nat) (id : Nat)
  | commandComplete (core : Nat) (id : Nat)
  | dictSlotSwitch (core : Nat) (id : Nat)
  | kcpvVersionReached (core : Nat) (id : Nat)
  | acquireReferenceSatisfied (id : Nat)
  | nmcCommandAccept (id : Nat)
  | reductionCommand (stack : Nat)
  | updateRow (stack : Nat)
  | transformCommand (stack : Nat)
  | gazetteerQuery (stack : Nat)
  | nmcTimedRelease (id : Nat)
  | grammarCommand (die : Nat)
  | collectiveForm (i : Nat)
  | planeInject (i : Nat) (party : Nat) (tile : Nat)
  | planeLand (i : Nat) (party : Nat) (tile : Nat)
  | cancelReceipt (i : Nat) (party : Nat)
  | cancelAck (i : Nat)
  | nodeAccept (iod : Nat)
  | nodeDispatch (iod : Nat)
  | taskLaunch (id : Nat)
  | taskComplete (c : CtxRef)
  | contextRecordWrite (c : CtxRef)
  | restore (id : Nat)
  | sliceExpiry (c : CtxRef)
  | platExpiry (c : CtxRef)
  | invalidationRequest (id : Nat) (die : Nat)
  | invalidationAckSend (id : Nat) (die : Nat)
  | invalidationAck (id : Nat) (die : Nat)
  | submitNode (port : Nat) (tenant : Nat) (v : Word)
  | ownerAcquire (port : Nat)
  | ownerRelease (port : Nat)
  | moduleBlockWrite (port : Nat) (off : Nat) (v : Word)
  | epochWrite (port : Nat) (v : Word)
  | readySet (port : Nat) (v : Word)
  | attestReport (port : Nat) (v : Word)
  | rfree (port : Nat) (v : Word)
  | hostInvalidate (port : Nat) (v : Word)
  | gctlEnable (port : Nat) (v : Word)
  | gctlDisable (port : Nat) (v : Word)
  | suspendRequest (port : Nat) (v : Word)
  | restoreRequest (port : Nat) (v : Word)
  | overflowEvent (port : Nat)
  | hostWriteCompletion (port : Nat)
  | portLinkDown (port : Nat)
  | moduleReset (b : BootInput)
  | linkConfiguration (link : Nat) (peer : Nat)
  | ptpMessage (rate : Int)
  | powerArbitration (d : PowerInput)
  | throttleStep (die : Nat)
  | linkNarrow (link : Nat)
  | hostDeviceMemoryWrite (port : Nat) (pa : Nat) (bytes : List Byte)
  | meridianCounterStop (die : Nat)
  | hostPortLinkUp (port : Nat) (kind : LinkKind)
  | gangSliceSwitch
  | epochApply
  | referenceLoss
  | holdoverExpiry
deriving DecidableEq, Repr

end Sys2Proof
end

