-- ==== Sys2Proof/Config.lean ====
section
/-! DEFINITION. What the spec fixes for every part and the values it leaves open. A free value is an opaque
constant: nothing can evaluate it or prove a value of it. -/
namespace Sys2Proof.Config

/-- Core cycles in thirds of a fabric cycle at each throttle step: 940, 705, 470 and 235 MHz against 1,880 MHz
(R21). -/
def corePeriod (step : Nat) : Nat := [6, 8, 12, 24].getD step 24
/-- Thirds of a fabric cycle in one fabric cycle. -/
def fabricPeriod : Nat := 3
/-- Meridian ticks in a microsecond (62.5 ps each, R7). -/
def ticksPerUs : Nat := 16000
/-- Fabric cycles of mesh latency per hop and at the target port (R282). -/
def hopCycles : Nat := 4
/-- Log 6, DESIGN CHOICE. -/
def portCycles : Nat := 8
/-- Ticks that a Neatline crossing adds (R280, R288). -/
def neatlineTicks : Nat := 2704
/-- Fabric cycles of the fixed traversal of a Neatline link, 2,048 ticks rounded up (R288). Log 59, DESIGN CHOICE. -/
def neatlineCycles : Nat := 241

/-- Content of the bytes of an encoded Relief block beyond its stored sectors, which the spec leaves undefined
(R257); indexed by a fresh number. Log 11, DESIGN CHOICE. -/
opaque freeByte : Nat → BitVec 8
/-- Address of an attestation report (R395), which the spec leaves open. Log 11, DESIGN CHOICE. -/
opaque attestAddr : Nat → BitVec 64
/-- Bytes of an attestation report over a nonce and a module number, with the digests and the signature, whose format the
spec leaves open (R395). Log 11, DESIGN CHOICE. -/
opaque attestReport : Nat → List (BitVec 64) → Nat → List (BitVec 8)
/-- The ceiling in silicon of a die's grant (R396). Log 13, DESIGN CHOICE. -/
opaque dieCeiling : Nat → Nat
/-- The ceiling in silicon of the core voltage, in millivolts (R396). Log 13, DESIGN CHOICE. -/
opaque voltCeiling : Nat
/-- Fabric cycles by which a die's best-effort admission to the mesh is delayed (R398), which the spec leaves open; indexed
by a fresh number. Log 13, DESIGN CHOICE. -/
opaque admitDelay : Nat → Nat
/-- The configuration block that verifies at an address of host memory, if one does: neither its byte layout nor its signature
is given (R394). It is applied to the listed cells of host memory and the address. Log 11, DESIGN CHOICE. -/
opaque blockAt : List (Nat × BitVec 8) → Nat → Option ConfigBlock

/-- BSCALE of a block whose greatest magnitude, a / b, is divided by a superscale that has rounded to zero, for which
R255 states no value. Log 16, DESIGN CHOICE. -/
opaque scaleByZero : Nat → Nat → BitVec 8

/-- The t32e2 word of E(lg(x) / 2) of an infinite second state x of the Adam form, for which R324 states no
value. Log 16, DESIGN CHOICE. -/
opaque rootOfInfinity : BitVec 32

/-- KIND of the event that carries an attestation report, which R391 does not list. Log 11, DESIGN CHOICE. -/
opaque attestKind : BitVec 8

end Sys2Proof.Config
end

