-- ==== Sys2Proof/Machine/FieldRules.lean ====
section
/-! DEFINITION. The field checks of R62 step 2: for each instruction word, the register ranges (R60), the format
codes and profiles it accepts (R42, R43, R46), its stated field limits, and the fields it does not use, which are
zero (R9, R63). A word whose check fails raises ILG. -/
namespace Sys2Proof.Machine

/-! ### Format codes (R42) -/

/-- Tapered codes with a vector lane shape: t8e0 to t32e2. -/
def isTap (f : BitVec 6) : Bool := f.ule 0x0A#6
/-- Integer codes with a vector lane shape: i8 to n32. -/
def isInt (f : BitVec 6) : Bool := (0x10#6).ule f && f.ule 0x15#6
/-- IEEE codes: f16, bf16, f32. -/
def isIeee (f : BitVec 6) : Bool := (0x18#6).ule f && f.ule 0x1A#6
/-- Any code with a vector lane shape (R43). -/
def isLaneFmt (f : BitVec 6) : Bool := isInt f || isTap f || isIeee f
/-- The signed integer codes i8, i16, i32. -/
def isSignedInt (f : BitVec 6) : Bool := f == 0x10#6 || f == 0x12#6 || f == 0x14#6

/-- The width in bits of the elements of a lane format (R42); 4 for the 4-bit formats and bt4. -/
def fmtWidth (f : BitVec 6) : Nat :=
  if f.ule 0x03#6 then 8
  else if f.ule 0x07#6 then 16
  else if f.ule 0x0A#6 then 32
  else if f == 0x10#6 || f == 0x11#6 then 8
  else if f == 0x12#6 || f == 0x13#6 then 16
  else if f == 0x14#6 || f == 0x15#6 then 32
  else if f == 0x18#6 || f == 0x19#6 then 16
  else if f == 0x1A#6 || f == 0x24#6 then 32
  else 4

/-- Lanes of a vector register at a format (R43, R140). -/
def fmtLanes (f : BitVec 6) : Nat := 1024 / fmtWidth f

/-- Elements of an operand-slot row in a format, cnt(f) of R184. -/
def rowCount (f : BitVec 6) : Nat :=
  if f == 0x21#6 then 128
  else if fmtWidth f == 8 then 96
  else if fmtWidth f == 16 then 48
  else if fmtWidth f == 32 then 24
  else 192

/-! ### Guards and unused fields -/

/-- An unguarded instruction has PG = 0 and GN = 0 (R59). -/
def unguarded (g : Guard) : Bool := g.pg == 0 && !g.gn

/-- FMT, PROF, SGA, SGB of format A are zero. -/
def noFmt (f : FmtA) : Bool := f.fmt == 0 && f.prof == 0 && !f.sga && !f.sgb

/-- PROF, SGA, SGB of format A are zero. -/
def noProf (f : FmtA) : Bool := f.prof == 0 && !f.sga && !f.sgb

/-! ### Class C (R72, R98, R303) -/

def okNop (f : FmtJ) : Bool := f.ja == 0 && f.jb == 0 && f.jhi == 0 && f.jlo == 0
def okBr (f : FmtJ) : Bool := f.ja == 0 && f.jb == 0
def okBrc (f : FmtJ) : Bool := (f.jhi.extractLsb' 13 5).ule 9#5
def okBrm (f : FmtJ) : Bool := f.ja.ult 8 && f.jb == 0
def okPbr (f : FmtJ) : Bool :=
  f.ja.extractLsb' 2 3 == 0 && (if f.ja.getLsbD 5 then f.jb.ult 32 else f.jb == 0)
def okBrt (f : FmtJ) : Bool := f.ja.ult 4 && f.jb == 0 && f.jhi == 0 && f.jlo == 0
def okJtb (f : FmtJ) : Bool := f.jb.ult 32
def okLpad (g : Guard) (f : FmtJ) : Bool := unguarded g && f.ja == 0 && f.jb == 0 && f.jhi == 0
def okCall (f : FmtJ) : Bool := f.ja.ult 4 && f.jb == 0
def okLseq (f : FmtJ) : Bool := f.ja == 0 && f.jb.ult 32 && f.jhi.extractLsb' 8 10 == 0 && f.jlo == 0
def okLbr (f : FmtJ) : Bool := f.ja != 0
def okCode (f : FmtJ) : Bool := f.ja == 0 && f.jb == 0 && f.jhi == 0
def okPmark (g : Guard) (f : FmtJ) : Bool := unguarded g && okNop f
def okTwait (f : FmtJ) : Bool := f.jb == 0 && f.jhi == 0 && f.jlo == 0

/-- FENCE: SPACE, PRED, SUCC and SCOPE fill bits [21:10] (R303). -/
def fenceBits (f : FmtA) : BitVec 12 := f.fmt ++ f.prof
def okFence (f : FmtA) : Bool :=
  let b := fenceBits f
  f.dst == 0 && f.aux == 0 && !f.sga && !f.sgb && f.msk == 0 && f.sub == 0
    && b.extractLsb' 7 4 != 0 && b.extractLsb' 3 4 != 0 && (b.extractLsb' 0 3).ule 4

/-! ### Class I (R73, R126 to R128) -/

/-- A register field that FS directs to the address file holds 0 to 31 (R126). -/
def fsOk (isA : Bool) (n : BitVec 6) : Bool := !isA || n.ult 32

/-- Two sources, FS free, SUB at most `lim`. -/
def okI2 (lim : BitVec 5) (f : FmtA) : Bool :=
  noFmt f && f.aux == 0 && f.sub.ule lim
    && fsOk (f.msk.getLsbD 2) f.dst && fsOk (f.msk.getLsbD 1) f.opa && fsOk (f.msk.getLsbD 0) f.opb
def okI1 (f : FmtA) : Bool := okI2 0 f && f.opb == 0 && !f.msk.getLsbD 0
def okCmp (f : FmtA) : Bool := okI2 9 f && !f.msk.getLsbD 2 && f.dst.ult 16
def okSel (f : FmtA) : Bool := okI2 0 { f with aux := 0 } && f.aux.ult 16
def okPlogic (f : FmtA) : Bool :=
  okI2 3 f && f.msk == 0 && f.dst.ult 16 && f.opa.ult 16 && f.opb.ult 16
def okPnot (f : FmtA) : Bool := okPlogic f && f.sub == 0 && f.opb == 0
/-- TIME writes x[DST] (R139): a word with FS[7] set, which R126 would let name an a register, is refused with ILG.
Log 60, DEDUCED. -/
def okTime (f : FmtA) : Bool := okI2 0 f && f.opa == 0 && f.opb == 0 && f.msk == 0

/-- The system registers that some chapter assigns (R122). -/
def sysKnown (n : Nat) : Bool :=
  n ≤ 0x002 || (0x008 ≤ n && n ≤ 0x00B) || n == 0x010 || (0x018 ≤ n && n ≤ 0x01A)
    || (0x020 ≤ n && n ≤ 0x026) || (0x028 ≤ n && n ≤ 0x02B) || (0x100 ≤ n && n ≤ 0x107)
    || (0x108 ≤ n && n ≤ 0x114) || (0x115 ≤ n && n ≤ 0x11C)
/-- Marked "W in supervisor": EPC, TCAUSE, TADDR, TINVA, TINVC (R122, R314) and TRET (R377). -/
def sysSupervisorWrite (n : Nat) : Bool :=
  (0x018 ≤ n && n ≤ 0x01A) || n == 0x117 || n == 0x118 || n == 0x11C
/-- Writable by MTS in some mode. -/
def sysWritable (n : Nat) : Bool :=
  n == 0x00A || n == 0x00B || n == 0x010 || n == 0x107 || n == 0x113 || n == 0x116 || n == 0x11A
    || sysSupervisorWrite n
/-- The system-register index of MFS and MTS (R73). -/
def sysIndex (f : FmtB) : Nat := (f.imm.extractLsb' 0 12).toNat
def okMfs (f : FmtB) : Bool := f.opa == 0 && f.imm.extractLsb' 12 22 == 0 && sysKnown (sysIndex f)
def okMts (f : FmtB) : Bool := f.dst == 0 && f.imm.extractLsb' 12 22 == 0 && sysWritable (sysIndex f)
/-- The four MTS rows of the table that one register has to itself. -/
def okMtsOf (n : Nat) (f : FmtB) : Bool := okMts f && sysIndex f == n
def okMtsRest (f : FmtB) : Bool :=
  okMts f && sysIndex f != 0x010 && sysIndex f != 0x00B && sysIndex f != 0x107 && sysIndex f != 0x118
def okLea (f : FmtB) : Bool := f.dst.ult 32 && f.opa.ult 32
def okShi (f : FmtB) : Bool := f.imm.ult 64
def okCmpi (f : FmtB) : Bool := f.dst.ult 16 && (f.imm.extractLsb' 29 5).ule 9
def okMovi (f : FmtW) : Bool := !f.hi
def okMoviHi (f : FmtW) : Bool := f.hi && f.imm.extractLsb' 25 14 == 0

/-! ### Class L (R67, R219, R234, R271) -/

def okLdx (sz : BitVec 3) (f : FmtL) : Bool := f.sz == sz && f.msk == 0 && f.lx.ule 1
def okDd (f : FmtL) : Bool :=
  f.sz == 3 && f.msk == 0 && (f.lx == 0 || (f.lx == 2 && f.dt.ult 32))
def okStx (sz : BitVec 3) (f : FmtL) : Bool := f.sz == sz && f.msk == 0 && f.lx == 0
def okVl (f : FmtL) : Bool := f.sz == 6 && f.lx == 0
def okVls (f : FmtL) : Bool := f.sz == 6 && f.lx.ule 2
/-- SZ 0 to 3 with no mask, or SZ 6. -/
def okXv (f : FmtL) : Bool := (f.sz.ule 3 && f.msk == 0) || f.sz == 6
def okCld (f : FmtL) : Bool := okXv f && (f.lx == 0 || (f.lx == 1 && f.sz.ule 2))
def okCst (f : FmtL) : Bool := okXv f && f.lx == 0
def okRw (f : FmtL) : Bool := ((f.sz == 3 && f.msk == 0) || f.sz == 6) && f.lx.ule 3
/-- With LX[2] = 0 the sync-index part of OFF is zero (R271). -/
def okSyncOff (f : FmtL) : Bool := f.lx.getLsbD 2 || f.off.extractLsb' 11 9 == 0
def okStva (f : FmtL) : Bool := okXv f && f.lx.extractLsb' 0 2 == 0 && okSyncOff f
def okRwva (f : FmtL) : Bool := ((f.sz == 3 && f.msk == 0) || f.sz == 6) && okSyncOff f
def okSarr (f : FmtL) : Bool := f.dt == 0 && f.sz == 3 && f.msk == 0 && f.lx == 0
def okSwait (f : FmtL) : Bool := f.sz == 3 && f.msk == 0 && f.lx == 0
def okSaeq (f : FmtL) : Bool :=
  f.lx.ule 5 && (1#3).ule f.sz && f.sz.ule 3
    && (if f.msk.ule 1 then true
        else if f.msk.ule 4 || f.msk == 6 then f.sz.ule 2
        else f.sz == 1)
def okSaef (f : FmtL) : Bool :=
  f.base == 0 && f.idx == 0 && f.off == 0 && f.sz == 0 && f.msk == 0 && f.lx == 0

/-! ### Class V (R143, R148, R155) -/

/-- Three v operands, AUX zero. -/
def okV3 (fmtOk : BitVec 6 → Bool) (sub : BitVec 5) (f : FmtA) : Bool :=
  fmtOk f.fmt && noProf f && f.aux == 0 && f.sub.ule sub
/-- Two v operands (OPB zero), AUX zero. -/
def okV2 (fmtOk : BitVec 6 → Bool) (sub : BitVec 5) (f : FmtA) : Bool := okV3 fmtOk sub f && f.opb == 0
def okVlogic (f : FmtA) : Bool := noFmt f && f.aux == 0 && f.sub == 0
/-- VLUT3 carries IMM8 in PROF, SGA, SGB. -/
def okVlut3 (f : FmtA) : Bool := f.fmt == 0 && f.sub == 0
def okVsh (f : FmtA) : Bool :=
  isInt f.fmt && noProf f && ((f.sub == 0 && f.aux == 0) || (f.sub == 1 && f.opb == 0))
def okVfsh (f : FmtA) : Bool := isInt f.fmt && noProf f && f.sub == 0 && f.aux.toNat < fmtLanes f.fmt
def okVrot (f : FmtA) : Bool :=
  isInt f.fmt && noProf f && f.sub.ule 1 && f.opb == 0 && f.aux.toNat < fmtLanes f.fmt
def okVbcast (f : FmtA) : Bool :=
  isInt f.fmt && noProf f && f.opb == 0
    && (if f.sub.ule 1 then f.aux.toNat + 64 * f.sub.toNat < fmtLanes f.fmt else f.sub == 2 && f.aux == 0)
def okVcmp (f : FmtA) : Bool :=
  isLaneFmt f.fmt && noProf f && f.aux == 0 && f.dst.ult 8
    && (if isInt f.fmt then f.sub.ule 9 else f.sub.ule 5)
def isReal (f : BitVec 6) : Bool := isTap f || isIeee f
def okVfma (f : FmtA) : Bool := isReal f.fmt && noProf f && f.sub == 0
def okVcvt (f : FmtA) : Bool :=
  isLaneFmt f.fmt && isLaneFmt f.aux && noProf f && f.opb == 0
    && (let ws := fmtWidth f.aux; let wt := fmtWidth f.fmt
        decide (f.sub.toNat < max ws wt / min ws wt))
def okMlogic (f : FmtA) : Bool :=
  noFmt f && f.aux == 0 && f.msk == 0 && f.dst.ult 8 && f.opa.ult 8 && f.opb.ult 8 && f.sub.ule 3
def okMnot (f : FmtA) : Bool := okMlogic f && f.opb == 0 && f.sub == 0
def okMpop (f : FmtA) : Bool :=
  noFmt f && f.aux == 0 && f.msk == 0 && f.opa.ult 8 && f.opb == 0 && f.sub == 0
def isScoreFmt (f : BitVec 6) : Bool := ((0x08#6).ule f && f.ule 0x0A#6) || f == 0x1A#6
def okVswt (f : FmtA) : Bool := isScoreFmt f.fmt && noProf f && f.sub == 0 && f.aux.ult 8
def okVspick (sub : BitVec 5) (f : FmtA) : Bool :=
  f.fmt == 0x0A && noProf f && f.sub == sub && f.aux.ult 8
/-- The start form uses no mask, and R158 and R143 name only its other unused fields: any MSK is accepted. Log 60,
DEDUCED. -/
def okVspickStart (f : FmtA) : Bool := okVspick 1 f && f.dst == 0 && f.opa == 0

/-! ### Class Q (R170) -/

def okQclr (f : FmtA) : Bool :=
  noFmt f && f.dst.ult 8 && f.opa == 0 && f.opb == 0 && f.aux == 0 && f.msk == 0 && f.sub == 0
/-- Format, profile and signedness of QDOT and QFMA: integers take profile 0, and only they are unsigned (R50). -/
def okProfile (f : FmtA) : Bool :=
  isLaneFmt f.fmt && (if isInt f.fmt then f.prof == 0 else f.prof.ule 3 && !f.sga && !f.sgb)
def okQdot (f : FmtA) : Bool := f.dst.ult 8 && f.aux == 0 && f.sub.ule 1 && okProfile f
def okQfma (f : FmtA) : Bool := okQdot f && f.msk == 0
def okQadd (f : FmtA) : Bool :=
  isLaneFmt f.fmt && noProf f && f.dst.ult 8 && f.opb == 0 && f.aux == 0 && f.msk == 0 && f.sub.ule 1
def okQaddq (f : FmtA) : Bool :=
  noFmt f && f.dst.ult 8 && f.opa.ult 8 && f.opb == 0 && f.aux == 0 && f.msk == 0 && f.sub.ule 1
def okQrnd (f : FmtA) : Bool :=
  isLaneFmt f.fmt && noProf f && f.opa.ult 8 && f.opb == 0 && f.aux == 0 && f.msk == 0 && f.sub == 0
def okQtst (f : FmtA) : Bool :=
  noFmt f && f.dst.ult 16 && f.opa.ult 8 && f.opb == 0 && f.aux == 0 && f.msk == 0 && f.sub.ule 5
def okQtstNar (f : FmtA) : Bool :=
  noFmt f && f.dst.ult 16 && f.opa.ult 8 && f.opb == 0 && f.aux == 1 && f.msk == 0 && f.sub == 0
/-- QFROM carries IMM8, the cell, in PROF, SGA, SGB. -/
def okQfrom (f : FmtA) : Bool :=
  f.fmt == 0 && f.dst.ult 8 && f.opa.ult 8 && f.opb == 0 && f.aux == 0 && f.msk == 0 && f.sub.ule 1
/-- QSAVE, QLOAD, MSAVE and MLOAD: DT below 8, SZ 6 (R170, R202). -/
def okImage (f : FmtL) : Bool := f.dt.ult 8 && f.sz == 6 && f.msk == 0 && f.lx == 0

/-! ### Classes M and D (R189 to R207) -/

def okMclaim (f : FmtA) : Bool := noFmt f && f.opb == 0 && f.aux == 0 && f.msk == 0 && f.sub.ule 7
def okMrel (f : FmtA) : Bool := okMclaim f && f.dst == 0 && f.sub.ule 1
def okMlda (f : FmtL) : Bool := f.sz == 4 && f.msk == 0 && f.lx.ule 3

/-- B start of an array instruction: 32 × MX[1:0] (R194). -/
def bStart (f : FmtM) : Nat := 32 * (f.mx.extractLsb' 0 2).toNat
/-- The pass length of MMA and MMAI before KLEN (R194). -/
def passLength (f : FmtM) : Nat := min (min (rowCount f.fmta) (rowCount f.fmtb - bStart f)) 96
/-- Partners that a bt4 or 4-bit B operand admits (R193). -/
def isBtPartner (f : BitVec 6) : Bool := f.ule 0x06 || f == 0x10 || f == 0x11 || f == 0x18
def okMma (f : FmtM) : Bool :=
  !f.sga && !f.sgb && f.klen.toNat ≤ passLength f
    && (if (isTap f.fmta && isTap f.fmtb) || (isIeee f.fmta && isIeee f.fmtb) then f.prof.ule 3 && f.mx == 0
        else isBtPartner f.fmta && (f.fmtb == 0x20 || f.fmtb == 0x21 || f.fmtb == 0x22)
          && f.prof == 0 && f.mx.ule 3)
def okMmai (f : FmtM) : Bool :=
  f.prof == 0 && isInt f.fmta && f.klen.toNat ≤ passLength f
    && ((isInt f.fmtb && f.mx == 0) || (f.fmtb == 0x23 && f.mx.ule 3))
def okMlut (f : FmtM) : Bool :=
  f.prof == 0 && !f.sga && !f.sgb && (f.fmta.ule 3 || f.fmta == 0x10 || f.fmta == 0x11)
    && f.fmtb == 0 && f.mx.ule 7 && f.klen.ule 96
def okMzero (f : FmtM) : Bool :=
  f.osa == 0 && f.osb == 0 && f.prof == 0 && !f.sga && !f.sgb && f.fmta == 0 && f.fmtb == 0
    && f.klen == 0 && f.mx == 0
def okDclr (f : FmtM) : Bool :=
  f.osa == 0 && f.osb == 0 && f.prof == 0 && !f.sga && !f.sgb && f.fmta == 0 && f.fmtb == 0
    && f.klen.ule 15 && f.mx.toNat + (f.klen.toNat + 1) ≤ 16
/-- The part s of AUX[5:3] satisfies 16·s < 1,024 / w (R203). -/
def okPart (f : FmtA) : Bool := 16 * (f.aux.extractLsb' 3 3).toNat < fmtLanes f.fmt
def okDrd (f : FmtA) : Bool :=
  isLaneFmt f.fmt && noProf f && f.opa == 0 && f.opb == 0 && f.sub.ule 15 && okPart f
def okDsgd (f : FmtA) : Bool := isReal f.fmt && noProf f && f.sub.ule 15 && okPart f
def okDpub (f : FmtL) : Bool := f.sz == 3 && f.msk == 0 && f.lx == 0

/-! ### Class K (R68, R244, R316, R317, R333, R361, R365) -/

/-- With SWE 0 the field SW is zero (R68). -/
def okSwe (f : FmtK) : Bool := f.swe || f.sw == 0
def kxBits (f : FmtK) (lo n : Nat) : BitVec n := f.kx.extractLsb' lo n
/-- A plain KCP has no half: KX[4] set raises ILG. Log 60, DEDUCED. -/
def okKcp (f : FmtK) : Bool := okSwe f && f.lrec == 0 && kxBits f 0 10 == 0
def okKcpOpimg (f : FmtK) : Bool :=
  okSwe f && f.lrec == 0 && kxBits f 0 4 == 1 && kxBits f 5 5 == 0 && f.kx.getLsbD 11
def okKcpn (f : FmtK) : Bool :=
  let n := (kxBits f 5 3).toNat
  okSwe f && f.lrec == 0 && kxBits f 8 2 == 0 && 1 ≤ n && n ≤ 6
    && (kxBits f 0 5).toNat + 2 * (n - 1) ≤ 32
def okKcpv (f : FmtK) : Bool := okSwe f && kxBits f 0 10 == 0
def okKtr (f : FmtK) : Bool :=
  okSwe f && f.cnt == 0 && (kxBits f 0 2).ule 2 && (kxBits f 2 4).ule 8 && kxBits f 6 4 == 0
def okKenc (f : FmtK) : Bool := okSwe f && f.lrec == 0 && kxBits f 2 8 == 0
def okKrec (f : FmtK) : Bool := okSwe f && f.tgt == 0 && f.lrec == 0 && kxBits f 2 8 == 0 && !f.kx.getLsbD 11
def okKseal (isUnseal : Bool) (f : FmtK) : Bool :=
  okSwe f && f.tgt == 0 && f.lrec == 0 && f.kx.getLsbD 0 == isUnseal && kxBits f 3 7 == 0 && !f.kx.getLsbD 11
def okKtab (f : FmtK) : Bool :=
  okSwe f && f.tgt == 0 && f.lrec == 0 && kxBits f 7 5 == 0 && (kxBits f 3 4).ule 11
    && (f.kx.getLsbD 2 || kxBits f 3 4 == 0)
def noKfields (f : FmtK) : Bool := f.tgt == 0 && f.frm == 0 && f.lrec == 0 && f.cnt == 0
def okKdrain (f : FmtK) : Bool := noKfields f && !f.intr && !f.swe && f.sw == 0 && f.kx == 0
def okKres (drop : Bool) (f : FmtK) : Bool :=
  noKfields f && !f.intr && !f.swe && f.sw == 0 && f.kx == (if drop then 1 else 0)
def okKnmc (f : FmtK) : Bool := okSwe f && f.tgt == 0 && f.frm == 0 && f.cnt == 0 && f.kx == 0
def okKcol (f : FmtK) : Bool :=
  let prod := f.kx.getLsbD 0; let cons := f.kx.getLsbD 1
  okSwe f && (prod || cons) && (cons || (f.tgt == 0 && f.cnt == 0)) && (prod || f.frm == 0)
    && (f.kx.getLsbD 2 || kxBits f 3 9 == 0)
def okKcan (f : FmtK) : Bool := okSwe f && f.tgt == 0 && f.frm == 0 && f.lrec == 0 && f.kx == 0
def okKtsk (f : FmtK) : Bool := okSwe f && f.tgt == 0 && f.lrec == 0 && f.kx == 0
def okGstep (f : FmtK) : Bool := okSwe f && f.kx == 0
def okGmask (f : FmtK) : Bool := okSwe f && f.cnt == 0 && f.kx == 0

/-- The field checks of R62 step 2 for every instruction word; a step without a word has no fields to check. -/
def fieldsOk : Instr → Bool
  | .nop _ f => okNop f
  | .br _ f => okBr f
  | .brc _ f => okBrc f
  | .brm _ f => okBrm f
  | .pbr _ f => okPbr f
  | .brt _ f => okBrt f
  | .jtb _ f => okJtb f
  | .lpad g f => okLpad g f
  | .call _ f => okCall f
  | .ret _ f => okBrt f
  | .lseq _ f => okLseq f
  | .lbr _ f => okLbr f
  | .tfence _ f => okCode f
  | .pmark g f => okPmark g f
  | .fence _ f => okFence f
  | .yield _ f => okNop f
  | .twait _ f => okTwait f
  | .trap _ f => okCode f
  | .svc _ f => okCode f
  | .tend _ f => okNop f
  | .add _ f => okI2 0 f
  | .sub _ f => okI2 0 f
  | .mul _ f => okI2 0 f
  | .mulh _ f => okI2 1 f
  | .div _ f => okI2 1 f
  | .rem _ f => okI2 1 f
  | .and _ f => okI2 0 f
  | .or _ f => okI2 0 f
  | .xor _ f => okI2 0 f
  | .andn _ f => okI2 0 f
  | .shl _ f => okI2 0 f
  | .shr _ f => okI2 0 f
  | .sra _ f => okI2 0 f
  | .rotl _ f => okI2 0 f
  | .clz _ f => okI1 f
  | .popc _ f => okI1 f
  | .min _ f => okI2 1 f
  | .max _ f => okI2 1 f
  | .cmp _ f => okCmp f
  | .sel _ f => okSel f
  | .pand _ f => okPlogic f
  | .por _ f => okPlogic f
  | .pxor _ f => okPlogic f
  | .pnot _ f => okPnot f
  | .mfs _ f => okMfs f
  | .mts _ f => okMtsRest f
  | .mtsSticky _ f => okMtsOf 0x010 f
  | .mtsPend _ f => okMtsOf 0x00B f
  | .regrelWrite _ f => okMtsOf 0x107 f
  | .tinvcStart _ f => okMtsOf 0x118 f
  | .time _ f => okTime f
  | .lea _ f => okLea f
  | .movi _ f => okMovi f
  | .moviHi _ f => okMoviHi f
  | .addi _ _ => true
  | .andi _ _ => true
  | .ori _ _ => true
  | .xori _ _ => true
  | .shli _ f => okShi f
  | .shri _ f => okShi f
  | .srai _ f => okShi f
  | .cmpi _ f => okCmpi f
  | .ldb _ f => okLdx 0 f
  | .ldh _ f => okLdx 1 f
  | .ldw _ f => okLdx 2 f
  | .ldd _ f => okDd f
  | .stb _ f => okStx 0 f
  | .sth _ f => okStx 1 f
  | .stw _ f => okStx 2 f
  | .std _ f => okDd f
  | .vld _ f => okVl f
  | .vst _ f => okVl f
  | .vlds _ f => okVls f
  | .vsts _ f => okVls f
  | .cld _ f => okCld f
  | .cst _ f => okCst f
  | .rwr _ f => okRw f
  | .rws _ f => okRw f
  | .ldnb _ f => okCld f
  | .stva _ f => okStva f
  | .rwva _ f => okRwva f
  | .sarr _ f => okSarr f
  | .swait _ f => okSwait f
  | .sacq _ f => okSwait f
  | .srel _ f => okSarr f
  | .sset _ f => okSwait f
  | .saeq _ f => okSaeq f
  | .saef _ f => okSaef f
  | .vadd _ f => okV3 isInt 1 f
  | .vsub _ f => okV3 isInt 1 f
  | .vmul _ f => okV3 isInt 2 f
  | .vmin _ f => okV3 isInt 0 f
  | .vmax _ f => okV3 isInt 0 f
  | .vand _ f => okVlogic f
  | .vor _ f => okVlogic f
  | .vxor _ f => okVlogic f
  | .vlut3 _ f => okVlut3 f
  | .vshl _ f => okVsh f
  | .vshr _ f => okVsh f
  | .vfsh _ f => okVfsh f
  | .vpopc _ f => okV2 isInt 0 f
  | .vclz _ f => okV2 isInt 0 f
  | .vrot _ f => okVrot f
  | .vperm _ f => okV3 isInt 0 f
  | .vbcast _ f => okVbcast f
  | .vsel _ f => okV3 isInt 0 f
  | .vcmp _ f => okVcmp f
  | .vfadd _ f => okV3 isReal 0 f
  | .vfsub _ f => okV3 isReal 0 f
  | .vfmul _ f => okV3 isReal 0 f
  | .vfma _ f => okVfma f
  | .vfmin _ f => okV3 isReal 0 f
  | .vfmax _ f => okV3 isReal 0 f
  | .vfdiv _ f => okV3 isReal 0 f
  | .vfsqrt _ f => okV2 isReal 0 f
  | .vfabs _ f => okV2 isReal 0 f
  | .vfneg _ f => okV2 isReal 0 f
  | .vcvt _ f => okVcvt f
  | .vrmax _ f => okV2 isLaneFmt 1 f
  | .vrmin _ f => okV2 isLaneFmt 1 f
  | .vradd _ f => okV2 isLaneFmt 1 f
  | .mand _ f => okMlogic f
  | .mor _ f => okMlogic f
  | .mnot _ f => okMnot f
  | .mpop _ f => okMpop f
  | .vswt _ f => okVswt f
  | .vspickStart _ f => okVspickStart f
  | .vspickScan _ f => okVspick 0 f
  | .vspickFinal _ f => okVspick 2 f
  | .qclr _ f => okQclr f
  | .qdot _ f => okQdot f
  | .qfma _ f => okQfma f
  | .qadd _ f => okQadd f
  | .qaddq _ f => okQaddq f
  | .qneg _ f => okQclr f
  | .qrnd _ f => okQrnd f
  | .qsave _ f => okImage f
  | .qload _ f => okImage f
  | .qtst _ f => okQtst f
  | .qtstNar _ f => okQtstNar f
  | .qfrom _ f => okQfrom f
  | .mclaim _ f => okMclaim f
  | .mrel _ f => okMrel f
  | .mlda _ f => okMlda f
  | .mma _ f => okMma f
  | .mmai _ f => okMmai f
  | .mlut _ f => okMlut f
  | .mzero _ f => okMzero f
  | .msave _ f => okImage f
  | .mload _ f => okImage f
  | .drd _ f => okDrd f
  | .dsgd _ f => okDsgd f
  | .dmom _ f => okDsgd f
  | .dpub _ f => okDpub f
  | .dclr _ f => okDclr f
  | .kcp _ f => okKcp f
  | .kcpOpimg _ f => okKcpOpimg f
  | .kcpn _ f => okKcpn f
  | .kcpv _ f => okKcpv f
  | .ktr _ f => okKtr f
  | .kenc _ f => okKenc f
  | .krec _ f => okKrec f
  | .kseal _ f => okKseal false f
  | .ksealUnseal _ f => okKseal true f
  | .ktab _ f => okKtab f
  | .kdrain _ f => okKdrain f
  | .kres _ f => okKres false f
  | .kresDrop _ f => okKres true f
  | .knmc _ f => okKnmc f
  | .kcol _ f => okKcol f
  | .kcan _ f => okKcan f
  | .ktsk _ f => okKtsk f
  | .gstep _ f => okGstep f
  | .gmask _ f => okGmask f
  | .tretResume _ => true
  | .tretSuspend _ => true
  | .tretKill _ => true
  | .pendingRelease _ _ _ => true
  | .groupFetch _ => true
  | .blockedGroupIssue _ => true
  | .resultLanding _ => true
  | .arrayResultLanding _ => true
  | .tileClearDone _ _ => true
  | .slotClearDone _ _ => true
  | .regionZeroDone _ _ => true
  | .saeRunApply _ => true
  | .remoteWriteArrival _ _ => true
  | .timedWritePerform _ _ => true
  | .lateNoticeArrival _ => true
  | .releaseMessageArrival _ => true
  | .gateOpen _ _ => true
  | .commandStart _ _ => true
  | .copyUnitTransfer _ _ => true
  | .commandComplete _ _ => true
  | .dictSlotSwitch _ _ => true
  | .kcpvVersionReached _ _ => true
  | .acquireReferenceSatisfied _ => true
  | .nmcCommandAccept _ => true
  | .reductionCommand _ => true
  | .updateRow _ => true
  | .transformCommand _ => true
  | .gazetteerQuery _ => true
  | .nmcTimedRelease _ => true
  | .grammarCommand _ => true
  | .collectiveForm _ => true
  | .planeInject _ _ _ => true
  | .planeLand _ _ _ => true
  | .cancelReceipt _ _ => true
  | .cancelAck _ => true
  | .nodeAccept _ => true
  | .nodeDispatch _ => true
  | .taskLaunch _ => true
  | .taskComplete _ => true
  | .contextRecordWrite _ => true
  | .restore _ => true
  | .sliceExpiry _ => true
  | .platExpiry _ => true
  | .gangSliceSwitch => true
  | .invalidationRequest _ _ => true
  | .invalidationAckSend _ _ => true
  | .invalidationAck _ _ => true
  | .submitNode _ _ _ => true
  | .ownerAcquire _ => true
  | .ownerRelease _ => true
  | .moduleBlockWrite _ _ _ => true
  | .epochWrite _ _ => true
  | .epochApply => true
  | .readySet _ _ => true
  | .attestReport _ _ => true
  | .rfree _ _ => true
  | .hostInvalidate _ _ => true
  | .gctlEnable _ _ => true
  | .gctlDisable _ _ => true
  | .suspendRequest _ _ => true
  | .restoreRequest _ _ => true
  | .overflowEvent _ => true
  | .hostWriteCompletion _ => true
  | .portLinkDown _ => true
  | .moduleReset _ => true
  | .linkConfiguration _ _ => true
  | .ptpMessage _ => true
  | .referenceLoss => true
  | .holdoverExpiry => true
  | .powerArbitration _ => true
  | .throttleStep _ => true
  | .linkNarrow _ => true
  | .hostDeviceMemoryWrite _ _ _ => true
  | .meridianCounterStop _ => true
  | .hostPortLinkUp _ _ => true

/-- Whether an instruction is a word (one of the 174 encoded rows) and not a step of the machine. -/
def isWord : Instr → Bool
  | .nop _ _ => true
  | .br _ _ => true
  | .brc _ _ => true
  | .brm _ _ => true
  | .pbr _ _ => true
  | .brt _ _ => true
  | .jtb _ _ => true
  | .lpad _ _ => true
  | .call _ _ => true
  | .ret _ _ => true
  | .lseq _ _ => true
  | .lbr _ _ => true
  | .tfence _ _ => true
  | .pmark _ _ => true
  | .fence _ _ => true
  | .yield _ _ => true
  | .twait _ _ => true
  | .trap _ _ => true
  | .svc _ _ => true
  | .tend _ _ => true
  | .add _ _ => true
  | .sub _ _ => true
  | .mul _ _ => true
  | .mulh _ _ => true
  | .div _ _ => true
  | .rem _ _ => true
  | .and _ _ => true
  | .or _ _ => true
  | .xor _ _ => true
  | .andn _ _ => true
  | .shl _ _ => true
  | .shr _ _ => true
  | .sra _ _ => true
  | .rotl _ _ => true
  | .clz _ _ => true
  | .popc _ _ => true
  | .min _ _ => true
  | .max _ _ => true
  | .cmp _ _ => true
  | .sel _ _ => true
  | .pand _ _ => true
  | .por _ _ => true
  | .pxor _ _ => true
  | .pnot _ _ => true
  | .mfs _ _ => true
  | .mts _ _ => true
  | .mtsSticky _ _ => true
  | .mtsPend _ _ => true
  | .regrelWrite _ _ => true
  | .tinvcStart _ _ => true
  | .time _ _ => true
  | .lea _ _ => true
  | .movi _ _ => true
  | .moviHi _ _ => true
  | .addi _ _ => true
  | .andi _ _ => true
  | .ori _ _ => true
  | .xori _ _ => true
  | .shli _ _ => true
  | .shri _ _ => true
  | .srai _ _ => true
  | .cmpi _ _ => true
  | .ldb _ _ => true
  | .ldh _ _ => true
  | .ldw _ _ => true
  | .ldd _ _ => true
  | .stb _ _ => true
  | .sth _ _ => true
  | .stw _ _ => true
  | .std _ _ => true
  | .vld _ _ => true
  | .vst _ _ => true
  | .vlds _ _ => true
  | .vsts _ _ => true
  | .cld _ _ => true
  | .cst _ _ => true
  | .rwr _ _ => true
  | .rws _ _ => true
  | .ldnb _ _ => true
  | .stva _ _ => true
  | .rwva _ _ => true
  | .sarr _ _ => true
  | .swait _ _ => true
  | .sacq _ _ => true
  | .srel _ _ => true
  | .sset _ _ => true
  | .saeq _ _ => true
  | .saef _ _ => true
  | .vadd _ _ => true
  | .vsub _ _ => true
  | .vmul _ _ => true
  | .vmin _ _ => true
  | .vmax _ _ => true
  | .vand _ _ => true
  | .vor _ _ => true
  | .vxor _ _ => true
  | .vlut3 _ _ => true
  | .vshl _ _ => true
  | .vshr _ _ => true
  | .vfsh _ _ => true
  | .vpopc _ _ => true
  | .vclz _ _ => true
  | .vrot _ _ => true
  | .vperm _ _ => true
  | .vbcast _ _ => true
  | .vsel _ _ => true
  | .vcmp _ _ => true
  | .vfadd _ _ => true
  | .vfsub _ _ => true
  | .vfmul _ _ => true
  | .vfma _ _ => true
  | .vfmin _ _ => true
  | .vfmax _ _ => true
  | .vfdiv _ _ => true
  | .vfsqrt _ _ => true
  | .vfabs _ _ => true
  | .vfneg _ _ => true
  | .vcvt _ _ => true
  | .vrmax _ _ => true
  | .vrmin _ _ => true
  | .vradd _ _ => true
  | .mand _ _ => true
  | .mor _ _ => true
  | .mnot _ _ => true
  | .mpop _ _ => true
  | .vswt _ _ => true
  | .vspickStart _ _ => true
  | .vspickScan _ _ => true
  | .vspickFinal _ _ => true
  | .qclr _ _ => true
  | .qdot _ _ => true
  | .qfma _ _ => true
  | .qadd _ _ => true
  | .qaddq _ _ => true
  | .qneg _ _ => true
  | .qrnd _ _ => true
  | .qsave _ _ => true
  | .qload _ _ => true
  | .qtst _ _ => true
  | .qtstNar _ _ => true
  | .qfrom _ _ => true
  | .mclaim _ _ => true
  | .mrel _ _ => true
  | .mlda _ _ => true
  | .mma _ _ => true
  | .mmai _ _ => true
  | .mlut _ _ => true
  | .mzero _ _ => true
  | .msave _ _ => true
  | .mload _ _ => true
  | .drd _ _ => true
  | .dsgd _ _ => true
  | .dmom _ _ => true
  | .dpub _ _ => true
  | .dclr _ _ => true
  | .kcp _ _ => true
  | .kcpOpimg _ _ => true
  | .kcpn _ _ => true
  | .kcpv _ _ => true
  | .ktr _ _ => true
  | .kenc _ _ => true
  | .krec _ _ => true
  | .kseal _ _ => true
  | .ksealUnseal _ _ => true
  | .ktab _ _ => true
  | .kdrain _ _ => true
  | .kres _ _ => true
  | .kresDrop _ _ => true
  | .knmc _ _ => true
  | .kcol _ _ => true
  | .kcan _ _ => true
  | .ktsk _ _ => true
  | .gstep _ _ => true
  | .gmask _ _ => true
  | .tretResume _ => false
  | .tretSuspend _ => false
  | .tretKill _ => false
  | .pendingRelease _ _ _ => false
  | .groupFetch _ => false
  | .blockedGroupIssue _ => false
  | .resultLanding _ => false
  | .arrayResultLanding _ => false
  | .tileClearDone _ _ => false
  | .slotClearDone _ _ => false
  | .regionZeroDone _ _ => false
  | .saeRunApply _ => false
  | .remoteWriteArrival _ _ => false
  | .timedWritePerform _ _ => false
  | .lateNoticeArrival _ => false
  | .releaseMessageArrival _ => false
  | .gateOpen _ _ => false
  | .commandStart _ _ => false
  | .copyUnitTransfer _ _ => false
  | .commandComplete _ _ => false
  | .dictSlotSwitch _ _ => false
  | .kcpvVersionReached _ _ => false
  | .acquireReferenceSatisfied _ => false
  | .nmcCommandAccept _ => false
  | .reductionCommand _ => false
  | .updateRow _ => false
  | .transformCommand _ => false
  | .gazetteerQuery _ => false
  | .nmcTimedRelease _ => false
  | .grammarCommand _ => false
  | .collectiveForm _ => false
  | .planeInject _ _ _ => false
  | .planeLand _ _ _ => false
  | .cancelReceipt _ _ => false
  | .cancelAck _ => false
  | .nodeAccept _ => false
  | .nodeDispatch _ => false
  | .taskLaunch _ => false
  | .taskComplete _ => false
  | .contextRecordWrite _ => false
  | .restore _ => false
  | .sliceExpiry _ => false
  | .platExpiry _ => false
  | .gangSliceSwitch => false
  | .invalidationRequest _ _ => false
  | .invalidationAckSend _ _ => false
  | .invalidationAck _ _ => false
  | .submitNode _ _ _ => false
  | .ownerAcquire _ => false
  | .ownerRelease _ => false
  | .moduleBlockWrite _ _ _ => false
  | .epochWrite _ _ => false
  | .epochApply => false
  | .readySet _ _ => false
  | .attestReport _ _ => false
  | .rfree _ _ => false
  | .hostInvalidate _ _ => false
  | .gctlEnable _ _ => false
  | .gctlDisable _ _ => false
  | .suspendRequest _ _ => false
  | .restoreRequest _ _ => false
  | .overflowEvent _ => false
  | .hostWriteCompletion _ => false
  | .portLinkDown _ => false
  | .moduleReset _ => false
  | .linkConfiguration _ _ => false
  | .ptpMessage _ => false
  | .referenceLoss => false
  | .holdoverExpiry => false
  | .powerArbitration _ => false
  | .throttleStep _ => false
  | .linkNarrow _ => false
  | .hostDeviceMemoryWrite _ _ _ => false
  | .meridianCounterStop _ => false
  | .hostPortLinkUp _ _ => false

end Sys2Proof.Machine
end

