-- ==== Sys2Proof/WellFormed.lean ====
section
/-! DEFINITION. Well-formedness of an instruction: it passes every field check of R62 step 2. -/
namespace Sys2Proof

/-- The instruction passes the field checks of R62 step 2. -/
def Instr.wf (i : Instr) : Bool := Machine.fieldsOk i

/-- A well-formed instruction word (not a step without a word). -/
def Instr.wfWord (i : Instr) : Bool := Machine.isWord i && Machine.fieldsOk i

end Sys2Proof
end

