-- ==== Sys2Proof/Decode.lean ====
section
/-! DEFINITION. The decoder of instruction words (R55, R62 steps 1 and 2, R71 to R79) and the encoder, both from the
field tables of R63 to R70. -/
namespace Sys2Proof

/-! ### Formats as the 46 bits below PG and GN -/

def FmtA.ofBits (b : BitVec 46) : FmtA :=
  { dst := b.extractLsb' 40 6, opa := b.extractLsb' 34 6, opb := b.extractLsb' 28 6, aux := b.extractLsb' 22 6,
    fmt := b.extractLsb' 16 6, prof := b.extractLsb' 10 6, sga := b.getLsbD 9, sgb := b.getLsbD 8,
    msk := b.extractLsb' 5 3, sub := b.extractLsb' 0 5 }
def FmtA.bits (f : FmtA) : BitVec 46 :=
  f.dst ++ (f.opa ++ (f.opb ++ (f.aux ++ (f.fmt ++ (f.prof ++
    (BitVec.ofBool f.sga ++ (BitVec.ofBool f.sgb ++ (f.msk ++ f.sub))))))))

def FmtB.ofBits (b : BitVec 46) : FmtB :=
  { dst := b.extractLsb' 40 6, opa := b.extractLsb' 34 6, imm := b.extractLsb' 0 34 }
def FmtB.bits (f : FmtB) : BitVec 46 := f.dst ++ (f.opa ++ f.imm)

def FmtJ.ofBits (b : BitVec 46) : FmtJ :=
  { ja := b.extractLsb' 40 6, jb := b.extractLsb' 34 6, jhi := b.extractLsb' 16 18, jlo := b.extractLsb' 0 16 }
def FmtJ.bits (f : FmtJ) : BitVec 46 := f.ja ++ (f.jb ++ (f.jhi ++ f.jlo))

def FmtL.ofBits (b : BitVec 46) : FmtL :=
  { dt := b.extractLsb' 40 6, base := b.extractLsb' 35 5, idx := b.extractLsb' 29 6, off := b.extractLsb' 9 20,
    sz := b.extractLsb' 6 3, msk := b.extractLsb' 3 3, lx := b.extractLsb' 0 3 }
def FmtL.bits (f : FmtL) : BitVec 46 :=
  f.dt ++ (f.base ++ (f.idx ++ (f.off ++ (f.sz ++ (f.msk ++ f.lx)))))

def FmtK.ofBits (b : BitVec 46) : FmtK :=
  { ch := b.extractLsb' 44 2, tgt := b.extractLsb' 39 5, frm := b.extractLsb' 34 5, lrec := b.extractLsb' 29 5,
    cnt := b.extractLsb' 23 6, intr := b.getLsbD 22, swe := b.getLsbD 21, sw := b.extractLsb' 12 9,
    kx := b.extractLsb' 0 12 }
def FmtK.bits (f : FmtK) : BitVec 46 :=
  f.ch ++ (f.tgt ++ (f.frm ++ (f.lrec ++ (f.cnt ++ (BitVec.ofBool f.intr ++ (BitVec.ofBool f.swe ++
    (f.sw ++ f.kx)))))))

def FmtM.ofBits (b : BitVec 46) : FmtM :=
  { tile := b.extractLsb' 43 3, osa := b.extractLsb' 37 6, osb := b.extractLsb' 31 6, prof := b.extractLsb' 25 6,
    sga := b.getLsbD 24, sgb := b.getLsbD 23, fmta := b.extractLsb' 17 6, fmtb := b.extractLsb' 11 6,
    klen := b.extractLsb' 4 7, mx := b.extractLsb' 0 4 }
def FmtM.bits (f : FmtM) : BitVec 46 :=
  f.tile ++ (f.osa ++ (f.osb ++ (f.prof ++ (BitVec.ofBool f.sga ++ (BitVec.ofBool f.sgb ++
    (f.fmta ++ (f.fmtb ++ (f.klen ++ f.mx))))))))

def FmtW.ofBits (b : BitVec 46) : FmtW :=
  { dst := b.extractLsb' 40 6, hi := b.getLsbD 39, imm := b.extractLsb' 0 39 }
def FmtW.bits (f : FmtW) : BitVec 46 := f.dst ++ (BitVec.ofBool f.hi ++ f.imm)

/-! ### The word (R55) -/

/-- The common fields of a word and its body. -/
structure Parts where
  st : Bool
  cl : BitVec 4
  op : BitVec 8
  g : Guard
  body : BitVec 46
deriving DecidableEq, Repr

def Parts.ofWord (w : BitVec 64) : Parts :=
  { st := w.getLsbD 63, cl := w.extractLsb' 59 4, op := w.extractLsb' 51 8,
    g := { pg := w.extractLsb' 47 4, gn := w.getLsbD 46 }, body := w.extractLsb' 0 46 }
def Parts.word (p : Parts) : BitVec 64 :=
  BitVec.ofBool p.st ++ (p.cl ++ (p.op ++ (p.g.pg ++ (BitVec.ofBool p.g.gn ++ p.body))))

/-- The outcome of decoding one word: an instruction, or the trap of R62 step 2. -/
inductive Decoded
  /-- A well-formed instruction. -/
  | ok (i : Instr)
  /-- ILG: CL 8 to 15 or a failing field check. -/
  | ilg
  /-- ILL: an unassigned opcode. -/
  | ill
deriving DecidableEq, Repr

/-! ### The opcode maps (R72 to R79) -/

/-- MTS: the registers that have a row of their own in the opcode table. -/
def mtsRow (g : Guard) (f : FmtB) : Instr :=
  if Machine.sysIndex f == 0x010 then .mtsSticky g f
  else if Machine.sysIndex f == 0x00B then .mtsPend g f
  else if Machine.sysIndex f == 0x107 then .regrelWrite g f
  else if Machine.sysIndex f == 0x118 then .tinvcStart g f
  else .mts g f
/-- MOVI by its HI field (R70). -/
def moviRow (g : Guard) (f : FmtW) : Instr := if f.hi then .moviHi g f else .movi g f
/-- VSPICK by its SUB field; SUB above 2 stays a scan word, whose check refuses it (R143). -/
def vspickRow (g : Guard) (f : FmtA) : Instr :=
  if f.sub == 1 then .vspickStart g f else if f.sub == 2 then .vspickFinal g f else .vspickScan g f
/-- QTST by its AUX field (R170). -/
def qtstRow (g : Guard) (f : FmtA) : Instr := if f.aux == 1 then .qtstNar g f else .qtst g f
/-- KCP by KX[3:0] (R244). -/
def kcpRow (g : Guard) (f : FmtK) : Instr := if f.kx.extractLsb' 0 4 == 1 then .kcpOpimg g f else .kcp g f
/-- KSEAL by KX[0] (R244). -/
def ksealRow (g : Guard) (f : FmtK) : Instr := if f.kx.getLsbD 0 then .ksealUnseal g f else .kseal g f
/-- KRES by KX[0] (R316). -/
def kresRow (g : Guard) (f : FmtK) : Instr := if f.kx.getLsbD 0 then .kresDrop g f else .kres g f


/-- Class C (R72). -/
def classC (op : Nat) (g : Guard) (b : BitVec 46) : Option Instr :=
  match op with
  | 0x01 => some (.nop g (FmtJ.ofBits b))
  | 0x02 => some (.br g (FmtJ.ofBits b))
  | 0x03 => some (.brc g (FmtJ.ofBits b))
  | 0x04 => some (.brm g (FmtJ.ofBits b))
  | 0x05 => some (.pbr g (FmtJ.ofBits b))
  | 0x06 => some (.brt g (FmtJ.ofBits b))
  | 0x07 => some (.jtb g (FmtJ.ofBits b))
  | 0x08 => some (.lpad g (FmtJ.ofBits b))
  | 0x09 => some (.call g (FmtJ.ofBits b))
  | 0x0A => some (.ret g (FmtJ.ofBits b))
  | 0x10 => some (.lseq g (FmtJ.ofBits b))
  | 0x11 => some (.lbr g (FmtJ.ofBits b))
  | 0x18 => some (.tfence g (FmtJ.ofBits b))
  | 0x19 => some (.pmark g (FmtJ.ofBits b))
  | 0x1A => some (.fence g (FmtA.ofBits b))
  | 0x1B => some (.yield g (FmtJ.ofBits b))
  | 0x1C => some (.twait g (FmtJ.ofBits b))
  | 0x20 => some (.trap g (FmtJ.ofBits b))
  | 0x21 => some (.svc g (FmtJ.ofBits b))
  | 0x22 => some (.tend g (FmtJ.ofBits b))
  | _ => none

/-- Class I (R73). -/
def classI (op : Nat) (g : Guard) (b : BitVec 46) : Option Instr :=
  match op with
  | 0x01 => some (.add g (FmtA.ofBits b))
  | 0x02 => some (.sub g (FmtA.ofBits b))
  | 0x03 => some (.mul g (FmtA.ofBits b))
  | 0x04 => some (.mulh g (FmtA.ofBits b))
  | 0x05 => some (.div g (FmtA.ofBits b))
  | 0x06 => some (.rem g (FmtA.ofBits b))
  | 0x08 => some (.and g (FmtA.ofBits b))
  | 0x09 => some (.or g (FmtA.ofBits b))
  | 0x0A => some (.xor g (FmtA.ofBits b))
  | 0x0B => some (.andn g (FmtA.ofBits b))
  | 0x0C => some (.shl g (FmtA.ofBits b))
  | 0x0D => some (.shr g (FmtA.ofBits b))
  | 0x0E => some (.sra g (FmtA.ofBits b))
  | 0x0F => some (.rotl g (FmtA.ofBits b))
  | 0x10 => some (.clz g (FmtA.ofBits b))
  | 0x11 => some (.popc g (FmtA.ofBits b))
  | 0x12 => some (.min g (FmtA.ofBits b))
  | 0x13 => some (.max g (FmtA.ofBits b))
  | 0x14 => some (.cmp g (FmtA.ofBits b))
  | 0x15 => some (.sel g (FmtA.ofBits b))
  | 0x18 => some (.pand g (FmtA.ofBits b))
  | 0x19 => some (.por g (FmtA.ofBits b))
  | 0x1A => some (.pxor g (FmtA.ofBits b))
  | 0x1B => some (.pnot g (FmtA.ofBits b))
  | 0x20 => some (.mfs g (FmtB.ofBits b))
  | 0x21 => some (mtsRow g (FmtB.ofBits b))
  | 0x22 => some (.time g (FmtA.ofBits b))
  | 0x28 => some (.lea g (FmtB.ofBits b))
  | 0x2F => some (moviRow g (FmtW.ofBits b))
  | 0x41 => some (.addi g (FmtB.ofBits b))
  | 0x48 => some (.andi g (FmtB.ofBits b))
  | 0x49 => some (.ori g (FmtB.ofBits b))
  | 0x4A => some (.xori g (FmtB.ofBits b))
  | 0x4C => some (.shli g (FmtB.ofBits b))
  | 0x4D => some (.shri g (FmtB.ofBits b))
  | 0x4E => some (.srai g (FmtB.ofBits b))
  | 0x54 => some (.cmpi g (FmtB.ofBits b))
  | _ => none

/-- Class L (R74). -/
def classL (op : Nat) (g : Guard) (b : BitVec 46) : Option Instr :=
  match op with
  | 0x01 => some (.ldb g (FmtL.ofBits b))
  | 0x02 => some (.ldh g (FmtL.ofBits b))
  | 0x03 => some (.ldw g (FmtL.ofBits b))
  | 0x04 => some (.ldd g (FmtL.ofBits b))
  | 0x05 => some (.stb g (FmtL.ofBits b))
  | 0x06 => some (.sth g (FmtL.ofBits b))
  | 0x07 => some (.stw g (FmtL.ofBits b))
  | 0x08 => some (.std g (FmtL.ofBits b))
  | 0x09 => some (.vld g (FmtL.ofBits b))
  | 0x0A => some (.vst g (FmtL.ofBits b))
  | 0x0B => some (.vlds g (FmtL.ofBits b))
  | 0x0C => some (.vsts g (FmtL.ofBits b))
  | 0x10 => some (.cld g (FmtL.ofBits b))
  | 0x11 => some (.cst g (FmtL.ofBits b))
  | 0x12 => some (.rwr g (FmtL.ofBits b))
  | 0x13 => some (.rws g (FmtL.ofBits b))
  | 0x18 => some (.ldnb g (FmtL.ofBits b))
  | 0x19 => some (.stva g (FmtL.ofBits b))
  | 0x1A => some (.rwva g (FmtL.ofBits b))
  | 0x20 => some (.sarr g (FmtL.ofBits b))
  | 0x21 => some (.swait g (FmtL.ofBits b))
  | 0x22 => some (.sacq g (FmtL.ofBits b))
  | 0x23 => some (.srel g (FmtL.ofBits b))
  | 0x24 => some (.sset g (FmtL.ofBits b))
  | 0x28 => some (.saeq g (FmtL.ofBits b))
  | 0x29 => some (.saef g (FmtL.ofBits b))
  | _ => none

/-- Class V (R75). -/
def classV (op : Nat) (g : Guard) (b : BitVec 46) : Option Instr :=
  match op with
  | 0x01 => some (.vadd g (FmtA.ofBits b))
  | 0x02 => some (.vsub g (FmtA.ofBits b))
  | 0x03 => some (.vmul g (FmtA.ofBits b))
  | 0x04 => some (.vmin g (FmtA.ofBits b))
  | 0x05 => some (.vmax g (FmtA.ofBits b))
  | 0x08 => some (.vand g (FmtA.ofBits b))
  | 0x09 => some (.vor g (FmtA.ofBits b))
  | 0x0A => some (.vxor g (FmtA.ofBits b))
  | 0x0B => some (.vlut3 g (FmtA.ofBits b))
  | 0x0C => some (.vshl g (FmtA.ofBits b))
  | 0x0D => some (.vshr g (FmtA.ofBits b))
  | 0x0E => some (.vfsh g (FmtA.ofBits b))
  | 0x10 => some (.vpopc g (FmtA.ofBits b))
  | 0x11 => some (.vclz g (FmtA.ofBits b))
  | 0x18 => some (.vrot g (FmtA.ofBits b))
  | 0x19 => some (.vperm g (FmtA.ofBits b))
  | 0x1A => some (.vbcast g (FmtA.ofBits b))
  | 0x1B => some (.vsel g (FmtA.ofBits b))
  | 0x1C => some (.vcmp g (FmtA.ofBits b))
  | 0x20 => some (.vfadd g (FmtA.ofBits b))
  | 0x21 => some (.vfsub g (FmtA.ofBits b))
  | 0x22 => some (.vfmul g (FmtA.ofBits b))
  | 0x23 => some (.vfma g (FmtA.ofBits b))
  | 0x24 => some (.vfmin g (FmtA.ofBits b))
  | 0x25 => some (.vfmax g (FmtA.ofBits b))
  | 0x26 => some (.vfdiv g (FmtA.ofBits b))
  | 0x27 => some (.vfsqrt g (FmtA.ofBits b))
  | 0x28 => some (.vfabs g (FmtA.ofBits b))
  | 0x29 => some (.vfneg g (FmtA.ofBits b))
  | 0x2C => some (.vcvt g (FmtA.ofBits b))
  | 0x30 => some (.vrmax g (FmtA.ofBits b))
  | 0x31 => some (.vrmin g (FmtA.ofBits b))
  | 0x32 => some (.vradd g (FmtA.ofBits b))
  | 0x38 => some (.mand g (FmtA.ofBits b))
  | 0x39 => some (.mor g (FmtA.ofBits b))
  | 0x3A => some (.mnot g (FmtA.ofBits b))
  | 0x3B => some (.mpop g (FmtA.ofBits b))
  | 0x40 => some (.vswt g (FmtA.ofBits b))
  | 0x41 => some (vspickRow g (FmtA.ofBits b))
  | _ => none

/-- Class Q (R76). -/
def classQ (op : Nat) (g : Guard) (b : BitVec 46) : Option Instr :=
  match op with
  | 0x01 => some (.qclr g (FmtA.ofBits b))
  | 0x02 => some (.qdot g (FmtA.ofBits b))
  | 0x03 => some (.qfma g (FmtA.ofBits b))
  | 0x04 => some (.qadd g (FmtA.ofBits b))
  | 0x05 => some (.qaddq g (FmtA.ofBits b))
  | 0x06 => some (.qneg g (FmtA.ofBits b))
  | 0x07 => some (.qrnd g (FmtA.ofBits b))
  | 0x08 => some (.qsave g (FmtL.ofBits b))
  | 0x09 => some (.qload g (FmtL.ofBits b))
  | 0x0A => some (qtstRow g (FmtA.ofBits b))
  | 0x0B => some (.qfrom g (FmtA.ofBits b))
  | _ => none

/-- Class M (R77). -/
def classM (op : Nat) (g : Guard) (b : BitVec 46) : Option Instr :=
  match op with
  | 0x01 => some (.mclaim g (FmtA.ofBits b))
  | 0x02 => some (.mrel g (FmtA.ofBits b))
  | 0x03 => some (.mlda g (FmtL.ofBits b))
  | 0x04 => some (.mma g (FmtM.ofBits b))
  | 0x05 => some (.mmai g (FmtM.ofBits b))
  | 0x06 => some (.mlut g (FmtM.ofBits b))
  | 0x07 => some (.mzero g (FmtM.ofBits b))
  | 0x08 => some (.msave g (FmtL.ofBits b))
  | 0x09 => some (.mload g (FmtL.ofBits b))
  | _ => none

/-- Class K (R78). -/
def classK (op : Nat) (g : Guard) (b : BitVec 46) : Option Instr :=
  match op with
  | 0x01 => some (kcpRow g (FmtK.ofBits b))
  | 0x02 => some (.kcpn g (FmtK.ofBits b))
  | 0x03 => some (.kcpv g (FmtK.ofBits b))
  | 0x04 => some (.ktr g (FmtK.ofBits b))
  | 0x08 => some (.kenc g (FmtK.ofBits b))
  | 0x09 => some (.krec g (FmtK.ofBits b))
  | 0x0A => some (ksealRow g (FmtK.ofBits b))
  | 0x0B => some (.ktab g (FmtK.ofBits b))
  | 0x10 => some (.kdrain g (FmtK.ofBits b))
  | 0x11 => some (kresRow g (FmtK.ofBits b))
  | 0x18 => some (.knmc g (FmtK.ofBits b))
  | 0x19 => some (.kcol g (FmtK.ofBits b))
  | 0x1A => some (.kcan g (FmtK.ofBits b))
  | 0x1B => some (.ktsk g (FmtK.ofBits b))
  | 0x20 => some (.gstep g (FmtK.ofBits b))
  | 0x21 => some (.gmask g (FmtK.ofBits b))
  | _ => none

/-- Class D (R79). -/
def classD (op : Nat) (g : Guard) (b : BitVec 46) : Option Instr :=
  match op with
  | 0x01 => some (.drd g (FmtA.ofBits b))
  | 0x02 => some (.dsgd g (FmtA.ofBits b))
  | 0x03 => some (.dmom g (FmtA.ofBits b))
  | 0x04 => some (.dpub g (FmtL.ofBits b))
  | 0x05 => some (.dclr g (FmtM.ofBits b))
  | _ => none

/-- The instruction that CL and OP name, before its field checks; none for an unassigned opcode (R71). -/
def instrOf (cl op : Nat) (g : Guard) (b : BitVec 46) : Option Instr :=
  match cl with
  | 0 => classC op g b
  | 1 => classI op g b
  | 2 => classL op g b
  | 3 => classV op g b
  | 4 => classQ op g b
  | 5 => classM op g b
  | 6 => classK op g b
  | 7 => classD op g b
  | _ => none

/-- Decoding of a word's parts: CL 8 to 15 gives ILG, then an unassigned OP gives ILL, then a failing field check
gives ILG (R62 step 2). -/
def decodeParts (p : Parts) : Decoded :=
  if 8 ≤ p.cl.toNat then .ilg
  else match instrOf p.cl.toNat p.op.toNat p.g p.body with
    | none => .ill
    | some i => if Machine.fieldsOk i then .ok i else .ilg

/-- Decoding of one 64-bit word, total on every word (R62 step 2). Log 8, DEDUCED. -/
def decodeWord (w : BitVec 64) : Decoded := decodeParts (Parts.ofWord w)

/-- The stop bit of a word (R55). -/
def stopBit (w : BitVec 64) : Bool := (Parts.ofWord w).st

/-- Eight bytes, the least significant first, as a word (R4). -/
def wordOfBytes : List Byte → BitVec 64
  | [] => 0#64
  | b :: bs => (wordOfBytes bs <<< 8) ||| b.setWidth 64

/-- The bytes of a word, the least significant first (R4). -/
def bytesOfWord (w : BitVec 64) : List Byte := (List.range 8).map fun k => w.extractLsb' (8 * k) 8

/-- Decoding of an instruction from the bytes at the program counter: eight bytes, or nothing when fewer remain. -/
def decodeBytes (bs : List Byte) : Option (Decoded × List Byte) :=
  if bs.length < 8 then none else some (decodeWord (wordOfBytes (bs.take 8)), bs.drop 8)

/-! ### The encoder -/

/-- CL, OP, guard and body of an instruction word; a step of the machine has none. -/
def Instr.parts (st : Bool) : Instr → Option Parts
  | .nop g f => some ⟨st, 0#4, 0x01#8, g, f.bits⟩
  | .br g f => some ⟨st, 0#4, 0x02#8, g, f.bits⟩
  | .brc g f => some ⟨st, 0#4, 0x03#8, g, f.bits⟩
  | .brm g f => some ⟨st, 0#4, 0x04#8, g, f.bits⟩
  | .pbr g f => some ⟨st, 0#4, 0x05#8, g, f.bits⟩
  | .brt g f => some ⟨st, 0#4, 0x06#8, g, f.bits⟩
  | .jtb g f => some ⟨st, 0#4, 0x07#8, g, f.bits⟩
  | .lpad g f => some ⟨st, 0#4, 0x08#8, g, f.bits⟩
  | .call g f => some ⟨st, 0#4, 0x09#8, g, f.bits⟩
  | .ret g f => some ⟨st, 0#4, 0x0A#8, g, f.bits⟩
  | .lseq g f => some ⟨st, 0#4, 0x10#8, g, f.bits⟩
  | .lbr g f => some ⟨st, 0#4, 0x11#8, g, f.bits⟩
  | .tfence g f => some ⟨st, 0#4, 0x18#8, g, f.bits⟩
  | .pmark g f => some ⟨st, 0#4, 0x19#8, g, f.bits⟩
  | .fence g f => some ⟨st, 0#4, 0x1A#8, g, f.bits⟩
  | .yield g f => some ⟨st, 0#4, 0x1B#8, g, f.bits⟩
  | .twait g f => some ⟨st, 0#4, 0x1C#8, g, f.bits⟩
  | .trap g f => some ⟨st, 0#4, 0x20#8, g, f.bits⟩
  | .svc g f => some ⟨st, 0#4, 0x21#8, g, f.bits⟩
  | .tend g f => some ⟨st, 0#4, 0x22#8, g, f.bits⟩
  | .add g f => some ⟨st, 1#4, 0x01#8, g, f.bits⟩
  | .sub g f => some ⟨st, 1#4, 0x02#8, g, f.bits⟩
  | .mul g f => some ⟨st, 1#4, 0x03#8, g, f.bits⟩
  | .mulh g f => some ⟨st, 1#4, 0x04#8, g, f.bits⟩
  | .div g f => some ⟨st, 1#4, 0x05#8, g, f.bits⟩
  | .rem g f => some ⟨st, 1#4, 0x06#8, g, f.bits⟩
  | .and g f => some ⟨st, 1#4, 0x08#8, g, f.bits⟩
  | .or g f => some ⟨st, 1#4, 0x09#8, g, f.bits⟩
  | .xor g f => some ⟨st, 1#4, 0x0A#8, g, f.bits⟩
  | .andn g f => some ⟨st, 1#4, 0x0B#8, g, f.bits⟩
  | .shl g f => some ⟨st, 1#4, 0x0C#8, g, f.bits⟩
  | .shr g f => some ⟨st, 1#4, 0x0D#8, g, f.bits⟩
  | .sra g f => some ⟨st, 1#4, 0x0E#8, g, f.bits⟩
  | .rotl g f => some ⟨st, 1#4, 0x0F#8, g, f.bits⟩
  | .clz g f => some ⟨st, 1#4, 0x10#8, g, f.bits⟩
  | .popc g f => some ⟨st, 1#4, 0x11#8, g, f.bits⟩
  | .min g f => some ⟨st, 1#4, 0x12#8, g, f.bits⟩
  | .max g f => some ⟨st, 1#4, 0x13#8, g, f.bits⟩
  | .cmp g f => some ⟨st, 1#4, 0x14#8, g, f.bits⟩
  | .sel g f => some ⟨st, 1#4, 0x15#8, g, f.bits⟩
  | .pand g f => some ⟨st, 1#4, 0x18#8, g, f.bits⟩
  | .por g f => some ⟨st, 1#4, 0x19#8, g, f.bits⟩
  | .pxor g f => some ⟨st, 1#4, 0x1A#8, g, f.bits⟩
  | .pnot g f => some ⟨st, 1#4, 0x1B#8, g, f.bits⟩
  | .mfs g f => some ⟨st, 1#4, 0x20#8, g, f.bits⟩
  | .mts g f => some ⟨st, 1#4, 0x21#8, g, f.bits⟩
  | .mtsSticky g f => some ⟨st, 1#4, 0x21#8, g, f.bits⟩
  | .mtsPend g f => some ⟨st, 1#4, 0x21#8, g, f.bits⟩
  | .regrelWrite g f => some ⟨st, 1#4, 0x21#8, g, f.bits⟩
  | .tinvcStart g f => some ⟨st, 1#4, 0x21#8, g, f.bits⟩
  | .time g f => some ⟨st, 1#4, 0x22#8, g, f.bits⟩
  | .lea g f => some ⟨st, 1#4, 0x28#8, g, f.bits⟩
  | .movi g f => some ⟨st, 1#4, 0x2F#8, g, f.bits⟩
  | .moviHi g f => some ⟨st, 1#4, 0x2F#8, g, f.bits⟩
  | .addi g f => some ⟨st, 1#4, 0x41#8, g, f.bits⟩
  | .andi g f => some ⟨st, 1#4, 0x48#8, g, f.bits⟩
  | .ori g f => some ⟨st, 1#4, 0x49#8, g, f.bits⟩
  | .xori g f => some ⟨st, 1#4, 0x4A#8, g, f.bits⟩
  | .shli g f => some ⟨st, 1#4, 0x4C#8, g, f.bits⟩
  | .shri g f => some ⟨st, 1#4, 0x4D#8, g, f.bits⟩
  | .srai g f => some ⟨st, 1#4, 0x4E#8, g, f.bits⟩
  | .cmpi g f => some ⟨st, 1#4, 0x54#8, g, f.bits⟩
  | .ldb g f => some ⟨st, 2#4, 0x01#8, g, f.bits⟩
  | .ldh g f => some ⟨st, 2#4, 0x02#8, g, f.bits⟩
  | .ldw g f => some ⟨st, 2#4, 0x03#8, g, f.bits⟩
  | .ldd g f => some ⟨st, 2#4, 0x04#8, g, f.bits⟩
  | .stb g f => some ⟨st, 2#4, 0x05#8, g, f.bits⟩
  | .sth g f => some ⟨st, 2#4, 0x06#8, g, f.bits⟩
  | .stw g f => some ⟨st, 2#4, 0x07#8, g, f.bits⟩
  | .std g f => some ⟨st, 2#4, 0x08#8, g, f.bits⟩
  | .vld g f => some ⟨st, 2#4, 0x09#8, g, f.bits⟩
  | .vst g f => some ⟨st, 2#4, 0x0A#8, g, f.bits⟩
  | .vlds g f => some ⟨st, 2#4, 0x0B#8, g, f.bits⟩
  | .vsts g f => some ⟨st, 2#4, 0x0C#8, g, f.bits⟩
  | .cld g f => some ⟨st, 2#4, 0x10#8, g, f.bits⟩
  | .cst g f => some ⟨st, 2#4, 0x11#8, g, f.bits⟩
  | .rwr g f => some ⟨st, 2#4, 0x12#8, g, f.bits⟩
  | .rws g f => some ⟨st, 2#4, 0x13#8, g, f.bits⟩
  | .ldnb g f => some ⟨st, 2#4, 0x18#8, g, f.bits⟩
  | .stva g f => some ⟨st, 2#4, 0x19#8, g, f.bits⟩
  | .rwva g f => some ⟨st, 2#4, 0x1A#8, g, f.bits⟩
  | .sarr g f => some ⟨st, 2#4, 0x20#8, g, f.bits⟩
  | .swait g f => some ⟨st, 2#4, 0x21#8, g, f.bits⟩
  | .sacq g f => some ⟨st, 2#4, 0x22#8, g, f.bits⟩
  | .srel g f => some ⟨st, 2#4, 0x23#8, g, f.bits⟩
  | .sset g f => some ⟨st, 2#4, 0x24#8, g, f.bits⟩
  | .saeq g f => some ⟨st, 2#4, 0x28#8, g, f.bits⟩
  | .saef g f => some ⟨st, 2#4, 0x29#8, g, f.bits⟩
  | .vadd g f => some ⟨st, 3#4, 0x01#8, g, f.bits⟩
  | .vsub g f => some ⟨st, 3#4, 0x02#8, g, f.bits⟩
  | .vmul g f => some ⟨st, 3#4, 0x03#8, g, f.bits⟩
  | .vmin g f => some ⟨st, 3#4, 0x04#8, g, f.bits⟩
  | .vmax g f => some ⟨st, 3#4, 0x05#8, g, f.bits⟩
  | .vand g f => some ⟨st, 3#4, 0x08#8, g, f.bits⟩
  | .vor g f => some ⟨st, 3#4, 0x09#8, g, f.bits⟩
  | .vxor g f => some ⟨st, 3#4, 0x0A#8, g, f.bits⟩
  | .vlut3 g f => some ⟨st, 3#4, 0x0B#8, g, f.bits⟩
  | .vshl g f => some ⟨st, 3#4, 0x0C#8, g, f.bits⟩
  | .vshr g f => some ⟨st, 3#4, 0x0D#8, g, f.bits⟩
  | .vfsh g f => some ⟨st, 3#4, 0x0E#8, g, f.bits⟩
  | .vpopc g f => some ⟨st, 3#4, 0x10#8, g, f.bits⟩
  | .vclz g f => some ⟨st, 3#4, 0x11#8, g, f.bits⟩
  | .vrot g f => some ⟨st, 3#4, 0x18#8, g, f.bits⟩
  | .vperm g f => some ⟨st, 3#4, 0x19#8, g, f.bits⟩
  | .vbcast g f => some ⟨st, 3#4, 0x1A#8, g, f.bits⟩
  | .vsel g f => some ⟨st, 3#4, 0x1B#8, g, f.bits⟩
  | .vcmp g f => some ⟨st, 3#4, 0x1C#8, g, f.bits⟩
  | .vfadd g f => some ⟨st, 3#4, 0x20#8, g, f.bits⟩
  | .vfsub g f => some ⟨st, 3#4, 0x21#8, g, f.bits⟩
  | .vfmul g f => some ⟨st, 3#4, 0x22#8, g, f.bits⟩
  | .vfma g f => some ⟨st, 3#4, 0x23#8, g, f.bits⟩
  | .vfmin g f => some ⟨st, 3#4, 0x24#8, g, f.bits⟩
  | .vfmax g f => some ⟨st, 3#4, 0x25#8, g, f.bits⟩
  | .vfdiv g f => some ⟨st, 3#4, 0x26#8, g, f.bits⟩
  | .vfsqrt g f => some ⟨st, 3#4, 0x27#8, g, f.bits⟩
  | .vfabs g f => some ⟨st, 3#4, 0x28#8, g, f.bits⟩
  | .vfneg g f => some ⟨st, 3#4, 0x29#8, g, f.bits⟩
  | .vcvt g f => some ⟨st, 3#4, 0x2C#8, g, f.bits⟩
  | .vrmax g f => some ⟨st, 3#4, 0x30#8, g, f.bits⟩
  | .vrmin g f => some ⟨st, 3#4, 0x31#8, g, f.bits⟩
  | .vradd g f => some ⟨st, 3#4, 0x32#8, g, f.bits⟩
  | .mand g f => some ⟨st, 3#4, 0x38#8, g, f.bits⟩
  | .mor g f => some ⟨st, 3#4, 0x39#8, g, f.bits⟩
  | .mnot g f => some ⟨st, 3#4, 0x3A#8, g, f.bits⟩
  | .mpop g f => some ⟨st, 3#4, 0x3B#8, g, f.bits⟩
  | .vswt g f => some ⟨st, 3#4, 0x40#8, g, f.bits⟩
  | .vspickStart g f => some ⟨st, 3#4, 0x41#8, g, f.bits⟩
  | .vspickScan g f => some ⟨st, 3#4, 0x41#8, g, f.bits⟩
  | .vspickFinal g f => some ⟨st, 3#4, 0x41#8, g, f.bits⟩
  | .qclr g f => some ⟨st, 4#4, 0x01#8, g, f.bits⟩
  | .qdot g f => some ⟨st, 4#4, 0x02#8, g, f.bits⟩
  | .qfma g f => some ⟨st, 4#4, 0x03#8, g, f.bits⟩
  | .qadd g f => some ⟨st, 4#4, 0x04#8, g, f.bits⟩
  | .qaddq g f => some ⟨st, 4#4, 0x05#8, g, f.bits⟩
  | .qneg g f => some ⟨st, 4#4, 0x06#8, g, f.bits⟩
  | .qrnd g f => some ⟨st, 4#4, 0x07#8, g, f.bits⟩
  | .qsave g f => some ⟨st, 4#4, 0x08#8, g, f.bits⟩
  | .qload g f => some ⟨st, 4#4, 0x09#8, g, f.bits⟩
  | .qtst g f => some ⟨st, 4#4, 0x0A#8, g, f.bits⟩
  | .qtstNar g f => some ⟨st, 4#4, 0x0A#8, g, f.bits⟩
  | .qfrom g f => some ⟨st, 4#4, 0x0B#8, g, f.bits⟩
  | .mclaim g f => some ⟨st, 5#4, 0x01#8, g, f.bits⟩
  | .mrel g f => some ⟨st, 5#4, 0x02#8, g, f.bits⟩
  | .mlda g f => some ⟨st, 5#4, 0x03#8, g, f.bits⟩
  | .mma g f => some ⟨st, 5#4, 0x04#8, g, f.bits⟩
  | .mmai g f => some ⟨st, 5#4, 0x05#8, g, f.bits⟩
  | .mlut g f => some ⟨st, 5#4, 0x06#8, g, f.bits⟩
  | .mzero g f => some ⟨st, 5#4, 0x07#8, g, f.bits⟩
  | .msave g f => some ⟨st, 5#4, 0x08#8, g, f.bits⟩
  | .mload g f => some ⟨st, 5#4, 0x09#8, g, f.bits⟩
  | .drd g f => some ⟨st, 7#4, 0x01#8, g, f.bits⟩
  | .dsgd g f => some ⟨st, 7#4, 0x02#8, g, f.bits⟩
  | .dmom g f => some ⟨st, 7#4, 0x03#8, g, f.bits⟩
  | .dpub g f => some ⟨st, 7#4, 0x04#8, g, f.bits⟩
  | .dclr g f => some ⟨st, 7#4, 0x05#8, g, f.bits⟩
  | .kcp g f => some ⟨st, 6#4, 0x01#8, g, f.bits⟩
  | .kcpOpimg g f => some ⟨st, 6#4, 0x01#8, g, f.bits⟩
  | .kcpn g f => some ⟨st, 6#4, 0x02#8, g, f.bits⟩
  | .kcpv g f => some ⟨st, 6#4, 0x03#8, g, f.bits⟩
  | .ktr g f => some ⟨st, 6#4, 0x04#8, g, f.bits⟩
  | .kenc g f => some ⟨st, 6#4, 0x08#8, g, f.bits⟩
  | .krec g f => some ⟨st, 6#4, 0x09#8, g, f.bits⟩
  | .kseal g f => some ⟨st, 6#4, 0x0A#8, g, f.bits⟩
  | .ksealUnseal g f => some ⟨st, 6#4, 0x0A#8, g, f.bits⟩
  | .ktab g f => some ⟨st, 6#4, 0x0B#8, g, f.bits⟩
  | .kdrain g f => some ⟨st, 6#4, 0x10#8, g, f.bits⟩
  | .kres g f => some ⟨st, 6#4, 0x11#8, g, f.bits⟩
  | .kresDrop g f => some ⟨st, 6#4, 0x11#8, g, f.bits⟩
  | .knmc g f => some ⟨st, 6#4, 0x18#8, g, f.bits⟩
  | .kcol g f => some ⟨st, 6#4, 0x19#8, g, f.bits⟩
  | .kcan g f => some ⟨st, 6#4, 0x1A#8, g, f.bits⟩
  | .ktsk g f => some ⟨st, 6#4, 0x1B#8, g, f.bits⟩
  | .gstep g f => some ⟨st, 6#4, 0x20#8, g, f.bits⟩
  | .gmask g f => some ⟨st, 6#4, 0x21#8, g, f.bits⟩
  | .tretResume _ => none
  | .tretSuspend _ => none
  | .tretKill _ => none
  | .pendingRelease _ _ _ => none
  | .groupFetch _ => none
  | .blockedGroupIssue _ => none
  | .resultLanding _ => none
  | .arrayResultLanding _ => none
  | .tileClearDone _ _ => none
  | .slotClearDone _ _ => none
  | .regionZeroDone _ _ => none
  | .saeRunApply _ => none
  | .remoteWriteArrival _ _ => none
  | .timedWritePerform _ _ => none
  | .lateNoticeArrival _ => none
  | .releaseMessageArrival _ => none
  | .gateOpen _ _ => none
  | .commandStart _ _ => none
  | .copyUnitTransfer _ _ => none
  | .commandComplete _ _ => none
  | .dictSlotSwitch _ _ => none
  | .kcpvVersionReached _ _ => none
  | .acquireReferenceSatisfied _ => none
  | .nmcCommandAccept _ => none
  | .reductionCommand _ => none
  | .updateRow _ => none
  | .transformCommand _ => none
  | .gazetteerQuery _ => none
  | .nmcTimedRelease _ => none
  | .grammarCommand _ => none
  | .collectiveForm _ => none
  | .planeInject _ _ _ => none
  | .planeLand _ _ _ => none
  | .cancelReceipt _ _ => none
  | .cancelAck _ => none
  | .nodeAccept _ => none
  | .nodeDispatch _ => none
  | .taskLaunch _ => none
  | .taskComplete _ => none
  | .contextRecordWrite _ => none
  | .restore _ => none
  | .sliceExpiry _ => none
  | .platExpiry _ => none
  | .gangSliceSwitch => none
  | .invalidationRequest _ _ => none
  | .invalidationAckSend _ _ => none
  | .invalidationAck _ _ => none
  | .submitNode _ _ _ => none
  | .ownerAcquire _ => none
  | .ownerRelease _ => none
  | .moduleBlockWrite _ _ _ => none
  | .epochWrite _ _ => none
  | .epochApply => none
  | .readySet _ _ => none
  | .attestReport _ _ => none
  | .rfree _ _ => none
  | .hostInvalidate _ _ => none
  | .gctlEnable _ _ => none
  | .gctlDisable _ _ => none
  | .suspendRequest _ _ => none
  | .restoreRequest _ _ => none
  | .overflowEvent _ => none
  | .hostWriteCompletion _ => none
  | .portLinkDown _ => none
  | .moduleReset _ => none
  | .linkConfiguration _ _ => none
  | .ptpMessage _ => none
  | .referenceLoss => none
  | .holdoverExpiry => none
  | .powerArbitration _ => none
  | .throttleStep _ => none
  | .linkNarrow _ => none
  | .hostDeviceMemoryWrite _ _ _ => none
  | .meridianCounterStop _ => none
  | .hostPortLinkUp _ _ => none

/-- The word of an instruction, with the stop bit `st`. Log 8, DEDUCED. -/
def encodeWord (st : Bool) (i : Instr) : Option (BitVec 64) := (i.parts st).map Parts.word

/-- The bytes of an instruction word as they lie in memory. -/
def encode (st : Bool) (i : Instr) : Option (List Byte) := (encodeWord st i).map bytesOfWord

/-- The instruction that the decoder reads from the `nbits` low bits of `w`, all higher bits zero. -/
def decodeTableWord (nbits w : Nat) : Option Instr :=
  match decodeBytes (bytesOfWord (BitVec.ofNat 64 (w % 2 ^ nbits))) with
  | some (.ok i, _) => some i
  | _ => none

end Sys2Proof
end

