-- ==== Sys2Proof/Machine/Numbers.lean ====
section
/-! DEFINITION. The numbers of R25 to R54: exact rationals, the value a word denotes in each format, rounding to a
format, IEEE operations, quires, the numerics profiles, the exponent function E and the update rule. -/
namespace Sys2Proof.Machine

/-! ### Exact rationals -/

/-- An exact rational num / den with a positive den, kept in lowest terms by the operations below. -/
structure Q where
  num : Int
  den : Nat
deriving DecidableEq, Repr

/-- num / den in lowest terms. -/
def Q.mk' (n : Int) (d : Nat) : Q :=
  let g := Nat.gcd n.natAbs d
  if g ≤ 1 then ⟨n, d⟩ else ⟨n / (g : Int), d / g⟩
def Q.ofInt (n : Int) : Q := ⟨n, 1⟩
def Q.zero : Q := ⟨0, 1⟩
def Q.one : Q := ⟨1, 1⟩
def Q.neg (a : Q) : Q := ⟨-a.num, a.den⟩
def Q.add (a b : Q) : Q := Q.mk' (a.num * b.den + b.num * a.den) (a.den * b.den)
def Q.sub (a b : Q) : Q := a.add b.neg
def Q.mul (a b : Q) : Q := Q.mk' (a.num * b.num) (a.den * b.den)
/-- Quotient by a non-zero divisor. -/
def Q.div (a b : Q) : Q :=
  if b.num < 0 then Q.mk' (-(a.num * b.den)) (a.den * b.num.natAbs)
  else Q.mk' (a.num * b.den) (a.den * b.num.natAbs)
def Q.abs (a : Q) : Q := ⟨a.num.natAbs, a.den⟩
def Q.isZero (a : Q) : Bool := a.num == 0
def Q.isNeg (a : Q) : Bool := a.num < 0
def Q.lt (a b : Q) : Bool := a.num * b.den < b.num * a.den
def Q.le (a b : Q) : Bool := a.num * b.den ≤ b.num * a.den
def Q.eqv (a b : Q) : Bool := a.num * b.den == b.num * a.den
/-- Two to an integer power. -/
def Q.pow2 (e : Int) : Q := if 0 ≤ e then ⟨(2 : Int) ^ e.toNat, 1⟩ else ⟨1, 2 ^ (-e).toNat⟩
/-- a × 2^e. -/
def Q.scale (a : Q) (e : Int) : Q := a.mul (Q.pow2 e)
/-- Greatest integer not above a. -/
def Q.floor (a : Q) : Int := Int.fdiv a.num a.den
/-- Truncation toward zero. -/
def Q.trunc (a : Q) : Int := Int.tdiv a.num a.den
/-- floor(log2 a) of a positive a. -/
def Q.log2 (a : Q) : Int :=
  let l : Int := (Nat.log2 a.num.natAbs : Int) - (Nat.log2 a.den : Int)
  if (Q.pow2 l).le a.abs then l else l - 1

/-- n / d to the nearest natural number, a tie going to the even one. -/
def rneNat (n d : Nat) : Nat :=
  let q := n / d
  let r := n % d
  if d < 2 * r || (2 * r == d && q % 2 == 1) then q + 1 else q
/-- To the nearest integer, a tie going to the even one (R35, R41). -/
def Q.rne (a : Q) : Int :=
  let r : Int := rneNat a.num.natAbs a.den
  if a.num < 0 then -r else r

/-- Integer square root by digits, one binary digit of the root per unit of fuel. -/
def isqrtFrom (n : Nat) : Nat → Nat → Nat
  | 0, r => r
  | k + 1, r =>
    let t := r + 2 ^ k
    isqrtFrom n k (if t * t ≤ n then t else r)
/-- Greatest r with r × r ≤ n. -/
def isqrt (n : Nat) : Nat := isqrtFrom n (Nat.log2 n / 2 + 1) 0

/-- A rational that rounds as the square root of a non-negative a does: the root itself when rational at 2^−k,
else a point strictly between the two neighbouring multiples of 2^−k, with at least 70 significant bits. -/
def Q.sqrtRep (a : Q) : Q :=
  if a.num == 0 then Q.zero
  else
    let k := 72 + Nat.log2 a.den / 2
    let t := a.num.natAbs * 4 ^ k / a.den
    let r := isqrt t
    if r * r * a.den == a.num.natAbs * 4 ^ k then Q.mk' r (2 ^ k) else Q.mk' (2 * r + 1) (2 ^ (k + 1))

/-! ### Values and formats -/

/-- What a word denotes: a real (0 stands for +0), the IEEE negative zero, NaR, a NaN, or an infinity. -/
inductive Val
  | real (q : Q)
  | negZero
  | nar
  | nan (signalling : Bool)
  | inf (neg : Bool)
deriving DecidableEq, Repr

/-- The element formats of R42 but for bt4, whose elements R39 values. -/
inductive NumFmt
  | tap (n es : Nat)
  | int (w : Nat) (signed : Bool)
  | ieee (eb fb : Nat)
  | c4
  | grid (e : Int)
deriving DecidableEq, Repr

/-- f32 (R34). -/
def f32 : NumFmt := .ieee 8 23
/-- t32e2 (R26). -/
def t32e2 : NumFmt := .tap 32 2
/-- t8e1 (R26). -/
def t8e1 : NumFmt := .tap 8 1

/-- The format of a code (R42). A grid code reads with scale exponent 0. -/
def fmtOf (c : BitVec 6) : NumFmt :=
  let n := c.toNat
  if n ≤ 3 then .tap 8 n
  else if n ≤ 7 then .tap 16 (n - 4)
  else if n ≤ 0x0A then .tap 32 (n - 8)
  else if n == 0x10 || n == 0x11 then .int 8 (n == 0x10)
  else if n == 0x12 || n == 0x13 then .int 16 (n == 0x12)
  else if n == 0x14 || n == 0x15 then .int 32 (n == 0x14)
  else if n == 0x18 then .ieee 5 10
  else if n == 0x19 then .ieee 8 7
  else if n == 0x1A then f32
  else if n == 0x20 then .c4
  else if n == 0x22 then .tap 4 0
  else if n == 0x23 then .int 4 true
  else .grid 0

/-- The width of a format's words. -/
def NumFmt.width : NumFmt → Nat
  | .tap n _ => n
  | .int w _ => w
  | .ieee eb fb => 1 + eb + fb
  | .c4 => 4
  | .grid _ => 32

def NumFmt.isTap : NumFmt → Bool
  | .tap _ _ => true
  | _ => false
def NumFmt.isInt : NumFmt → Bool
  | .int _ _ => true
  | _ => false
def NumFmt.isIeee : NumFmt → Bool
  | .ieee _ _ => true
  | _ => false

/-- Length of the run of bits equal to b in bits k − 1 down to 0 of w. -/
def runLen (w : Nat) (b : Bool) : Nat → Nat
  | 0 => 0
  | k + 1 => if w.testBit k == b then 1 + runLen w b k else 0

/-- decode_t of R25. -/
def decodeTap (n es w : Nat) : Val :=
  if w == 0 then .real Q.zero
  else if w == 2 ^ (n - 1) then .nar
  else
    let s := w.testBit (n - 1)
    let mag := if s then 2 ^ n - w else w
    let b := mag.testBit (n - 2)
    let m := runLen mag b (n - 1)
    let k : Int := if b then (m : Int) - 1 else -(m : Int)
    let rl := n - 1 - m - 1
    let rest := mag % 2 ^ rl
    let e := if es ≤ rl then rest >>> (rl - es) else rest <<< (es - rl)
    let fb := rl - es
    let fr := rest % 2 ^ fb
    let v := (Q.mk' ((2 : Int) ^ fb + fr) (2 ^ fb)).scale (k * 2 ^ es + e)
    .real (if s then v.neg else v)

/-- Decoding of an IEEE word with eb exponent and fb fraction bits (R34). -/
def decodeIeee (eb fb w : Nat) : Val :=
  let s := w.testBit (eb + fb)
  let e := (w >>> fb) % 2 ^ eb
  let fr := w % 2 ^ fb
  let bias : Int := 2 ^ (eb - 1) - 1
  if e == 2 ^ eb - 1 then
    if fr == 0 then .inf s else .nan (!fr.testBit (fb - 1))
  else if e == 0 && fr == 0 then (if s then .negZero else .real Q.zero)
  else
    let m : Int := if e == 0 then fr else 2 ^ fb + fr
    let x : Int := (if e == 0 then 1 else e) - bias - fb
    .real ((Q.ofInt (if s then -m else m)).scale x)

/-- The c4 levels in 64ths (R38). -/
def c4Levels : List Int := [-64, -45, -35, -27, -20, -14, -8, -3, 3, 8, 14, 20, 27, 35, 45, 64]

/-- Two's-complement reading of the low w bits. -/
def sextInt (w v : Nat) : Int :=
  let u := v % 2 ^ w
  if u.testBit (w - 1) then (u : Int) - 2 ^ w else u

/-- The value of a word in a format (R25, R34, R35, R38, R41). -/
def decodeVal (f : NumFmt) (w : Nat) : Val :=
  match f with
  | .tap n es => decodeTap n es (w % 2 ^ n)
  | .int n signed => .real (Q.ofInt (if signed then sextInt n w else (w % 2 ^ n : Nat)))
  | .ieee eb fb => decodeIeee eb fb (w % 2 ^ (1 + eb + fb))
  | .c4 => .real (Q.mk' (c4Levels.getD (w % 16) 0) 64)
  | .grid e => .real ((Q.ofInt (sextInt 32 w)).scale e)

/-! ### Rounding (R27, R34, R35, R41) -/

/-- Two's complement of x in w bits. -/
def wrapNat (w : Nat) (x : Int) : Nat := (x % (2 : Int) ^ w).toNat

/-- The magnitude word of a positive x strictly between minpos and maxpos: its unbounded encoding rounded to n bits,
a tie going to the word whose bit 0 is 0 (R27 step 5). -/
def roundTapMag (n es : Nat) (x : Q) : Nat :=
  let s := x.log2
  let k := Int.fdiv s (2 ^ es)
  let e := (s - k * 2 ^ es).toNat
  -- the regime and its terminator
  let rlen := if 0 ≤ k then k.toNat + 2 else (-k).toNat + 1
  let regime := if 0 ≤ k then 2 ^ (k.toNat + 2) - 2 else 1
  let len := 1 + rlen + es
  let a := regime * 2 ^ es + e
  -- the string is a + (x / 2^s − 1), of which n − len further bits are kept
  let str := (x.scale (-s)).add (Q.ofInt ((a : Int) - 1))
  (str.scale ((n : Int) - len)).rne.toNat

def maxposQ (n es : Nat) : Q := Q.pow2 (((n : Int) - 2) * 2 ^ es)
def minposQ (n es : Nat) : Q := Q.pow2 (-(((n : Int) - 2) * 2 ^ es))

/-- round_fmt of a real for a tapered format (R27). -/
def roundTap (n es : Nat) (x : Q) : Nat :=
  if x.isZero then 0
  else
    let m := x.abs
    let mag :=
      if (maxposQ n es).le m then 2 ^ (n - 1) - 1
      else if m.le (minposQ n es) then 1
      else roundTapMag n es m
    if x.isNeg then 2 ^ n - mag else mag

/-- round_fmt of a real for an IEEE format, with its flags; tininess is found after rounding (R34). -/
def roundIeee (eb fb : Nat) (x : Q) : Nat × Flags :=
  if x.isZero then (0, Flags.none)
  else
    let bias : Int := 2 ^ (eb - 1) - 1
    let emin : Int := 1 - bias
    let m := x.abs
    let s := m.log2
    let qe := max s emin - fb
    let scaled := m.scale (-qe)
    let sig := scaled.rne
    let exact := (Q.ofInt sig).eqv scaled
    let word := ((qe + fb + bias - 1) * 2 ^ fb + sig).toNat
    let sign := if x.isNeg then 2 ^ (eb + fb) else 0
    if (2 ^ eb - 1) * 2 ^ fb ≤ word then
      (sign + (2 ^ eb - 1) * 2 ^ fb, Flags.ovf ||| Flags.nx)
    else
      let free := (m.scale (fb - s)).rne
      let tiny := s < emin && !(s == emin - 1 && free == 2 ^ (fb + 1))
      (sign + word, flagIf (!exact) Flags.nx ||| flagIf (!exact && tiny) Flags.uf)

/-- Least and greatest integers of a format (R35). -/
def intMin (w : Nat) (signed : Bool) : Int := if signed then -(2 ^ (w - 1)) else 0
def intMax (w : Nat) (signed : Bool) : Int := if signed then 2 ^ (w - 1) - 1 else 2 ^ w - 1

/-- Saturation into a format's range; NV when the value lies outside it (R35). -/
def clampInt (w : Nat) (signed : Bool) (x : Int) : Nat × Flags :=
  if x < intMin w signed then (wrapNat w (intMin w signed), Flags.nv)
  else if intMax w signed < x then (wrapNat w (intMax w signed), Flags.nv)
  else (wrapNat w x, Flags.none)

/-- The canonical quiet NaN of an IEEE format (R33). -/
def canonNaN (eb fb : Nat) : Nat := (2 ^ eb - 1) * 2 ^ fb + 2 ^ (fb - 1)

/-- round_fmt (R27, R34, R35, R41), with the flags of the rounding. A NaR or NaN gives the value of R33, which sets
NV for an integer or grid target; the source's own flags of R45 are added by convertVal. -/
def roundVal (f : NumFmt) (x : Val) : Nat × Flags :=
  match f with
  | .tap n es =>
    match x with
    | .real q => (roundTap n es q, Flags.none)
    | .negZero => (0, Flags.none)
    | .inf _ => (2 ^ (n - 1), Flags.nv)
    | _ => (2 ^ (n - 1), Flags.none)
  | .ieee eb fb =>
    match x with
    | .real q => roundIeee eb fb q
    | .negZero => (2 ^ (eb + fb), Flags.none)
    | .inf s => ((if s then 2 ^ (eb + fb) else 0) + (2 ^ eb - 1) * 2 ^ fb, Flags.none)
    | _ => (canonNaN eb fb, Flags.none)
  | .int w signed =>
    match x with
    | .real q => clampInt w signed q.rne
    | .negZero => (0, Flags.none)
    | .inf s => (wrapNat w (if s then intMin w signed else intMax w signed), Flags.nv)
    | _ => (wrapNat w (intMin w signed), Flags.nv)
  | .grid e =>
    match x with
    | .real q => clampInt 32 true (q.scale (-e)).rne
    | .negZero => (0, Flags.none)
    | .inf s => (wrapNat 32 (if s then intMin 32 true else intMax 32 true), Flags.nv)
    | _ => (wrapNat 32 (intMin 32 true), Flags.nv)
  | .c4 => (0, Flags.none)

/-- The flags of R45 that a special source sets beside those of the rounding. -/
def sourceFlags (f : NumFmt) (x : Val) : Flags :=
  match x with
  | .nar => flagIf (f.isTap || f.isIeee) Flags.narf
  | .nan sig => flagIf (f.isTap || (f.isIeee && sig)) Flags.nv
  | _ => Flags.none

/-- A conversion: exactly one rounding, with the flags of R44 and R45. -/
def convertVal (f : NumFmt) (x : Val) : Nat × Flags :=
  let r := roundVal f x
  (r.1, r.2 ||| sourceFlags f x)

/-! ### Exact operations -/

/-- The real a value denotes, when it denotes one. -/
def Val.real? : Val → Option Q
  | .real q => some q
  | .negZero => some Q.zero
  | _ => none

def Val.isNar : Val → Bool
  | .nar => true
  | _ => false
def Val.isNan : Val → Bool
  | .nan _ => true
  | _ => false
def Val.isSignalling : Val → Bool
  | .nan s => s
  | _ => false
def Val.isInf : Val → Bool
  | .inf _ => true
  | _ => false
/-- NaR, a NaN or an infinity. -/
def Val.isSpecial (x : Val) : Bool := x.real?.isNone
/-- The sign of a value; false for NaR and NaN. -/
def Val.sign : Val → Bool
  | .real q => q.isNeg
  | .negZero => true
  | .inf s => s
  | _ => false
def Val.isZero : Val → Bool
  | .real q => q.isZero
  | .negZero => true
  | _ => false

/-- A zero of a given sign. -/
def zeroOf (neg : Bool) : Val := if neg then .negZero else .real Q.zero

/-- Sign change. -/
def Val.neg : Val → Val
  | .real q => if q.isZero then .negZero else .real q.neg
  | .negZero => .real Q.zero
  | .inf s => .inf (!s)
  | v => v

/-- NaN outcome of an IEEE operation, with NV for a signalling operand (R34). -/
def nanOf (xs : List Val) : Val × Flags := (.nan false, flagIf (xs.any Val.isSignalling) Flags.nv)

/-- IEEE sum before rounding (R34). -/
def ieeeAdd (a b : Val) : Val × Flags :=
  if a.isNan || b.isNan || a.isNar || b.isNar then nanOf [a, b]
  else match a, b with
    | .inf s, .inf t => if s == t then (.inf s, Flags.none) else (.nan false, Flags.nv)
    | .inf s, _ => (.inf s, Flags.none)
    | _, .inf t => (.inf t, Flags.none)
    | .negZero, .negZero => (.negZero, Flags.none)
    | a, b => match a.real?, b.real? with
      | some x, some y => (.real (x.add y), Flags.none)
      | _, _ => (.nan false, Flags.none)

/-- IEEE product before rounding (R34). -/
def ieeeMul (a b : Val) : Val × Flags :=
  let s := xor a.sign b.sign
  if a.isNan || b.isNan || a.isNar || b.isNar then nanOf [a, b]
  else if a.isInf || b.isInf then
    if a.isZero || b.isZero then (.nan false, Flags.nv) else (.inf s, Flags.none)
  else match a.real?, b.real? with
    | some x, some y => if x.isZero || y.isZero then (zeroOf s, Flags.none) else (.real (x.mul y), Flags.none)
    | _, _ => (.nan false, Flags.none)

/-- IEEE quotient before rounding (R34). -/
def ieeeDiv (a b : Val) : Val × Flags :=
  let s := xor a.sign b.sign
  if a.isNan || b.isNan || a.isNar || b.isNar then nanOf [a, b]
  else if a.isInf then (if b.isInf then (.nan false, Flags.nv) else (.inf s, Flags.none))
  else if b.isInf then (zeroOf s, Flags.none)
  else if b.isZero then (if a.isZero then (.nan false, Flags.nv) else (.inf s, Flags.dz))
  else match a.real?, b.real? with
    | some x, some y => if x.isZero then (zeroOf s, Flags.none) else (.real (x.div y), Flags.none)
    | _, _ => (.nan false, Flags.none)

/-- IEEE square root before rounding, as a rational that rounds alike (R34, R152). -/
def ieeeSqrt (a : Val) : Val × Flags :=
  match a with
  | .real q => if q.isNeg then (.nan false, Flags.nv) else (.real q.sqrtRep, Flags.none)
  | .negZero => (.negZero, Flags.none)
  | .inf s => if s then (.nan false, Flags.nv) else (.inf false, Flags.none)
  | v => nanOf [v]

/-- IEEE a·b + c before rounding; 0 × ∞ is invalid whatever c is (R152). -/
def ieeeFma (a b c : Val) : Val × Flags :=
  let p := ieeeMul a b
  let r := ieeeAdd p.1 c
  (r.1, p.2 ||| r.2)

/-- A tapered operation on reals; a NaR operand, or no real result, gives NaR and NARF (R28). -/
def tapOp (xs : List Val) (r : List Q → Option Q) : Val × Flags :=
  match (if xs.all (fun v => v.real?.isSome) then r (xs.filterMap Val.real?) else none) with
  | some q => (.real q, Flags.none)
  | none => (.nar, Flags.narf)

/-- The five rounded lane operations of R152. -/
inductive RealOp
  | add
  | sub
  | mul
  | fma
  | div
  | sqrt
deriving DecidableEq, Repr

/-- The exact real result of a tapered operation. -/
def tapReal : RealOp → List Q → Option Q
  | .add, [a, b] => some (a.add b)
  | .sub, [a, b] => some (a.sub b)
  | .mul, [a, b] => some (a.mul b)
  | .fma, [a, b, c] => some ((a.mul b).add c)
  | .div, [a, b] => if b.isZero then none else some (a.div b)
  | .sqrt, [a] => if a.isNeg then none else some a.sqrtRep
  | _, _ => none

/-- The IEEE result before rounding. -/
def ieeeReal : RealOp → List Val → Val × Flags
  | .add, [a, b] => ieeeAdd a b
  | .sub, [a, b] => if b.isNan then ieeeAdd a b else ieeeAdd a b.neg
  | .mul, [a, b] => ieeeMul a b
  | .fma, [a, b, c] => ieeeFma a b c
  | .div, [a, b] => ieeeDiv a b
  | .sqrt, [a] => ieeeSqrt a
  | _, _ => (.nan false, Flags.none)

/-- An operation in one format: exact, then one rounding (R28, R34, R152). -/
def realOp (f : NumFmt) (op : RealOp) (xs : List Val) : Nat × Flags :=
  let e := if f.isTap then tapOp xs (tapReal op) else ieeeReal op xs
  let r := roundVal f e.1
  (r.1, r.2 ||| e.2)

/-- IEEE addition rounded to f32, as a value (R47). -/
def f32Add (a b : Val) : Val × Flags :=
  let e := ieeeAdd a b
  let r := roundVal f32 e.1
  (decodeVal f32 r.1, e.2 ||| r.2)
/-- Rounding of a value to f32, as a value. -/
def f32Round (a : Val) : Val × Flags :=
  let r := roundVal f32 a
  (decodeVal f32 r.1, r.2)

/-! ### Quires (R30 to R33) -/

/-- A quire: a 512-bit two's-complement integer I worth I × 2^−240, and the NaR state bit (R30). -/
structure Quire where
  nar : Bool
  val : BitVec 512
deriving DecidableEq, Repr

def Quire.zero : Quire := ⟨false, 0⟩
/-- The NaR state, in which bits [511:0] are zero. -/
def Quire.narState : Quire := ⟨true, 0⟩
/-- The real a quire outside the NaR state denotes. -/
def Quire.q (c : Quire) : Q := Q.mk' c.val.toInt (2 ^ 240)
/-- The value a quire denotes. -/
def Quire.value (c : Quire) : Val := if c.nar then .nar else .real c.q

/-- The entry rounding of R31: the nearest multiple of 2^−240 in units of it, a tie going to the even one, with NX
when the value is not such a multiple. Every value but some f32 and bf16 products is one. -/
def entryUnits (x : Q) : Int × Flags :=
  let s := x.scale 240
  let r := s.rne
  (r, flagIf (!(Q.ofInt r).eqv s) Flags.nx)

/-- An integer of units, when it lies in the range of R30. -/
def quireOfUnits (n : Int) : Option Quire :=
  if -(2 ^ 511) ≤ n && n < 2 ^ 511 then some ⟨false, BitVec.ofInt 512 n⟩ else none

/-- quire_add (R32) of a value; NaR, NaN and the infinities count as NaR. -/
def quireAdd (c : Quire) (x : Val) : Quire × Flags :=
  if c.nar then (c, Flags.none)
  else match x.real? with
    | none => (Quire.narState, Flags.narf)
    | some q =>
      let u := entryUnits q
      match quireOfUnits (c.val.toInt + u.1) with
      | some r => (r, u.2)
      | none => (Quire.narState, u.2 ||| Flags.qov)

/-- quire_add of a list in order, gathering the flags. -/
def quireAddAll (c : Quire) (xs : List Val) : Quire × Flags :=
  xs.foldl (fun r x => let s := quireAdd r.1 x; (s.1, r.2 ||| s.2)) (c, Flags.none)

/-- Reading a quire into a format (R33). -/
def readQuire (f : NumFmt) (c : Quire) : Nat × Flags := roundVal f c.value

/-! ### Products and profiles (R46 to R51, R172) -/

/-- The product of two decoded elements as a profile takes it (R172): under profiles 0 and 3 a special operand makes
it NaR; under 1 and 2 IEEE operands follow IEEE. -/
def prodVal (prof : Nat) (ieee : Bool) (u t : Val) : Val × Flags :=
  if (prof == 1 || prof == 2) && ieee then ieeeMul u t
  else match u.real?, t.real? with
    | some x, some y => (.real (x.mul y), Flags.none)
    | _, _ => (.nar, Flags.none)

/-- One level of the balanced tree of R47: neighbours added in f32. -/
def treeLevel : List Val → List Val × Flags
  | a :: b :: rest =>
    let s := f32Add a b
    let t := treeLevel rest
    (s.1 :: t.1, s.2 ||| t.2)
  | xs => (xs, Flags.none)

/-- The tree over 32 leaves in 5 levels. -/
def treeSum : Nat → List Val → List Val × Flags
  | 0, xs => (xs, Flags.none)
  | k + 1, xs =>
    let a := treeLevel xs
    let b := treeSum k a.1
    (b.1, a.2 ||| b.2)

/-- The leaf of a product: NaR becomes a NaN (its NARF is set apart), else the product rounded to f32. -/
def f32Leaf (p : Val) : Val × Flags := if p.isNar then (.nan false, Flags.none) else f32Round p

/-- The list in groups of k, the last one perhaps shorter; the fuel is at least the number of groups. -/
def chunks {α : Type} (k : Nat) : Nat → List α → List (List α)
  | 0, _ => []
  | n + 1, xs => if xs.isEmpty then [] else xs.take k :: chunks k n (xs.drop k)

/-- Additions to the running f32 value; once the cell is NaR they set no flag (R47). -/
def accAdd (dead : Bool) (acc x : Val) : Val × Flags :=
  if dead then (acc, Flags.none) else f32Add acc x

/-- The groups of profile 1 in order (R47). -/
def treeGroups (dead : Bool) (acc : Val) : List (List Val) → Val × Flags
  | [] => (acc, Flags.none)
  | g :: gs =>
    let leaves := g.map f32Leaf
    let lf := leaves.foldl (fun a l => a ||| l.2) Flags.none
    let padded := leaves.map Prod.fst ++ List.replicate (32 - g.length) (.real Q.zero)
    let t := treeSum 5 padded
    let s := accAdd dead acc (t.1.headD (.real Q.zero))
    let r := treeGroups dead s.1 gs
    (r.1, lf ||| t.2 ||| s.2 ||| r.2)

/-- The additions of profile 2 in order (R48). -/
def seqSum (dead : Bool) (acc : Val) : List Val → Val × Flags
  | [] => (acc, Flags.none)
  | p :: ps =>
    let l := f32Leaf p
    let s := accAdd dead acc l.1
    let r := seqSum dead s.1 ps
    (r.1, l.2 ||| s.2 ||| r.2)

/-- The cell that an f32 value leaves: its exact value, or the NaR state with QOV (infinity) or NARF (NaN). -/
def cellOfF32 (v : Val) : Quire × Flags :=
  match v.real? with
  | some q => quireAdd Quire.zero (.real q)
  | none => (Quire.narState, if v.isInf then Flags.qov else Flags.narf)

/-- Profiles 1 and 2 (R47, R48). -/
def profileF32 (tree : Bool) (c : Quire) (ps : List Val) : Quire × Flags :=
  let a := if c.nar then (Val.nan false, Flags.none) else f32Round c.value
  let r := if tree then treeGroups c.nar a.1 (chunks 32 (ps.length + 1) ps) else seqSum c.nar a.1 ps
  if c.nar then (c, r.2)
  else
    let e := cellOfF32 r.1
    (e.1, a.2 ||| r.2 ||| e.2 ||| flagIf (ps.any Val.isNar) Flags.narf)

/-- Greatest floor(log2 |x|) over the non-zero reals of a group; none when every product is zero or NaR. -/
def groupEmax (g : List Val) : Option Int :=
  g.foldl (fun m v => match v.real? with
    | some q => if q.isZero then m else
      (match m with
        | none => some q.log2
        | some e => some (max e q.log2))
    | none => m) none

/-- A product truncated toward zero to a multiple of 2^(emax − 63) (R49). -/
def alignTrunc (emax : Int) (v : Val) : Val :=
  match v.real? with
  | some q => .real ((Q.ofInt (q.scale (63 - emax)).trunc).scale (emax - 63))
  | none => v

/-- A product after the entry rounding of R31. -/
def enterVal (v : Val) : Val × Flags :=
  match v.real? with
  | some q => let u := entryUnits q; (.real ((Q.ofInt u.1).scale (-240)), u.2)
  | none => (v, Flags.none)

/-- Profile 3 (R49). -/
def profileAlign (c : Quire) (ps : List Val) : Quire × Flags :=
  let es := ps.map enterVal
  let ef := es.foldl (fun a e => a ||| e.2) Flags.none
  let gs := chunks 96 (ps.length + 1) (es.map Prod.fst)
  let r := gs.foldl (fun r g => let s := quireAddAll r.1 (g.map (alignTrunc ((groupEmax g).getD 0))); (s.1, r.2 ||| s.2))
    (c, Flags.none)
  (r.1, ef ||| r.2)

/-- profile_sum: the products of one pass added to c under a profile (R46 to R49). -/
def profileSum (prof : Nat) (c : Quire) (ps : List Val) : Quire × Flags :=
  if prof == 1 then profileF32 true c ps
  else if prof == 2 then profileF32 false c ps
  else if prof == 3 then profileAlign c ps
  else
    -- the entry rounding sets NX even where the cell is already NaR, as the product is formed all the same
    let es := ps.map enterVal
    let ef := es.foldl (fun a e => a ||| e.2) Flags.none
    let r := quireAddAll c (es.map Prod.fst)
    (r.1, ef ||| r.2)

/-! ### Block-tagged weights (R38, R39) -/

/-- The level of a 4-bit code under a TAG (R38). -/
def btLevel (tag code : Nat) : Val :=
  if tag == 0 then decodeVal .c4 code
  else if tag == 1 then decodeVal (.tap 4 0) code
  else if tag == 2 then decodeVal (.int 4 true) code
  else .real Q.zero

/-- The value of a bt4 element from its superscale word, block-scale byte, tag and code (R39). -/
def btElem (sscale bscale tag code : Nat) : Val :=
  match (decodeVal f32 sscale).real? with
  | none => .nar
  | some s =>
    match (decodeVal t8e1 bscale).real? with
    | none => .nar
    | some b =>
      if tag == 3 then .real Q.zero
      else match (btLevel tag code).real? with
        | none => .nar
        | some l => .real ((s.mul b).mul l)

/-! ### The exponent table and E (R52, R53) -/

/-- T[0] to T[64] as t32e2 words: 2^(j/64) rounded once (R52). -/
def expTable : List Nat := [
  0x40000000, 0x40164D1F, 0x402CD86A, 0x4043A28C, 0x405AAC36, 0x4071F619, 0x408980E8, 0x40A14D57,
  0x40B95C1E, 0x40D1ADF6, 0x40EA4399, 0x41031DC4, 0x411C3D37, 0x4135A2B3, 0x414F4EFB, 0x416942D3,
  0x41837F05, 0x419E0459, 0x41B8D39C, 0x41D3ED9A, 0x41EF5326, 0x420B0511, 0x42270430, 0x4243515B,
  0x425FED6B, 0x427CD93B, 0x429A15AB, 0x42B7A39B, 0x42D583EF, 0x42F3B78B, 0x43123F58, 0x43311C41] ++ [
  0x43504F33, 0x436FD91E, 0x438FBAF4, 0x43AFF5AB, 0x43D08A3A, 0x43F1799B, 0x4412C4CD, 0x44346CCE,
  0x445672A1, 0x4478D74D, 0x449B9BD8, 0x44BEC150, 0x44E248C1, 0x4506333E, 0x452A81D9, 0x454F35AB,
  0x45744FCD, 0x4599D15C, 0x45BFBB79, 0x45E60F48, 0x460CCDEF, 0x4633F897, 0x465B906E, 0x468396A5,
  0x46AC0C6E, 0x46D4F302, 0x46FE4B9A, 0x47281774, 0x475257D1, 0x477D0DF7, 0x47A83B2E, 0x47D3E0C1,
  0x48000000]

/-- T[j] as a real. -/
def expT (j : Nat) : Q := ((decodeVal t32e2 (expTable.getD j 0)).real?).getD Q.one

/-- E(y) of a real y as a t32e2 word (R52). Outside −122 ≤ floor(y) ≤ 120 the result saturates alike (R53), so the
power of two is taken inside that range. -/
def expE (y : Q) : Nat :=
  let i := y.floor
  if 120 ≤ i then 2 ^ 31 - 1
  else if i < -122 then 1
  else
    let f := y.sub (Q.ofInt i)
    let j := (f.scale 6).floor.toNat
    let r := (f.scale 6).sub (Q.ofInt j)
    let w := ((expT j).add (((expT (j + 1)).sub (expT j)).mul r)).scale i
    roundTap 32 2 w

/-! ### The update rule (R54) -/

/-- NV for a signalling NaN (R34). -/
def Val.signals (v : Val) : Flags := flagIf (v = .nan true) Flags.nv

/-- A value of exact arithmetic, which has no negative zero (R25, R54). -/
def Val.unsignedZero : Val → Val
  | .negZero => .real Q.zero
  | v => v

/-- The real or special outcome of a·x + b·u in the terms of R205: a NaR or NaN anywhere gives a NaR outcome with
NARF, and NV for a signalling stored value; an infinite stored value stays infinite, and is invalid when its
factor is zero. Log 20, DEDUCED. -/
def updateSum (beta stored st u : Val) : Val × Flags :=
  if beta.isNar || st.isNar || u.isNar || stored.isNar || stored.isNan then (.nar, Flags.narf ||| stored.signals)
  else
    let p := ieeeMul beta stored
    let r := match st.real?, u.real? with
      | some a, some b => ieeeAdd p.1 (.real (a.mul b))
      | _, _ => (.nar, Flags.narf)
    (r.1, p.2 ||| r.2)

/-- The update rule of R54 with its two rounding points: cell, step word, factor of the stored value, and the stored
value in format wf. Log 20, DEDUCED. -/
def updateRule (wf : NumFmt) (cell st beta stored : Val) : Nat × Flags :=
  let u := decodeVal t32e2 (roundVal t32e2 cell).1
  let s := updateSum beta stored st u
  let r := roundVal wf s.1
  (r.1, s.2 ||| r.2)

end Sys2Proof.Machine
end

