-- ==== Sys2Proof/Machine/State.lean ====
section
/-! DEFINITION. The state of the module as plain data: every register, memory, queue and engine that the spec gives
the Tamrex 2496, its value after reset, and the reasons a step can stop. -/
namespace Sys2Proof.Machine

/-! ### Sparse tables -/

/-- A table by number: a list of (key, value) pairs, keys strictly rising, no entry equal to what an unlisted key
reads as. Host.Cell is its case of bytes by address. -/
abbrev Sparse (α : Type) := List (Nat × α)

/-- Reading: an unlisted key reads as d. -/
def Sparse.get {α : Type} (d : α) : Sparse α → Nat → α
  | [], _ => d
  | (k, v) :: m, n => if k = n then v else Sparse.get d m n

/-- Removal of a key. -/
def Sparse.erase {α : Type} : Sparse α → Nat → Sparse α
  | [], _ => []
  | (k, v) :: m, n => if k = n then Sparse.erase m n else (k, v) :: Sparse.erase m n

/-- Insertion before the first greater key. -/
def Sparse.insert {α : Type} : Sparse α → Nat → α → Sparse α
  | [], n, x => [(n, x)]
  | (k, v) :: m, n, x => if n < k then (n, x) :: (k, v) :: m else (k, v) :: Sparse.insert m n x

/-- Writing; writing what an unlisted key reads as removes the entry. -/
def Sparse.set {α : Type} [DecidableEq α] (d : α) (m : Sparse α) (n : Nat) (x : α) : Sparse α :=
  if x = d then Sparse.erase m n else Sparse.insert (Sparse.erase m n) n x

/-- Writing that lists the entry whatever its value. -/
def Sparse.put {α : Type} (m : Sparse α) (n : Nat) (x : α) : Sparse α := Sparse.insert (Sparse.erase m n) n x

/-- Keys strictly rising above a bound. -/
def Sparse.rising {α : Type} : Sparse α → Bool
  | [] => true
  | [_] => true
  | (k, _) :: (l, w) :: m => decide (k < l) && Sparse.rising ((l, w) :: m)

/-- The canonical form: keys strictly rising and no entry equal to d. -/
def Sparse.wf {α : Type} [DecidableEq α] (d : α) (m : Sparse α) : Bool :=
  Sparse.rising m && m.all fun e => decide (e.2 ≠ d)

/-- Bytes by address; a byte that nothing has written reads 0. -/
abbrev Memory := List Host.Cell

/-- What an unlisted address reads as (log 2, DESIGN CHOICE). -/
def Memory.blank : Byte := 0#8
/-- The canonical form of a memory. -/
def Memory.wf (m : Memory) : Bool := Sparse.wf Memory.blank m

/-! ### Registers and results in flight -/

/-- One bank of the scalar files: x, a, p, b (R119, R375). -/
structure Bank where
  x : Sparse Word
  a : Sparse Word
  p : BitVec 16
  b : Sparse Word
deriving DecidableEq, Repr

/-- What a result writes when it lands (R90, R383). -/
inductive Effect
  | x (n : Nat) (v : Word)
  | a (n : Nat) (v : Word)
  | p (n : Nat) (v : Bool)
  /-- A vector register under a write enable of one bit per byte (R142). -/
  | v (n : Nat) (val : BitVec 1024) (we : BitVec 128)
  | m (n : Nat) (v : BitVec 128)
  | q (n : Nat) (v : Quire)
  | b (n : Nat) (v : Word)
  /-- A system register (R125). -/
  | sys (n : Nat) (v : Word)
  /-- Rows of a tile replaced by the cells given (R198, file 8 of R383). -/
  | tile (n : Nat) (rows : BitVec 16) (cells : Sparse Quire)
  /-- An operand slot's image (R191). -/
  | slot (n : Nat) (img : BitVec 12800)
  /-- A store of QSAVE or MSAVE, performed at its landing cycle (R180, R202). -/
  | store (addr : Nat) (bytes : List Byte)
  /-- An array instruction: its word and the two slot images it read (R208). -/
  | array (word : BitVec 64) (imgA imgB : BitVec 12800)
  /-- Sticky flags alone (file 9 of R383). -/
  | nothing
  /-- A register of a file, written only where the enable is 1: an entry of a context record whose write enable is not
  all ones (R383). -/
  | part (file n : Nat) (val we : BitVec 1024)
deriving DecidableEq, Repr

/-- A result in flight: the cycle at which it lands, what it writes, and the flags it sets. Entries stand in issue
order. -/
structure Pending where
  due : Nat
  eff : Effect
  flags : Flags
deriving DecidableEq, Repr

/-- Which groups a context issues: the program's, the supervisor handler's or the completion handler's. -/
inductive Mode
  | program
  | supervisor
  | completion
deriving DecidableEq, Repr

/-- The nested-loop sequencer (R106 to R108, and bytes 2176 to 2362 of R381). -/
structure LoopSeq where
  active : Bool
  desc : List Byte
  idx : Sparse Nat
  base : Word
  /-- Groups of the body. -/
  n : Nat
  /-- Group index within the current pass. -/
  g : Nat
deriving DecidableEq, Repr

/-- A scatter-accumulate entry (R234). -/
structure SaeEntry where
  /-- Its number in the order of issue; that of a run is its last entry's. -/
  id : Nat
  addr : Nat
  sz : BitVec 3
  op : BitVec 3
  kind : BitVec 3
  val : Word
deriving DecidableEq, Repr

/-- A remote or timed write in flight (R226, R273). -/
structure RemoteWrite where
  id : Nat
  /-- Issuing context, and its task's tenant and Λ. -/
  src : CtxRef
  tenant : Nat
  lambda : Nat
  /-- Target module and core. -/
  module : Nat
  core : Nat
  addr : Nat
  /-- The bytes, with their byte enables in the low bits. -/
  bytes : List Byte
  we : BitVec 128
  /-- Sync arrival of an RWS. -/
  arrive : Option Nat
  /-- Meridian time of a timed write. -/
  time : Option Nat
  /-- Sync word that a late timed write marks. -/
  late : Option Nat
  /-- The earliest instant of arrival. -/
  ready : Nat
  /-- Found no free place among the target's incoming timed writes, and waits at its port until one frees (R274). -/
  atPort : Bool
  /-- A timed store of STVA, which holds back nothing and is held back by nothing (R276). -/
  store : Bool
deriving DecidableEq, Repr

/-- A member of a gate's snapshot (R304). -/
inductive GateMember
  /-- A result of the context that stores at the cycle given (QSAVE, MSAVE). -/
  | store (due : Nat) (addr : Nat) (len : Nat)
  /-- A remote or timed write. -/
  | write (id : Nat)
  /-- A command. -/
  | cmd (id : Nat)
  /-- A run of a closed scatter-accumulate window, by its last entry. -/
  | run (id : Nat)
deriving DecidableEq, Repr

/-- A closed gate (R304). -/
structure Gate where
  id : Nat
  word : BitVec 64
  base : Nat
  len : Nat
  glob : Bool
  succ : BitVec 4
  members : List GateMember
deriving DecidableEq, Repr

/-- A closed scatter-accumulate window: the runs not yet applied, each with its values in queue order (R235). -/
structure SaeWindow where
  id : Nat
  runs : List (SaeEntry × List Word)
deriving DecidableEq, Repr

/-- The task loaded on a context (R352, R353). -/
structure Task where
  node : Nat
  tenant : Nat
  prio : Nat
  num : Nat
  /-- SLICE and PLAT in Meridian ticks. -/
  slice : Nat
  plat : Nat
  ckpt : Bool
  /-- The regions its launch named. -/
  regions : BitVec 16
  /-- The flows it declared: source core, destination core, modules, slots (R352). -/
  flows : List (BitVec 64)
  /-- Number under which its Graticule slots are reserved. -/
  res : Nat
deriving DecidableEq, Repr

/-- Requests that stand against a context and how long each has stood, in ticks (R356, R357, R378). -/
structure Requests where
  sliceUsed : Nat
  slice : Option Nat
  preempt : Option Nat
  tenant : Option Nat
  /-- Checkpoint chosen for a newcomer. -/
  ckpt : Bool
  /-- Suspension by request. -/
  suspend : Bool
deriving DecidableEq, Repr

/-- One hardware context (R86). -/
structure Ctx where
  task : Option Task
  /-- The launch has begun and the task has not started (R353). -/
  starting : Bool
  /-- The task has issued TEND and waits for its results (R118). -/
  ending : Bool
  mode : Mode
  bank : Bank
  sbank : Bank
  /-- Shadows of x60 to x63 for the completion handler (R248). -/
  shadow : Sparse Word
  v : Sparse (BitVec 1024)
  m : Sparse (BitVec 128)
  q : Sparse Quire
  pc : Word
  /-- Address of the next group of a handler. -/
  hpc : Word
  ccyc : Nat
  pmcnt : Nat
  /-- Handler cycle counts (R375, R248) and the handler's groups (R248). -/
  hcyc : Nat
  kcyc : Nat
  kgroups : Nat
  /-- Results in flight of the program, the supervisor handler and the completion handler. -/
  line : List Pending
  sline : List Pending
  kline : List Pending
  pmbound : Word
  pend : Bool
  sticky : Flags
  epc : Word
  tcause : Word
  taddr : Word
  seq : LoopSeq
  /-- Cycle at which each b register was last written, in the program and in the handler (R96). -/
  bAt : Sparse Nat
  sbAt : Sparse Nat
  /-- Bubble groups still owed (R95). -/
  bubbles : Nat
  /-- Blocked; true inside when the wait is a TWAIT, LDNB or TEND that keeps its place in the list (R88, R272). -/
  blocked : Option Bool
  /-- The words of the group that blocks (R371). -/
  group : List (BitVec 64)
  /-- That group has passed steps 1 to 5 of R371 and spends the bubble groups of its own checks (R112, R154, R199). -/
  entered : Bool
  /-- A JTB reached the next group: its group's address and label (R105). -/
  pad : Option (Word × BitVec 16)
  /-- Cycle of the last divide in V0 and V1 (R154). -/
  div0 : Option Nat
  div1 : Option Nat
  /-- Earliest cycle of the next array instruction (R199). -/
  arrNext : Nat
  cwin : Sparse Word
  rwin : Sparse Word
  /-- Open window, closed windows, and the refusals of R237. -/
  saeOpen : List SaeEntry
  saeClosed : List SaeWindow
  saeErr : Nat
  saeCause : Nat
  saeAddr : Word
  /-- Shares of the four channels (R240). -/
  shares : Sparse Nat
  /-- For each declared flow, the first fabric cycle that its last flit leaves free (R284, R285). -/
  flowAt : Sparse Nat
  kipend : Nat
  kihand : Word
  mlambda : Word
  mdlinfo : Word
  tinva : Word
  tinvc : Word
  pltask : Word
  testim : Word
  /-- A TRET value that has landed and not yet acted (R377). -/
  tret : Option Word
  /-- The remote-write queue (R226) and the timed writes of STVA (R273). -/
  rwq : List RemoteWrite
  stva : List RemoteWrite
  /-- Stores of QSAVE and MSAVE whose context cycle has come, with the mode whose cycles count: port 2 performs them after
  the L slots of that cycle (R180, R202, R210). -/
  port2 : List (Mode × Nat × List Byte)
  gates : List Gate
  /-- Binding table: base, sync reference, length and space words (R295). -/
  binds : List (Nat × BitVec 32 × BitVec 32)
  req : Requests
  /-- Late notices counted, for the completion event (R277). -/
  lates : Nat
  /-- What STICKY and MDLINFO hold after the writes that have landed at the context cycle now to come, which precede whatever
  else reaches them before it (R125, R269). -/
  fresh : List (Nat × Word)
  /-- The context issues nothing more until its record has been written: the RKIND of the record (R378, R379). -/
  saving : Option Nat
  /-- YIELD has ended the completion handler, whose results are still to land (R248). -/
  kend : Bool
deriving DecidableEq, Repr

/-! ### Cores -/

/-- Ownership of a tile or slot (R165, R185, R190). -/
structure Own where
  owner : Option Nat
  clearing : Bool
  /-- Instant at which the clearing ends. -/
  ends : Nat
  /-- A pending release: the first cycle of its owner at which it may be performed. -/
  release : Option Nat
deriving DecidableEq, Repr

/-- An ownership region (R212 to R215). -/
structure Region where
  owner : Option Nat
  next : Option Nat
  zeroing : Bool
  /-- Instant at which the zeroing ends. -/
  ends : Nat
  lastTenant : Option Nat
deriving DecidableEq, Repr

/-- A dictionary slot (R260). -/
structure DictSlot where
  gen : Nat
  vals : List (BitVec 32)
deriving DecidableEq, Repr

/-- One core. Log 15, PRESUMED. -/
structure Core where
  ctxs : Sparse Ctx
  scratch : Memory
  sync : Sparse Word
  /-- Relief state of each 4 KiB block (R256), and the Relief-capable ranges of the regions that a context owns, each by
  context, first and last block (R84). -/
  relief : Sparse Nat
  reliefCap : List (Nat × Nat × Nat)
  /-- Cells by 256·t + c (R164). -/
  tiles : Sparse Quire
  tileOwn : Sparse Own
  slots : Sparse (BitVec 12800)
  slotOwn : Sparse Own
  regions : Sparse Region
  holder : Nat
  /-- The stage passes on before the next core cycle (R87). -/
  passing : Bool
  /-- Core cycle up to which each shared unit is busy, and for which context (R154, R200). -/
  divBusy0 : Nat × Nat
  divBusy1 : Nat × Nat
  arrBusy : Nat × Nat
  cyc : Nat
  /-- Instant of the next core cycle, in thirds of a fabric cycle. -/
  nextAt : Nat
  /-- The die's Meridian time at the core's last cycle (R356). -/
  stamp : Nat
  dict : Sparse DictSlot
  /-- Timed writes held at this core (R274). -/
  incoming : List RemoteWrite
  /-- Timed writes performed here since the core's last cycle began (R276). -/
  timedNow : List RemoteWrite
  /-- Sync words that late writes of this core cycle mark after its L slots (R231, R275). -/
  lateNow : List Nat
deriving DecidableEq, Repr

/-- One cluster: its SRAM, Relief states, and the queue that its engine takes next with the first instant at which it does
so (R216, R236, R256). -/
structure Cluster where
  sram : Memory
  relief : Sparse Nat
  turn : Nat
  saeAt : Nat
deriving DecidableEq, Repr

/-! ### Engine commands -/

/-- Why a command stopped (R246). -/
inductive StopCause
  | trans (sub : Nat)
  | accf
  | syncp
  | rdict
  | refused
deriving DecidableEq, Repr

/-- Where a command stands (R242). -/
inductive CmdState
  /-- Issued, not yet started. -/
  | queued
  /-- Started: it waits on its version, its acquire, its unit or its collective, or it moves units. -/
  | running
  /-- Every unit performed; its release and its completion are to come. -/
  | finished
  /-- Stopped with a cause and the address for TADDR. -/
  | stopped (c : StopCause) (addr : Nat)
deriving DecidableEq, Repr

/-- A work unit that a near-memory engine has computed and not yet written: work units, address, bytes and flags (R292,
R329). -/
structure HeldUnit where
  n : Nat
  addr : Nat
  bytes : List Byte
  flags : Flags
deriving DecidableEq, Repr

/-- An engine command: one that a context issued, or that of a task-graph node (R239, R264, R349). -/
structure Cmd where
  id : Nat
  /-- Issuing context; none for a node's command. -/
  ctx : Option CtxRef
  node : Nat
  tenant : Nat
  chan : Nat
  word : BitVec 64
  /-- TO, FROM and CNT as held at issue, and a[LREC]. -/
  tgt : Nat
  frm : Nat
  cnt : Nat
  lrec : Nat
  /-- The record or parameter block held at issue. -/
  record : List Byte
  /-- The nest registers of a KCPN held at issue. -/
  nest : List Word
  state : CmdState
  /-- Progress in bytes, blocks, elements, rows, queries, tokens or tiles (R264, R329, R344, R366). -/
  done : Nat
  /-- The version or acquire reference has been satisfied. -/
  acquired : Bool
  /-- The command has been accepted by the unit that serves it (R320, R365). -/
  accepted : Bool
  /-- The release of the block has been performed (R319). -/
  released : Bool
  /-- The walker record in progress and the words of a vector's unit not yet written (R366), the block held (R329), or
  source bytes that a copy has read and not yet written (R249, R419). -/
  tbuf : List Byte
  /-- Elements of a collective's source as the KCOL issued, the ranges of it to which a closed gate holds earlier writes
  still to come, and the context's own earlier writes still to be performed, each with its bytes by address (R304, R335). -/
  source : List Byte
  owed : List (Nat × Nat)
  prior : List (GateMember × List (Nat × Byte))
  /-- Bytes of each buffer of a reduction read and not yet summed, and its results not yet written (R290, R292). -/
  held : List (List Byte)
  out : List HeldUnit
  flags : Flags
  /-- Λ of the submitting task (R319). -/
  lambda : Nat
  /-- Nodes already accepted of a KTSK; the number at which a near-memory unit accepted a KNMC or a KTAB reached its
  table (R260). -/
  aux : Nat
  /-- The fabric cycle in which it started, went on after a stop, or reached its version (R285). -/
  since : Nat
deriving DecidableEq, Repr

/-- A near-memory complex: its dictionary and the queue of each unit, head first (R260, R320). -/
structure Stack where
  dict : Sparse DictSlot
  units : Sparse (List Nat)
deriving DecidableEq, Repr

/-! ### Collectives -/

/-- A party of a collective (R330). -/
structure Party where
  core : Nat
  ctx : Nat
  cmd : Nat
  /-- Its task, by the number of its reservations, and the address of a consumer's precision table. -/
  task : Nat
  table : Nat
  prod : Bool
  cons : Bool
  /-- Elements of each tile as read at its top plane, by tile (R335). -/
  read : Sparse (List Nat)
  /-- Planes injected of each tile of its contribution, and the first fabric cycle that its last flit leaves free (R279). -/
  sent : Sparse Nat
  flowAt : Nat
  /-- Planes landed of each tile at this consumer. -/
  landed : Sparse Nat
  /-- The cancel has reached this party (R342). -/
  cancelled : Bool
  /-- Killed: it performs no arrival (R343). -/
  killed : Bool
deriving DecidableEq, Repr

/-- A collective (R330 to R344). -/
structure Collective where
  id : Nat
  tenant : Nat
  /-- Bytes 0 to 31 of the block. -/
  block : List Byte
  parties : List Party
  formed : Bool
  /-- Being cancelled. -/
  cancel : Bool
  /-- Cancelled before forming: joins still to be met (R343). -/
  ghost : Nat
  /-- KCAN commands that complete with the acknowledgement. -/
  kcans : List Nat
deriving DecidableEq, Repr

/-- A collective's reserved tree (R341). -/
structure Tree where
  collid : Nat
  tenant : Nat
  edges : List (BitVec 64)
deriving DecidableEq, Repr

/-! ### Schedulers -/

/-- Completion status of a node or task (R391). -/
inductive Status
  | done
  | killed
  | refused
  | trapped
  | faulted
deriving DecidableEq, Repr

/-- A task-graph node owned by a scheduler (R345 to R348). -/
structure Node where
  id : Nat
  addr : Nat
  /-- Physical address of its record, by which a predecessor finds it (R347). -/
  pa : Nat
  tenant : Nat
  port : Option Nat
  iod : Nat
  kind : Nat
  prio : Nat
  record : List Byte
  /-- Order in which it became ready; none while it waits for predecessors. -/
  ready : Option Nat
  dispatched : Bool
  tokens : Nat
  /-- The running tasks for which it has decided, each by its node and task number (R359). -/
  decided : List (Nat × Nat)
  /-- Tasks not yet completed, and the first bad end with its event fields. -/
  left : Nat
  bad : Option (Status × Nat × List Nat)
  /-- Late notices of its tasks (R277). -/
  lates : Nat
deriving DecidableEq, Repr

/-- A node record posted and not yet accepted (R346, R388). -/
structure Post where
  iod : Nat
  tenant : Nat
  port : Option Nat
  addr : Nat
  /-- The KTSK command that posts it, with the issuing task's priority. -/
  cmd : Option Nat
  prio : Nat
  /-- The control message that carries a KTSK's post (R280); none once a port has taken it. -/
  carrier : Option Nat
deriving DecidableEq, Repr

/-- A task launch that waits for its core (R353); its number is that of its reservation. -/
structure Launch where
  id : Nat
  node : Nat
  tenant : Nat
  core : Nat
  ctx : Nat
  num : Nat
  entry : List Byte
  levels : List Byte
  binds : List (Nat × BitVec 32 × BitVec 32)
  syncs : List (BitVec 32)
  flows : List (BitVec 64)
  /-- REGIONS has been applied. -/
  begun : Bool
  /-- The parameter block, read as the launch begins (R353). -/
  block : List Byte
deriving DecidableEq, Repr

/-- What the rules of a restore keep of a context's timeline and the layout of R381 has no field for: the cycles at which
its b registers were written (R96), those of its last divides (R154) and of its next array instruction (R199), the
landing pad it awaits (R105), the releases that wait for an array result (R190), and the results in flight that no file of
R383 names (R92, R180, R182) and those that port 2 has still to perform (R210). Log 18, DESIGN CHOICE. -/
structure Kept where
  bAt : Sparse Nat
  div0 : Option Nat
  div1 : Option Nat
  arrNext : Nat
  pad : Option (Word × BitVec 16)
  /-- Tile or slot, its number, and the first cycle at which its release may be performed. -/
  releases : List (Bool × Nat × Nat)
  line : List Pending
  port2 : List (Mode × Nat × List Byte)
  /-- The numbers of the entries of its open scatter-accumulate window (R304), and its Relief-capable ranges (R84). -/
  saeIds : List Nat
  relief : List (Nat × Nat)
deriving DecidableEq, Repr

/-- A task kept in a context record (R379, R380), with what the record's layout has no field for: its launch, its
commands' stop causes and gathered flags, and its late notices. Log 35, DESIGN CHOICE. -/
structure Saved where
  addr : Nat
  core : Nat
  ctx : Nat
  task : Task
  pool : Nat × Nat
  binds : List (Nat × BitVec 32 × BitVec 32)
  cmds : List Cmd
  gates : List Nat
  lates : Nat
  kept : Kept
deriving DecidableEq, Repr

/-- A restore that waits for its core (R380). -/
structure RestoreReq where
  id : Nat
  addr : Nat
  tenant : Nat
  /-- A host asked for it; otherwise the scheduler brings a checkpointed task back. -/
  port : Bool
  /-- The resources are reclaimed and the context is loaded, not yet started. -/
  begun : Bool
deriving DecidableEq, Repr

/-- What a task image in memory records beside its code (R84): the totals of its .local directives in the scratchpad and in
the cluster window, and its scratchpad ranges marked relief, each by first and last block. It is set by whoever loads the
image (log 15). -/
structure Image where
  tenant : Nat
  code : Nat
  scratch : Nat
  cluster : Nat
  relief : List (Nat × Nat)
deriving DecidableEq, Repr

/-- A reserved Graticule slot: the reservation of a task or a collective, the flow among its flows, whether it is the
flow's injection slot, link direction and slot (R281). -/
structure Slot where
  owner : Nat
  coll : Option (Nat × Nat)
  flow : Nat
  inj : Bool
  link : Nat
  slot : Nat
deriving DecidableEq, Repr

/-! ### Messages, ports and dies -/

/-- A control message in flight (R280). -/
inductive Msg
  /-- A late notice: the context to tell and the fields of MDLINFO. -/
  | late (dst : CtxRef) (info : Word)
  /-- An arrival with release at a sync reference, with the visible-at time and Λ, for a command. -/
  | release (ref : Nat) (relt : Option Nat) (lambda : Nat) (cmd : Option Nat)
  /-- A node posted by a KTSK, for the scheduler that holds the post (R361). -/
  | post
  /-- A translation invalidation on its way to a die, and a die's acknowledgement (R314). -/
  | inval (id : Nat) (die : Nat)
  | ack (id : Nat) (die : Nat)
  /-- The cancel of a collective on its way to a party (R342). -/
  | cancel (coll : Nat) (party : Nat)
  /-- The completion of a command that an I/O die's engine has moved, on its way to the core (R20, R280). -/
  | complete (cmd : Nat)
deriving DecidableEq, Repr

structure Message where
  id : Nat
  src : Nat
  dst : Nat
  /-- The source has sent it; otherwise it waits for one of four outstanding messages to be delivered. -/
  sent : Bool
  /-- Fabric cycles that it takes, and once sent its earliest instant of arrival. -/
  delay : Nat
  ready : Nat
  msg : Msg
deriving DecidableEq, Repr

/-- A translation invalidation in progress (R314). -/
structure Inval where
  id : Nat
  /-- The context that asked, while its task runs; none for a host. -/
  ctx : Option CtxRef
  host : Bool
  tenant : Nat
  size : Nat
  va : Nat
  /-- The source of its requests, to which the acknowledgements go (R280). -/
  src : Nat
  /-- Dies the request has not reached, dies that have not sent their acknowledgement, and those whose acknowledgement is
  on its way. -/
  todo : List Nat
  owing : List Nat
  flying : List Nat
deriving DecidableEq, Repr

/-- A cached entry of a table, leaf or pointer: tenant, base of the range that it maps, level and entry (R313). -/
structure TEntry where
  tenant : Nat
  base : Nat
  level : Nat
  leaf : Word
deriving DecidableEq, Repr

/-- One die, 0 to 23 compute, 24 to 27 I/O, and the HBM base dies from 28 (R265). Log 10, DESIGN CHOICE. -/
structure Die where
  /-- Throttle step 0 to 3: 940, 705, 470, 235 MHz, and the steps requested (R21, R398). -/
  step : Nat
  asked : List Nat
  /-- Meridian skew in ticks (R266), and the value at which the counter has stopped (R265). -/
  skew : Int
  stopped : Option Nat
  tcache : List TEntry
  /-- The table pointers above the cached leaves (R313). -/
  pcache : List TEntry
  /-- Commands that the grammar engine has accepted, head first (R365). -/
  grammar : List Nat
  /-- Current granted (R398), and the core voltage set, in millivolts (R396). -/
  grant : Nat
  volts : Nat
  /-- Over its grant at the lowest clock step: the arbiter delays its best-effort admission to the mesh, the next of a copy
  to this instant (R398). -/
  slow : Bool
  admitAt : Nat
deriving DecidableEq, Repr

/-- A device write to host memory that awaits its completion (R392). -/
structure HostWrite where
  pa : Nat
  bytes : List Byte
  /-- An event record of the port's ring. -/
  event : Bool
  /-- The command that made it. -/
  cmd : Option Nat
deriving DecidableEq, Repr

/-- A host port (R386, R391, R392, R396). -/
structure Port where
  link : Option LinkKind
  ebase : Word
  esize : Word
  ehead : Word
  etail : Word
  /-- Records held for want of space, and the number discarded. -/
  held : List (List Byte)
  discarded : Nat
  writes : List HostWrite
  /-- Firewall windows (first, last physical byte), at most 16 (R396). -/
  windows : List (Nat × Nat)
  /-- What the port's last read of OWNER returned (R387). -/
  answer : Word
deriving DecidableEq, Repr

/-- Meridian: the accumulator of R265 in units of 2^−32 tick, its step, and the discipline state of R268, R269. -/
structure Meridian where
  acc : Nat
  step : Nat
  held : Bool
  lock : Bool
  hold : Bool
  xmesh : Bool
  bound : Bool
  /-- Instant of the loss of the reference, until the expiry has been reported. -/
  holdAt : Option Nat
  epoch : Option Word
deriving DecidableEq, Repr

/-- The gang schedule in force (R360). -/
structure Gang where
  gt0 : Nat
  glen : Nat
  sets : List (BitVec 16)
  at_ : Nat
deriving DecidableEq, Repr

/-- A Neatline port (R393). -/
structure Link where
  expect : Option Nat
  peer : Option Nat
  enabled : Bool
deriving DecidableEq, Repr

/-- The module-wide registers and limits (R389, R394). -/
structure ModuleRegs where
  number : Nat
  budget : Nat
  meshRef : Nat
  /-- Registers of the module block by offset (R389). -/
  block : Sparse Word
  owner : Option Nat
  /-- Fabric cycle in which a read through port 1 made it the owner (R387). -/
  ownedAt : Option Nat
  poolUsed : List (Nat × Nat)
  /-- Events whose writing ends the BUSY of a register, with the register's offset (R390). -/
  busyUntil : List (Nat × List Byte)
  /-- Lowest accepted firmware version (R394). -/
  fwFloor : Nat
  /-- Microseconds of Meridian time up to which the arbiter has granted (R398). -/
  granted : Nat
deriving DecidableEq, Repr

/-- The group being issued: what its words have set so far. -/
structure Issue where
  /-- The group has passed its checks and its words are to be performed. -/
  checked : Bool
  /-- The words to be performed, in order, each with its stop bit and its slot within its class. -/
  words : List (Instr × Bool × Nat)
  addr : Word
  next : Word
  /-- Stop bit of the word being performed. -/
  st : Bool
  /-- Slot of that word within its class: 0 or 1 (R57). -/
  slot : Nat
  /-- Place in its group, from 0, of the word being checked. -/
  pos : Nat
  redirect : Option Word
  bubbles : Nat
  pad : Option (Word × BitVec 16)
  pass : Bool
  trap : Option (Nat × Nat)
  /-- LSEQ has started the sequencer with this group. -/
  fresh : Bool
  /-- A branch has been taken. -/
  taken : Bool
deriving DecidableEq, Repr

/-- The state of the module. -/
structure State where
  cores : Sparse Core
  clusters : Sparse Cluster
  /-- HBM, LPDDR and host memory by 52-bit physical address (R309). -/
  mem : Memory
  /-- Relief state of HBM blocks by physical block number (R256). -/
  relief : Sparse Nat
  dies : Sparse Die
  complexes : Sparse Stack
  /-- Channel translation caches by 4·core + channel. -/
  chanCache : Sparse (List TEntry)
  cmds : List Cmd
  colls : List Collective
  trees : List Tree
  posts : List Post
  nodes : List Node
  launches : List Launch
  saved : List Saved
  restores : List RestoreReq
  images : List Image
  reserved : List Slot
  msgs : List Message
  invals : List Inval
  ports : Sparse Port
  seqs : Sparse Nat
  links : Sparse Link
  /-- Neatline links between other modules of the extended mesh, each by its two modules (R16, R288). -/
  farLinks : List (Nat × Nat)
  /-- Mesh links narrowed to half width, and the narrowings asked for with the microsecond of the request (R399). -/
  narrow : List Nat
  narrowAsked : List (Nat × Nat)
  mer : Meridian
  gang : Option Gang
  mod : ModuleRegs
  /-- Steps that come next, external ones and any chosen order of asynchronous ones; none lets time pass (log 4). -/
  agenda : List (Option Instr)
  /-- Real time in thirds of a fabric cycle. -/
  now : Nat
  /-- Next number for commands, writes, messages and the like. -/
  nextId : Nat
  /-- Counter of free values (log 11). -/
  freeCtr : Nat
  cur : CtxRef
  iss : Issue
deriving DecidableEq, Repr

/-- Reasons for a fault: none arises, since every trap of the spec is a next state. -/
inductive Fault
  /-- Never raised: the model takes every trap the spec describes. Safe. -/
  | unused
deriving DecidableEq, Repr

/-- Reasons for a refusal. -/
inductive Refusal
  /-- Raised by exec's arm of an instruction without a meaning yet. Safe. -/
  | notModelled (mnemonic : String)
deriving DecidableEq, Repr

/-! ### Reset -/

/-- Log 1, DESIGN CHOICE. -/
def Bank.reset : Bank := { x := [], a := [], p := 1, b := [] }
def LoopSeq.reset : LoopSeq := { active := false, desc := [], idx := [], base := 0, n := 0, g := 0 }
def Requests.reset : Requests :=
  { sliceUsed := 0, slice := none, preempt := none, tenant := none, ckpt := false, suspend := false }

/-- A context with no task (log 1, DESIGN CHOICE). -/
def Ctx.reset : Ctx :=
  { task := none, starting := false, ending := false, mode := .program, bank := Bank.reset, sbank := Bank.reset, shadow := [], v := [],
    m := [], q := [], pc := 0, hpc := 0, ccyc := 0, pmcnt := 0, hcyc := 0, kcyc := 0, kgroups := 0, line := [],
    sline := [], kline := [], pmbound := 0, pend := false, sticky := Flags.none, epc := 0, tcause := 0, taddr := 0,
    seq := LoopSeq.reset, bAt := [], sbAt := [], bubbles := 0, blocked := none, group := [], entered := false, pad := none, div0 := none,
    div1 := none, arrNext := 0, cwin := [], rwin := [], saeOpen := [], saeClosed := [], saeErr := 0, saeCause := 0,
    saeAddr := 0, shares := [], flowAt := [], kipend := 0, kihand := 0, mlambda := 0, mdlinfo := 0, tinva := 0, tinvc := 0,
    pltask := 0, testim := 0, tret := none, rwq := [], stva := [], port2 := [], gates := [], binds := [], req := Requests.reset,
    lates := 0, fresh := [], saving := none, kend := false }

def Own.reset : Own := { owner := none, clearing := false, ends := 0, release := none }
def Region.reset : Region := { owner := none, next := none, zeroing := false, ends := 0, lastTenant := none }
/-- Generation 0 and sixteen zeros (R260). -/
def DictSlot.reset : DictSlot := { gen := 0, vals := List.replicate 16 0 }

/-- Log 5, DESIGN CHOICE. -/
def Core.reset : Core :=
  { ctxs := [], scratch := [], sync := [], relief := [], reliefCap := [], tiles := [], tileOwn := [], slots := [],
    slotOwn := [], regions := [], holder := 0, passing := false, divBusy0 := (0, 0), divBusy1 := (0, 0), arrBusy := (0, 0), cyc := 0,
    nextAt := 0, stamp := 0, dict := [], incoming := [], timedNow := [], lateNow := [] }
def Cluster.reset : Cluster := { sram := [], relief := [], turn := 0, saeAt := 0 }
def Stack.reset : Stack := { dict := [], units := [] }
def Die.reset : Die :=
  { step := 0, asked := [], skew := 0, stopped := none, tcache := [], pcache := [], grammar := [], grant := 0, volts := 0, slow := false, admitAt := 0 }

/-- The windows of a port's firewall at reset: all of host memory (log 14, DESIGN CHOICE). -/
def Port.reset : Port :=
  { link := none, ebase := 0, esize := 0, ehead := 0, etail := 0, held := [], discarded := 0, writes := [],
    windows := [(0x80000000000, 0xFFFFFFFFFFF)], answer := 0 }
def Link.reset : Link := { expect := none, peer := none, enabled := false }

/-- 400/47 ticks per fabric cycle, to the nearest multiple of 2^−32 (R265). -/
def nominalStep : Nat := (400 * 2 ^ 32 * 2 + 47) / (2 * 47)

def Meridian.reset : Meridian :=
  { acc := 0, step := nominalStep, held := true, lock := false, hold := false, xmesh := false, bound := false,
    holdAt := none, epoch := none }
/-- The defaults of R394. Log 14, DESIGN CHOICE. -/
def ModuleRegs.reset : ModuleRegs :=
  { number := 0, budget := 3800, meshRef := 0, block := [], owner := none, ownedAt := none, poolUsed := [], busyUntil := [],
    fwFloor := 0, granted := 0 }
def Issue.none : Issue :=
  { checked := false, words := [], addr := 0, next := 0, st := true, slot := 0, pos := 0, redirect := .none,
    bubbles := 0, pad := .none, pass := false, trap := .none, fresh := false, taken := false }

/-- The module right after reset, standalone, no block present (R394, R397). Log 2, DESIGN CHOICE. -/
def State.reset : State :=
  { cores := [], clusters := [], mem := [], relief := [], dies := [], complexes := [], chanCache := [], cmds := [],
    colls := [], trees := [], posts := [], nodes := [], launches := [], saved := [], restores := [], images := [], reserved := [],
    msgs := [], invals := [], ports := [], seqs := [], links := [], farLinks := [], narrow := [], narrowAsked := [], mer := Meridian.reset, gang := none,
    mod := ModuleRegs.reset, agenda := [], now := 0, nextId := 1, freeCtr := 0, cur := ⟨0, 0⟩, iss := Issue.none }

end Sys2Proof.Machine
end

