-- ==== Sys2Proof/Machine/Base.lean ====
section
/-! DEFINITION. Named access to the parts of the state: bytes and words, cores and contexts, register banks by mode,
geometry (R13 to R20), time (R21, R265), and the verdict of a check. -/
namespace Sys2Proof.Machine

/-! ### Bytes -/

/-- The number that bytes denote, the least significant first (R4). -/
def leNat : List Byte → Nat
  | [] => 0
  | b :: bs => b.toNat + 256 * leNat bs
/-- The low n bytes of a number, the least significant first. -/
def natBytes : Nat → Nat → List Byte
  | 0, _ => []
  | n + 1, v => BitVec.ofNat 8 v :: natBytes n (v / 256)
/-- Byte k of a list; 0 beyond its end. -/
def byteAt (bs : List Byte) (k : Nat) : Nat := (bs.getD k 0).toNat
/-- The n bytes at offset k as a number. -/
def fieldAt (bs : List Byte) (k n : Nat) : Nat := leNat ((bs.drop k).take n)
/-- A 64-bit field. -/
def wordAt (bs : List Byte) (k : Nat) : Word := BitVec.ofNat 64 (fieldAt bs k 8)
/-- Whether every byte from offset k on, n of them, is zero. -/
def zeroAt (bs : List Byte) (k n : Nat) : Bool := ((bs.drop k).take n).all (· == 0)
/-- A list of bytes with n bytes replaced at an offset. -/
def patchBytes (bs : List Byte) (k : Nat) (new : List Byte) : List Byte :=
  bs.take k ++ new ++ bs.drop (k + new.length)

def Memory.read (m : Memory) (a : Nat) : Byte := Sparse.get Memory.blank m a
def Memory.write (m : Memory) (a : Nat) (b : Byte) : Memory := Sparse.set Memory.blank m a b
/-- The n bytes from a upward. -/
def Memory.bytes (m : Memory) (a : Nat) : Nat → List Byte
  | 0 => []
  | n + 1 => m.read a :: Memory.bytes m (a + 1) n
/-- Bytes stored from a upward. -/
def Memory.store (m : Memory) (a : Nat) : List Byte → Memory
  | [] => m
  | b :: bs => Memory.store (m.write a b) (a + 1) bs
/-- Bytes stored from a upward where bit k of the enable is 1. -/
def Memory.storeMasked (m : Memory) (a : Nat) (we : Nat) : List Byte → Memory
  | [] => m
  | b :: bs =>
    Memory.storeMasked (if we % 2 == 1 then m.write a b else m) (a + 1) (we / 2) bs
/-- The bytes from lo to hi − 1 return to what an unlisted address reads as. -/
def Memory.clear (m : Memory) (lo hi : Nat) : Memory := m.filter fun e => e.1 < lo || hi ≤ e.1
/-- The n bytes from a as a number. -/
def Memory.nat (m : Memory) (a n : Nat) : Nat := leNat (m.bytes a n)

/-- The n bits of a vector from bit lo. -/
def bits {w : Nat} (v : BitVec w) (lo n : Nat) : Nat := v.toNat / 2 ^ lo % 2 ^ n
/-- Sign extension of the low w bits of a number, as a word. -/
def sextWord (w v : Nat) : Word := BitVec.ofInt 64 (sextInt w v)

/-! ### Geometry (R13 to R20) -/

def coreX (i : Nat) : Nat := i % 48
def coreY (i : Nat) : Nat := i / 48
def coreAt (x y : Nat) : Nat := 48 * y + x
/-- The compute die of a core (R15). -/
def dieOf (i : Nat) : Nat := 6 * (coreY i / 4) + coreX i / 8
/-- The cluster index of a core (R15). -/
def clusterOf (i : Nat) : Nat := 24 * (coreY i / 2) + coreX i / 2
/-- The compute die a stack attaches to (R14). -/
def stackDie (h : Nat) : Nat := if h < 6 then h else h + 12
/-- The home I/O die of a compute die (R20). -/
def homeIod (die : Nat) : Nat := (if die / 6 < 2 then 0 else 1) + (if die % 6 < 3 then 0 else 2)
/-- The die number of an I/O die. -/
def iodDie (i : Nat) : Nat := 24 + i
/-- The I/O die of a host port (R386). -/
def portIod (p : Nat) : Nat := if p == 0 then 0 else 3
/-- Hops between two cores on the X-first path (R281). -/
def hops (a b : Nat) : Nat :=
  (max (coreX a) (coreX b) - min (coreX a) (coreX b)) + (max (coreY a) (coreY b) - min (coreY a) (coreY b))

/-! ### Parts of the state -/

def State.core (s : State) (i : Nat) : Core := Sparse.get Core.reset s.cores i
def State.setCore (s : State) (i : Nat) (k : Core) : State := { s with cores := Sparse.put s.cores i k }
def Core.ctx (k : Core) (n : Nat) : Ctx := Sparse.get Ctx.reset k.ctxs n
def Core.setCtx (k : Core) (n : Nat) (c : Ctx) : Core := { k with ctxs := Sparse.put k.ctxs n c }
def State.ctx (s : State) (r : CtxRef) : Ctx := (s.core r.core).ctx r.ctx
def State.setCtx (s : State) (r : CtxRef) (c : Ctx) : State := s.setCore r.core ((s.core r.core).setCtx r.ctx c)
def State.modCtx (s : State) (r : CtxRef) (f : Ctx → Ctx) : State := s.setCtx r (f (s.ctx r))
def State.modCore (s : State) (i : Nat) (f : Core → Core) : State := s.setCore i (f (s.core i))
def State.cluster (s : State) (i : Nat) : Cluster := Sparse.get Cluster.reset s.clusters i
def State.setCluster (s : State) (i : Nat) (k : Cluster) : State := { s with clusters := Sparse.put s.clusters i k }
def State.die (s : State) (i : Nat) : Die := Sparse.get Die.reset s.dies i
def State.setDie (s : State) (i : Nat) (d : Die) : State := { s with dies := Sparse.put s.dies i d }
def State.stack (s : State) (i : Nat) : Stack := Sparse.get Stack.reset s.complexes i
def State.setStack (s : State) (i : Nat) (d : Stack) : State := { s with complexes := Sparse.put s.complexes i d }
def State.port (s : State) (i : Nat) : Port := Sparse.get Port.reset s.ports i
def State.setPort (s : State) (i : Nat) (d : Port) : State := { s with ports := Sparse.put s.ports i d }
/-- A register of the module block by its offset. -/
def State.blockReg (s : State) (off : Nat) : Word := Sparse.get 0 s.mod.block off
def State.setBlockReg (s : State) (off : Nat) (v : Word) : State :=
  { s with mod := { s.mod with block := Sparse.set 0 s.mod.block off v } }
def State.fresh (s : State) : Nat × State := (s.nextId, { s with nextId := s.nextId + 1 })

def Core.tileOwner (k : Core) (t : Nat) : Own := Sparse.get Own.reset k.tileOwn t
def Core.slotOwner (k : Core) (t : Nat) : Own := Sparse.get Own.reset k.slotOwn t
def Core.region (k : Core) (n : Nat) : Region := Sparse.get Region.reset k.regions n
def Core.setRegion (k : Core) (n : Nat) (r : Region) : Core :=
  { k with regions := Sparse.set Region.reset k.regions n r }
def Core.setTileOwner (k : Core) (t : Nat) (o : Own) : Core :=
  { k with tileOwn := Sparse.set Own.reset k.tileOwn t o }
def Core.setSlotOwner (k : Core) (t : Nat) (o : Own) : Core :=
  { k with slotOwn := Sparse.set Own.reset k.slotOwn t o }
/-- Cell c of tile t (R164). -/
def Core.cell (k : Core) (t c : Nat) : Quire := Sparse.get Quire.zero k.tiles (256 * t + c)
def Core.slotImg (k : Core) (n : Nat) : BitVec 12800 := Sparse.get 0 k.slots n
def Core.syncWord (k : Core) (n : Nat) : Word := Sparse.get 0 k.sync n
def Core.setSync (k : Core) (n : Nat) (w : Word) : Core := { k with sync := Sparse.set 0 k.sync n w }

def State.tenantOf (s : State) (r : CtxRef) : Nat := ((s.ctx r).task.map Task.tenant).getD 0
def State.findCmd (s : State) (id : Nat) : Option Cmd := s.cmds.find? (·.id == id)
def State.setCmd (s : State) (c : Cmd) : State :=
  { s with cmds := s.cmds.map fun k => if k.id == c.id then c else k }
/-- A command leaves the machine, and every queue that holds it. -/
def State.dropCmd (s : State) (id : Nat) : State :=
  { s with
    cmds := s.cmds.filter (·.id != id)
    complexes := s.complexes.map fun (h, k) => (h, { k with units := k.units.map fun (u, q) => (u, q.filter (· != id)) })
    dies := s.dies.map fun (d, k) => (d, { k with grammar := k.grammar.filter (· != id) }) }
/-- The uncompleted commands of a context on a channel, in issue order (R242). -/
def State.chanCmds (s : State) (r : CtxRef) (chan : Nat) : List Cmd :=
  s.cmds.filter fun k => k.ctx == some r && k.chan == chan
def State.ctxCmds (s : State) (r : CtxRef) : List Cmd := s.cmds.filter fun k => k.ctx == some r
def Cmd.isStopped (c : Cmd) : Bool :=
  match c.state with
  | .stopped _ _ => true
  | _ => false
/-- The instruction of a command's word. -/
def Cmd.instr (c : Cmd) : Option Instr :=
  match decodeWord c.word with
  | .ok i => some i
  | _ => none

/-! ### Registers by mode (R60, R248, R375) -/

/-- x[n] as the context's groups read it: x0 is zero, the supervisor bank or the shadows stand for the program's. -/
def Ctx.x (c : Ctx) (n : Nat) : Word :=
  if n == 0 then 0
  else match c.mode with
    | .supervisor => Sparse.get 0 c.sbank.x n
    | .completion => if 60 ≤ n then Sparse.get 0 c.shadow n else Sparse.get 0 c.bank.x n
    | .program => Sparse.get 0 c.bank.x n
def Ctx.a (c : Ctx) (n : Nat) : Word :=
  if c.mode = .supervisor then Sparse.get 0 c.sbank.a n else Sparse.get 0 c.bank.a n
def Ctx.p (c : Ctx) (n : Nat) : Bool :=
  n == 0 || (if c.mode = .supervisor then c.sbank.p.getLsbD n else c.bank.p.getLsbD n)
def Ctx.b (c : Ctx) (n : Nat) : Word :=
  if c.mode = .supervisor then Sparse.get 0 c.sbank.b n else Sparse.get 0 c.bank.b n
def Ctx.vr (c : Ctx) (n : Nat) : BitVec 1024 := Sparse.get 0 c.v n
/-- m[n]; m0 is all ones. -/
def Ctx.mr (c : Ctx) (n : Nat) : BitVec 128 := if n == 0 then BitVec.allOnes 128 else Sparse.get 0 c.m n
def Ctx.qr (c : Ctx) (n : Nat) : Quire := Sparse.get Quire.zero c.q n

/-- Whether a guard holds (R59). -/
def Ctx.guard (c : Ctx) (g : Guard) : Bool := xor (c.p g.pg.toNat) g.gn

/-- A task is loaded. -/
def Ctx.loaded (c : Ctx) : Bool := c.task.isSome
/-- The cycle count that the context's groups run by: CCYC, or the handler's own (R89, R248, R375). -/
def Ctx.clock (c : Ctx) : Nat :=
  match c.mode with
  | .program => c.ccyc
  | .supervisor => c.hcyc
  | .completion => c.kcyc

/-- Port 2 has stores of a mode still to perform. -/
def Ctx.portWaits (c : Ctx) (m : Mode) : Bool := c.port2.any (·.1 = m)
/-- A result enters the delay line of the running mode, due latency cycles from now (R90). -/
def Ctx.push (c : Ctx) (lat : Nat) (e : Effect) (f : Flags) : Ctx :=
  let p : Pending := { due := c.clock + lat, eff := e, flags := f }
  match c.mode with
  | .program => { c with line := c.line ++ [p] }
  | .supervisor => { c with sline := c.sline ++ [p] }
  | .completion => { c with kline := c.kline ++ [p] }

/-- Address of the group about to issue. -/
def Ctx.at_ (c : Ctx) : Word := if c.mode = .program then c.pc else c.hpc

/-! ### Time (R21, R265) -/

/-- Fabric cycles since reset. -/
def State.fabric (s : State) : Nat := s.now / Config.fabricPeriod
/-- The greatest accumulator: the counter stops at its largest value (R265). -/
def accMax : Nat := (2 ^ 64 - 1) * 2 ^ 32
/-- Real time moves on; the Meridian accumulator adds one step in each fabric cycle. Log 54, DESIGN CHOICE. -/
def State.advance (s : State) (t : Nat) : State :=
  if t ≤ s.now then s
  else
    let n := t / Config.fabricPeriod - s.now / Config.fabricPeriod
    let mer := if s.mer.held then s.mer else { s.mer with acc := min (s.mer.acc + n * s.mer.step) accMax }
    { s with now := t, mer := mer }
/-- The module reference, IOD0's counter. -/
def State.reference (s : State) : Nat := s.mer.acc / 2 ^ 32
/-- The Meridian counter of a die (R265, R266). Log 10, DESIGN CHOICE. -/
def State.dieTime (s : State) (d : Nat) : Nat :=
  let k := s.die d
  match k.stopped with
  | some v => v
  | none => if s.mer.held then 0 else min ((s.reference : Int) + k.skew).toNat (2 ^ 64 - 1)
def State.coreTime (s : State) (core : Nat) : Nat := s.dieTime (dieOf core)
/-- A core has made the core cycle of this instant, so that in this cycle the accesses of its L slots come before what
reaches port 2 now (R210, R231). -/
def Core.cycleMade (k : Core) (now : Nat) : Bool := decide (now < k.nextAt) || !(k.ctxs.any fun c => c.2.task.isSome)
def State.coreDone (s : State) (core : Nat) : Bool := (s.core core).cycleMade s.now
/-- The instant after some fabric cycles. -/
def State.after (s : State) (cycles : Nat) : Nat := s.now + cycles * Config.fabricPeriod

/-! ### Checks -/

/-- A trap: cause, completion cause, translation sub-cause, channel, code and TADDR (R368, R369). -/
structure Trap where
  cause : Nat
  ccause : Nat
  tsub : Nat
  chan : Nat
  code : Nat
  addr : Word
deriving DecidableEq, Repr

def Trap.plain (cause : Nat) (addr : Word) : Trap :=
  { cause := cause, ccause := 0, tsub := 0, chan := 0, code := 0, addr := addr }

/-- Codes of R368. -/
def causeILG : Nat := 1
def causeILL : Nat := 2
def causeACCF : Nat := 3
def causeALIGN : Nat := 4
def causeSYNCP : Nat := 5
def causeTRANS : Nat := 6
def causeCPYF : Nat := 7
def causeNUNI : Nat := 8
def causeJBND : Nat := 9
def causeLPADF : Nat := 10
def causeEARLY : Nat := 11
def causePMOVR : Nat := 12
def causeARITH : Nat := 13
def causeMISS : Nat := 14
def causeTRAP : Nat := 15
def causeSVC : Nat := 16

/-- Outcome of the issue checks of an instruction or a group (R371). -/
inductive Verdict
  | ok
  /-- The group blocks; true for a wait that keeps its place in the circular list (R88, R272). -/
  | block (timed : Bool)
  /-- The group first spends a bubble group (R112, R154, R199). -/
  | bubble
  /-- The group stalls this core cycle and the stage does not pass (R154, R200). -/
  | stall
  | trap (t : Trap)
deriving DecidableEq, Repr

/-- The next check when the first passes. -/
def Verdict.andThen (v w : Verdict) : Verdict :=
  match v with
  | .ok => w
  | v => v
def trapIf (c : Bool) (cause : Nat) (addr : Word) : Verdict := if c then .trap (Trap.plain cause addr) else .ok
def Verdict.isBlock : Verdict → Bool
  | .block _ => true
  | _ => false
def blockIf (c : Bool) : Verdict := if c then .block false else .ok

end Sys2Proof.Machine
end

