-- ==== Sys2Proof/Machine/Ranges.lean ====
section
/-! DEFINITION. The ranges that an engine command reads and writes (R244, R250 to R255, R263, R317 to R328, R333, R361,
R365). -/
namespace Sys2Proof.Machine

/-- A range of a command: its space, first byte, length, and whether the command writes it. -/
structure Range where
  glob : Bool
  addr : Nat
  len : Nat
  write : Bool
deriving DecidableEq, Repr

/-! ### Layout records (R253) -/

def layFmt (bs : List Byte) : BitVec 6 := BitVec.ofNat 6 (byteAt bs 0)
/-- Columns and rows of a two-dimensional layout. -/
def layCols (bs : List Byte) : Nat := fieldAt bs 8 4
def layRows (bs : List Byte) : Nat := fieldAt bs 12 4
/-- Bytes of the tensor of a layout record. -/
def layBytes (bs : List Byte) : Nat :=
  if layFmt bs == 0x21#6 then layCols bs * layRows bs / 256 * 144
  else fmtWidth (layFmt bs) * layCols bs * layRows bs / 8

/-! ### Nests (R251) -/

/-- Source stride, destination stride and COUNT of outer dimension d ≥ 1 of a KCPN. -/
def Cmd.srcStride (k : Cmd) (d : Nat) : Int := (k.nest.getD (2 * d - 2) 0).toInt
def Cmd.dstStride (k : Cmd) (d : Nat) : Int := sextInt 48 (bits (k.nest.getD (2 * d - 1) 0) 0 48)
def Cmd.dimCount (k : Cmd) (d : Nat) : Nat := bits (k.nest.getD (2 * d - 1) 0) 48 16 + 1
/-- Dimensions of a KCPN. -/
def nestDims (f : FmtK) : Nat := (kxBits f 5 3).toNat

/-- Least and greatest offset of the runs of a nest under some strides. -/
def Cmd.offsets (k : Cmd) (n : Nat) (stride : Nat → Int) : Int × Int :=
  (List.range (n - 1)).foldl (fun r i =>
    let reach := stride (i + 1) * ((k.dimCount (i + 1) : Int) - 1)
    if reach < 0 then (r.1 + reach, r.2) else (r.1, r.2 + reach)) (0, 0)
/-- First byte and length of the bounding range of the runs from a base, addresses taken modulo 2^64; no run has no byte. -/
def boundRange (base run : Nat) (o : Int × Int) : Nat × Nat :=
  (wrapNat 64 ((base : Int) + o.1), if run == 0 then 0 else ((o.2 - o.1) + run).toNat)

/-! ### Parameter blocks (R321, R323, R325, R326, R332) -/

def blkCount (bs : List Byte) : Nat := fieldAt bs 4 4
/-- A format code in a byte of a block. -/
def blkFmt (bs : List Byte) (k : Nat) : BitVec 6 := BitVec.ofNat 6 (byteAt bs k)
/-- Element size in bytes of the format in a byte of a block. -/
def blkSize (bs : List Byte) (k : Nat) : Nat := fmtWidth (blkFmt bs k) / 8

/-- Address of buffer b of a reduction. -/
def bufferAddr (bs : List Byte) (b : Nat) : Nat :=
  wrapNat 64 (((fieldAt bs 48 8 : Nat) : Int) + b * sextInt 64 (fieldAt bs 56 8))
def reductionRanges (bs : List Byte) : List Range :=
  let n := blkCount bs
  ((List.range (byteAt bs 42)).map fun b =>
    { glob := true, addr := bufferAddr bs b
      len := n * blkSize bs 40, write := false }) ++
  [{ glob := true, addr := fieldAt bs 64 8, len := n * blkSize bs 41, write := true }]
/-- The arrays of an update block: address, element size, whether written. -/
def updateArrays (bs : List Byte) : List (Nat × Nat × Bool) :=
  let mode := byteAt bs 43
  [(fieldAt bs 64 8, blkSize bs 40, true), (fieldAt bs 72 8, blkSize bs 41, false)]
    ++ (if mode == 0 then [] else [(fieldAt bs 80 8, blkSize bs 42, true)])
    ++ (if mode == 2 then [(fieldAt bs 88 8, blkSize bs 42, true)] else [])
def updateRanges (bs : List Byte) : List Range :=
  (updateArrays bs).map fun a => { glob := true, addr := a.1, len := blkCount bs * a.2.1, write := a.2.2 }
def transformRanges (bs : List Byte) : List Range :=
  let src := fieldAt bs 48 8
  let dst := fieldAt bs 56 8
  let n := 4096 * blkCount bs
  let t := byteAt bs 40
  if t == 0 then [{ glob := true, addr := src, len := n, write := false }, { glob := true, addr := dst, len := n, write := true }]
  else if t == 1 then [{ glob := true, addr := src, len := n, write := true }]
  else
    let m := layBytes ((bs.drop 64).take 32)
    [{ glob := true, addr := src, len := m, write := false }, { glob := true, addr := dst, len := m, write := true }]
/-- Dimensions of a Gazetteer block: d, N, D, k. -/
def gazHdim (bs : List Byte) : Nat := fieldAt bs 44 2
def gazKeys (bs : List Byte) : Nat := fieldAt bs 46 2
def gazVdim (bs : List Byte) : Nat := fieldAt bs 48 2
def gazTop (bs : List Byte) : Nat := byteAt bs 43
def gazetteerRanges (bs : List Byte) : List Range :=
  let q := blkCount bs
  let rd (k n : Nat) : Range := { glob := true, addr := fieldAt bs k 8, len := n, write := false }
  let wr (k n : Nat) : Range := { glob := true, addr := fieldAt bs k 8, len := n, write := true }
  [rd 56 (4 * gazHdim bs * q), rd 64 (2 * gazHdim bs * gazKeys bs), rd 72 (2 * gazHdim bs * gazKeys bs),
    rd 80 (2 * gazVdim bs * gazKeys bs * gazKeys bs), wr 88 (q * gazVdim bs * blkSize bs 42), wr 96 (4 * q),
    wr 104 (8 * gazTop bs * q)]
/-- The ranges of a near-memory block by its unit. -/
def nmcRanges (bs : List Byte) : List Range :=
  match byteAt bs 0 with
  | 0 => reductionRanges bs
  | 1 => updateRanges bs
  | 2 => transformRanges bs
  | _ => gazetteerRanges bs

/-- Bytes of a collective's source, destination and precision table at a party (R333). -/
def collWidth (bs : List Byte) : Nat := fmtWidth (blkFmt bs 1)
def collProducers (bs : List Byte) : Nat := fieldAt bs 12 2
def collConsumers (bs : List Byte) : Nat := fieldAt bs 14 2
def collSrcBytes (bs : List Byte) : Nat := blkCount bs * (collWidth bs / 8)
def collDstBytes (bs : List Byte) : Nat :=
  match byteAt bs 0 with
  | 0 => collSrcBytes bs
  | 1 => collProducers bs * collSrcBytes bs
  | _ => blkCount bs * 8
/-- Tiles of one contribution, and of the whole table. -/
def collTilesEach (bs : List Byte) : Nat := (blkCount bs + 1023) / 1024
def collTiles (bs : List Byte) : Nat := (if byteAt bs 0 == 1 then collProducers bs else 1) * collTilesEach bs
def collTableBytes (bs : List Byte) : Nat := 8 + collTiles bs

/-- Fields of a grammar descriptor (R362). -/
def gramStates (d : List Byte) : Nat := fieldAt d 0 2
def gramSyms (d : List Byte) : Nat := fieldAt d 2 2
def gramClasses (d : List Byte) : Nat := fieldAt d 4 2
def gramTokens (d : List Byte) : Nat := fieldAt d 8 4
def gramClsAddr (d : List Byte) : Nat := fieldAt d 16 8
def gramActAddr (d : List Byte) : Nat := fieldAt d 24 8
/-- The tables that a descriptor names. -/
def gramTables (d : List Byte) : List Range :=
  [{ glob := true, addr := gramClsAddr d, len := gramTokens d, write := false },
    { glob := true, addr := gramActAddr d, len := 4 * (gramStates d * gramSyms d * gramClasses d), write := false }]

/-! ### Ranges of a command -/

def locR (a n : Nat) (w : Bool) : Range := { glob := false, addr := a, len := n, write := w }
/-- A range whose space a bit of KX gives. -/
def kxR (isLocal : Bool) (a n : Nat) (w : Bool) : Range := { glob := !isLocal, addr := a, len := n, write := w }

def Cmd.rangesOf (k : Cmd) : Instr → List Range
  | .kcp _ f | .kcpv _ f =>
    [kxR (f.kx.getLsbD 10) k.frm k.cnt false, kxR (f.kx.getLsbD 11) k.tgt k.cnt true]
  | .kcpOpimg _ f =>
    ((List.range 16).map fun j => kxR (f.kx.getLsbD 10) ((k.frm + j * k.cnt) % 2 ^ 64) 144 false)
      ++ [kxR true k.tgt 1600 true]
  | .kcpn _ f =>
    let s := boundRange k.frm k.cnt (k.offsets (nestDims f) k.srcStride)
    let d := boundRange k.tgt k.cnt (k.offsets (nestDims f) k.dstStride)
    [kxR (f.kx.getLsbD 10) s.1 s.2 false, kxR (f.kx.getLsbD 11) d.1 d.2 true]
  | .ktr _ f =>
    [kxR (f.kx.getLsbD 10) k.frm (layBytes k.record) false, kxR (f.kx.getLsbD 11) k.tgt (layBytes k.record) true]
  | .kenc _ f =>
    [kxR (f.kx.getLsbD 10) k.frm (4096 * k.cnt) false, kxR (f.kx.getLsbD 11) k.tgt (4096 * k.cnt) true]
  | .krec _ f | .kseal _ f | .ksealUnseal _ f => [kxR (f.kx.getLsbD 10) k.frm (4096 * k.cnt) true]
  | .ktab _ _ => [locR k.frm 64 false]
  | .knmc _ _ => nmcRanges k.record
  | .kcol _ f =>
    (if f.kx.getLsbD 0 then [locR k.frm (collSrcBytes k.record) false] else [])
      ++ (if f.kx.getLsbD 1 then [locR k.tgt (collDstBytes k.record) true, locR k.cnt (collTableBytes k.record) true]
          else [])
  | .ktsk _ _ => [{ glob := true, addr := k.frm, len := 64 * k.cnt, write := true }]
  | .gstep _ _ => [locR k.tgt 256 true, locR k.frm (4 * k.cnt) false] ++ gramTables k.record
  | .gmask _ _ =>
    [locR k.tgt (4 * (32 * ((gramTokens k.record + 31) / 32))) true, locR k.frm 256 false] ++ gramTables k.record
  | _ => []

def Cmd.ranges (k : Cmd) : List Range :=
  match k.instr with
  | some i => k.rangesOf i
  | none => []

/-- Commands of class E (R293); every other command is of class K. -/
def Cmd.isE (k : Cmd) : Bool :=
  match k.instr with
  | some (.knmc _ _) | some (.kcol _ _) | some (.ktsk _ _) | some (.gstep _ _) | some (.gmask _ _) => true
  | _ => false

def isGrammar : Instr → Bool
  | .gstep _ _ | .gmask _ _ => true
  | _ => false
/-- Two ranges of one space share a byte, addresses taken modulo 2^64. -/
def rangesMeet (a n b m : Nat) : Bool :=
  n != 0 && m != 0 && (decide ((b + 2 ^ 64 - a) % 2 ^ 64 < n) || decide ((a + 2 ^ 64 - b) % 2 ^ 64 < m))

end Sys2Proof.Machine
end

