-- ==== Sys2Proof/Machine/LocalMem.lean ====
section
/-! DEFINITION. The local address space of a core: scratchpad, sync page and cluster windows (R209 to R217), the
region check (R214), and the sync words (R228 to R233). -/
namespace Sys2Proof.Machine

/-! ### The local map (R209) -/

/-- End of scratchpad data, which is the start of the sync page. -/
def scratchEnd : Nat := 0x1FF000
def syncEnd : Nat := 0x200000
def clusterBase : Nat := 0x1000000
def clusterEnd : Nat := 0x1800000

/-- A whole access lies in scratchpad data. -/
def inScratch (a n : Nat) : Bool := a + n ≤ scratchEnd
/-- A whole access lies in the sync page. -/
def inSync (a n : Nat) : Bool := scratchEnd ≤ a && a + n ≤ syncEnd
/-- Address of sync word n. -/
def syncAddr (n : Nat) : Nat := scratchEnd + 8 * n
/-- Index of the sync word at an address of the sync page. -/
def syncIndex (a : Nat) : Nat := (a - scratchEnd) / 8

/-! ### Windows (R217, R225) -/

/-- A byte of the cluster SRAM lies in one cluster window. -/
def inWindow (w : Word) (o : Nat) : Bool :=
  let base := bits w 0 12
  let pages := bits w 16 12
  4096 * base ≤ o && o < 4096 * (base + pages)
/-- Every byte of a cluster access lies in some window of the context. -/
def Ctx.inCluster (c : Ctx) (a n : Nat) : Bool :=
  clusterBase ≤ a && a + n ≤ clusterEnd
    && (List.range n).all fun k => (List.range 4).any fun i => inWindow (Sparse.get 0 c.cwin i) (a - clusterBase + k)
/-- A cluster range lies in one window from end to end. -/
def Ctx.clusterRange (c : Ctx) (a n : Nat) : Bool :=
  clusterBase ≤ a && a + n ≤ clusterEnd
    && (n == 0 || (List.range 4).any fun i =>
      inWindow (Sparse.get 0 c.cwin i) (a - clusterBase) && inWindow (Sparse.get 0 c.cwin i) (a - clusterBase + n - 1))

/-! ### Regions (R212 to R215) -/

def regionOf (a : Nat) : Nat := a / 0x20000

/-- The verdict of R214 on one byte. -/
inductive RegionVerdict
  | owned
  | waiting
  | refused
deriving DecidableEq, Repr

def Core.regionVerdict (k : Core) (ctx a : Nat) : RegionVerdict :=
  let r := k.region (regionOf a)
  if r.owner == some ctx then (if r.zeroing then .waiting else .owned)
  else if r.next == some ctx then .waiting
  else .refused

/-- The first byte of each region that a range touches. -/
def regionStarts (a n : Nat) : List Nat :=
  if n == 0 then []
  else (List.range (regionOf (a + n - 1) - regionOf a + 1)).map fun i => max a ((regionOf a + i) * 0x20000)

/-- The region check on a list of ranges: ACCF at the lowest refused byte (R214; log 26, DEDUCED, for the accesses of which
R220 names another address), else a block while any byte waits. -/
def Core.regionCheck (k : Core) (ctx : Nat) (ranges : List (Nat × Nat)) : Verdict :=
  let pts := ranges.flatMap fun r => regionStarts r.1 r.2
  let bad := pts.filter fun a => k.regionVerdict ctx a == .refused
  match bad with
  | b :: bs => .trap (Trap.plain causeACCF (BitVec.ofNat 64 (bs.foldl min b)))
  | [] => blockIf (pts.any fun a => k.regionVerdict ctx a == .waiting)

/-! ### Reading and writing -/

/-- Byte of the sync page. -/
def Core.syncByte (k : Core) (a : Nat) : Byte :=
  let o := a - scratchEnd
  (k.syncWord (o / 8)).extractLsb' (8 * (o % 8)) 8

/-- Bytes of scratchpad data or of the sync page (R209, R228). -/
def Core.read (k : Core) (a n : Nat) : List Byte :=
  if a < scratchEnd then k.scratch.bytes a n else (List.range n).map fun i => k.syncByte (a + i)

/-- Bytes of the local space as a context of the core sees it, cluster SRAM included. -/
def State.localRead (s : State) (core a n : Nat) : List Byte :=
  if clusterBase ≤ a then (s.cluster (clusterOf core)).sram.bytes (a - clusterBase) n else (s.core core).read a n

/-- A store under byte enables to scratchpad data or cluster SRAM. -/
def State.localStore (s : State) (core a : Nat) (we : Nat) (bs : List Byte) : State :=
  if clusterBase ≤ a then
    let cl := s.cluster (clusterOf core)
    s.setCluster (clusterOf core) { cl with sram := cl.sram.storeMasked (a - clusterBase) we bs }
  else s.modCore core fun k => { k with scratch := k.scratch.storeMasked a we bs }

/-- All n enables. -/
def allBytes (n : Nat) : Nat := 2 ^ n - 1

/-! ### Relief state of local blocks (R256) -/

/-- Relief state of the 4 KiB block that holds a local address. -/
def State.localRelief (s : State) (core a : Nat) : Nat :=
  if clusterBase ≤ a then Sparse.get 0 (s.cluster (clusterOf core)).relief ((a - clusterBase) / 4096)
  else Sparse.get 0 (s.core core).relief (a / 4096)
def State.setLocalRelief (s : State) (core a st : Nat) : State :=
  if clusterBase ≤ a then
    let cl := s.cluster (clusterOf core)
    s.setCluster (clusterOf core) { cl with relief := Sparse.set 0 cl.relief ((a - clusterBase) / 4096) st }
  else s.modCore core fun k => { k with relief := Sparse.set 0 k.relief (a / 4096) st }

/-- A store of class L into a block that is not RAW raises ACCF (R262). -/
def State.reliefStoreCheck (s : State) (core : Nat) (a n : Nat) : Verdict :=
  trapIf (n != 0 && (s.localRelief core a != 0 || s.localRelief core (a + n - 1) != 0)) causeACCF (BitVec.ofNat 64 a)

/-! ### Sync words (R228 to R233) -/

def swCount (w : Word) : Nat := bits w 0 32
def swTarget (w : Word) : Nat := bits w 32 16
def swPhase (w : Word) : Bool := w.getLsbD 48
def swKind (w : Word) : Nat := bits w 50 2
def swVersion (w : Word) : Nat := bits w 0 48
/-- Bits [63:52] read zero and are ignored when written. -/
def swMask (w : Word) : Word := w &&& 0x000FFFFFFFFFFFFF#64
def swSetCount (w : Word) (n : Nat) : Word := (w &&& 0xFFFFFFFF00000000#64) ||| (BitVec.ofNat 32 n).setWidth 64
def swSetVersion (w : Word) (n : Nat) : Word := (w &&& 0xFFFF000000000000#64) ||| (BitVec.ofNat 48 n).setWidth 64
def swLate (w : Word) : Word := w ||| (1#64 <<< 49)

/-- An arrival (R230); at a version word it changes nothing (R227). -/
def swArrive (w : Word) : Word :=
  match swKind w with
  | 1 =>
    if swCount w + 1 == swTarget w then swSetCount w 0 ^^^ (1#64 <<< 48) else swSetCount w (swCount w + 1)
  | 2 => w
  | _ => swSetCount w (min (swCount w + 1) (2 ^ 32 - 1))

/-- The arrival of a completion: at a version word it adds one, and it stays at its greatest value (R230). -/
def swComplete (w : Word) : Word :=
  if swKind w == 2 then swSetVersion w (min (swVersion w + 1) (2 ^ 48 - 1)) else swArrive w

/-- The condition of R232 on a word for an operand. -/
def swSatisfied (w v : Word) : Bool :=
  match swKind w with
  | 1 => xor (swPhase w) (v.getLsbD 0)
  | 2 => bits v 0 48 ≤ swVersion w
  | _ => bits v 0 32 ≤ swCount w

end Sys2Proof.Machine
end

