-- ==== Sys2Proof/Machine/Translate.lean ====
section
/-! DEFINITION. Global addresses: homes (R309), the four-level walk and its faults (R308 to R315), the translation
caches (R313), and reading and writing translated bytes. -/
namespace Sys2Proof.Machine

/-! ### Homes (R309) -/

inductive Home
  | hbm (stack : Nat)
  | lpddr (iod : Nat)
  | host (port : Nat)
  | nothing
deriving DecidableEq, Repr

/-- Module number of a physical address. -/
def paModule (pa : Nat) : Nat := pa / 2 ^ 48
/-- Home within its module of a physical address. -/
def homeOf (pa : Nat) : Home :=
  let o := pa % 2 ^ 48
  if o < 12 * 2 ^ 36 then .hbm (o / 2 ^ 36)
  else if 0x10000000000 ≤ o && o < 0x10000000000 + 4 * 2 ^ 38 then .lpddr ((o - 0x10000000000) / 2 ^ 38)
  else if 0x80000000000 ≤ o && o < 0xC0000000000 then .host 0
  else if 0xC0000000000 ≤ o && o < 0x100000000000 then .host 1
  else .nothing
def Home.isDram : Home → Bool
  | .hbm _ => true
  | .lpddr _ => true
  | _ => false
def Home.isHost : Home → Bool
  | .host _ => true
  | _ => false
def Home.isHbm : Home → Bool
  | .hbm _ => true
  | _ => false
/-- Host memory of a port lies above this physical offset. Log 21, DEDUCED. -/
def hostBase (p : Nat) : Nat := if p == 0 then 0x80000000000 else 0xC0000000000

/-- The Neatline links of the extended mesh, each by its two modules: the enabled ones of this module, and those between
others (R16). -/
def State.meshLinks (s : State) : List (Nat × Nat) :=
  (s.links.filterMap fun l => if l.2.enabled then l.2.peer.map fun p => (s.mod.number, p) else none) ++ s.farLinks
/-- A link joins two modules. -/
def joins (a b : Nat) (l : Nat × Nat) : Bool := l == (a, b) || l == (b, a)
/-- The modules that a module reaches over at most n links. -/
def modulesWithin (ls : List (Nat × Nat)) (m : Nat) : Nat → List Nat
  | 0 => [m]
  | n + 1 =>
    let near := modulesWithin ls m n
    (List.range 16).filter fun x => near.contains x || near.any fun y => ls.any (joins x y)
/-- Neatline crossings between two modules: as few as lead from the one to the other (R288); at most 16 modules join a mesh
(R16). -/
def State.crossings (s : State) (a b : Nat) : Option Nat :=
  (List.range 16).find? fun n => (modulesWithin s.meshLinks a n).contains b
/-- A module is reached when it is this one, or one of its extended mesh (R16, R309). -/
def State.moduleReachable (s : State) (m : Nat) : Bool := m == s.mod.number || (s.crossings s.mod.number m).isSome

/-! ### The walk (R310, R311, R315) -/

/-- Sub-causes of R315. -/
def tNONCANON : Nat := 1
def tINVALID : Nat := 2
def tMALFORMED : Nat := 3
def tWRITE : Nat := 4
def tUNBACKED : Nat := 5
def tREMOTE : Nat := 6

/-- bits [63:48] all equal bit 47. -/
def canonical (va : Nat) : Bool := va < 2 ^ 47 || 2 ^ 64 - 2 ^ 47 ≤ va

/-- Page size of a leaf at a level. -/
def pageSize (level : Nat) : Nat := if level == 2 then 2 ^ 29 else if level == 3 then 2 ^ 23 else 2 ^ 17

/-- Index of a virtual address at a level. -/
def levelIndex (level va : Nat) : Nat :=
  if level == 1 then va / 2 ^ 38 % 1024
  else if level == 2 then va / 2 ^ 29 % 512
  else if level == 3 then va / 2 ^ 23 % 64
  else va / 2 ^ 17 % 64

def pteValid (e : Word) : Bool := e.getLsbD 0
def pteLeaf (e : Word) : Bool := e.getLsbD 1
def pteWrite (e : Word) : Bool := e.getLsbD 2
def pteRelief (e : Word) : Bool := e.getLsbD 3
def pteStripe (e : Word) : Bool := e.getLsbD 4
def pteAddr (e : Word) : Nat := bits e 12 40 * 4096
/-- Address of the table a pointer entry names: TLO completes a 512-byte table's address. -/
def pteTable (e : Word) : Nat := pteAddr e + bits e 9 3 * 512

/-- An entry that breaks R310 or R311 at its level. -/
def pteMalformed (mod : Nat) (level : Nat) (e : Word) : Bool :=
  if bits e 5 4 != 0 || bits e 52 12 != 0 then true
  else if pteLeaf e then
    let sz := pageSize level
    let home := homeOf (pteAddr e)
    level == 1 || bits e 9 3 != 0
      || (pteRelief e && !home.isHbm)
      || (if pteStripe e then
            level == 4 || !home.isHbm || pteAddr e % 2 ^ 36 / 2 ^ 30 != 0 || pteAddr e % 2 ^ 30 % (sz / 64) != 0
          else pteAddr e % sz != 0)
  else
    let t := pteTable e
    level == 4 || pteRelief e || pteStripe e || (level == 1 && bits e 9 3 != 0)
      || !(homeOf t).isDram || paModule t != mod

/-- Entry of a table at a physical address. -/
def State.pteAt (s : State) (table idx : Nat) : Word := BitVec.ofNat 64 (s.mem.nat (table + 8 * idx) 8)

/-- The range that an entry of a level maps. -/
def entrySpan (level : Nat) : Nat := if level == 1 then 2 ^ 38 else pageSize level
/-- The entry of a level for an address, as a cache holds it. -/
def cachedAs (tenant level va : Nat) (e : Word) : TEntry :=
  { tenant := tenant, base := va / entrySpan level * entrySpan level, level := level, leaf := e }
/-- The entry of a level for an address among cached ones. -/
def pointerIn (ptrs : List TEntry) (tenant level va : Nat) : Option Word :=
  (ptrs.find? fun p => p == cachedAs tenant level va p.leaf).map TEntry.leaf

/-- The walk from a level downward, through cached pointers where there are any (R313): the leaf's level, the leaf, and the
pointers above it. The fuel is the number of levels left. -/
def State.walkFrom (s : State) (ptrs : List TEntry) (tenant va : Nat) :
    Nat → Nat → Nat → Except Nat (Nat × Word × List TEntry)
  | 0, _, _ => .error tMALFORMED
  | k + 1, level, table =>
    let e := (pointerIn ptrs tenant level va).getD (s.pteAt table (levelIndex level va))
    if !pteValid e then .error tINVALID
    else if pteMalformed s.mod.number level e then .error tMALFORMED
    else if pteLeaf e then .ok (level, e, [])
    else match s.walkFrom ptrs tenant va k (level + 1) (pteTable e) with
      | .ok (l, leaf, above) => .ok (l, leaf, cachedAs tenant level va e :: above)
      | .error c => .error c

/-- The leaf of a canonical address in a tenant's tables; while TROOT's VALID is 0 every access is INVALID (R389). -/
def State.walk (s : State) (ptrs : List TEntry) (tenant va : Nat) : Except Nat (Nat × Word × List TEntry) :=
  let root := s.blockReg (0x040 + 8 * tenant)
  if !root.getLsbD 0 then .error tINVALID
  else s.walkFrom ptrs tenant va 4 1 (bits root 13 39 * 8192)

/-- Physical address of byte v of a leaf's page (R312). -/
def leafPa (level : Nat) (e : Word) (va : Nat) : Nat :=
  let v := va % pageSize level
  if pteStripe e then
    let g := v / 4096
    let a := pteAddr e
    a / 2 ^ 36 * 2 ^ 36 + (g % 64) * 2 ^ 30 + (a % 2 ^ 30 + g / 64 * 4096 + v % 4096)
  else pteAddr e + v

/-! ### Caches (R313) -/

def TEntry.covers (t : TEntry) (tenant va : Nat) : Bool :=
  t.tenant == tenant && t.base == va / pageSize t.level * pageSize t.level

def cacheFind (c : List TEntry) (tenant va : Nat) : Option TEntry := c.find? (·.covers tenant va)
/-- A new entry goes in last; beyond the size the oldest leaves (log 7, DESIGN CHOICE). -/
def cacheFill (size : Nat) (c : List TEntry) (t : TEntry) : List TEntry :=
  let c := c.filter (· != t) ++ [t]
  c.drop (c.length - size)

def State.chanTlb (s : State) (core chan : Nat) : List TEntry := Sparse.get [] s.chanCache (4 * core + chan)

/-- Pointers above no cached leaf leave the cache (R313). -/
def Die.prune (d : Die) : Die :=
  { d with pcache := d.pcache.filter fun p =>
      d.tcache.any fun t => t.tenant == p.tenant && p.base ≤ t.base && t.base < p.base + entrySpan p.level }
/-- A leaf and the pointers above it enter a die's cache. -/
def Die.fill (d : Die) (t : TEntry) (above : List TEntry) : Die :=
  { d with tcache := cacheFill 4096 d.tcache t, pcache := d.pcache.filter (!above.contains ·) ++ above }.prune
/-- The leaf of an address through a die cache, which a walk fills. Log 7, DESIGN CHOICE. -/
def State.dieLeaf (s : State) (die tenant va : Nat) : Except Nat TEntry × State :=
  let d := s.die die
  match cacheFind d.tcache tenant va with
  | some t => (.ok t, s)
  | none =>
    match s.walk d.pcache tenant va with
    | .error e => (.error e, s)
    | .ok (level, leaf, above) =>
      let t := cachedAs tenant level va leaf
      (.ok t, s.setDie die (d.fill t above))

/-- Who translates: a die, or a channel of a core before its die. -/
inductive Walker
  | die (d : Nat)
  | chan (core chan : Nat)
deriving DecidableEq, Repr

/-- The leaf of an address through a walker's caches. -/
def State.leaf (s : State) (w : Walker) (tenant va : Nat) : Except Nat TEntry × State :=
  match w with
  | .die d => s.dieLeaf d tenant va
  | .chan core chan =>
    match cacheFind (s.chanTlb core chan) tenant va with
    | some t => (.ok t, s)
    | none =>
      match s.dieLeaf (dieOf core) tenant va with
      | (.error e, s) => (.error e, s)
      | (.ok t, s) =>
        (.ok t, { s with chanCache := Sparse.put s.chanCache (4 * core + chan) (cacheFill 16 (s.chanTlb core chan) t) })

/-- Some bytes of host memory lie in a firewall window of the port (R396). -/
def Port.allows (p : Port) (pa n : Nat) : Bool := p.windows.any fun w => w.1 ≤ pa % 2 ^ 48 && pa % 2 ^ 48 + n ≤ w.2 + 1

/-- A translated address: physical byte, and whether its page is Relief-capable. -/
structure Trans where
  pa : Nat
  relief : Bool
deriving DecidableEq, Repr

/-- Translation of an access of n bytes inside one page, with the sub-cause order of R315; those of this module's host memory
lie in one firewall window (R396). -/
def State.translate (s : State) (w : Walker) (tenant va n : Nat) (write : Bool) : Except Nat Trans × State :=
  if !canonical va then (.error tNONCANON, s)
  else match s.leaf w tenant va with
    | (.error e, s) => (.error e, s)
    | (.ok t, s) =>
      let pa := leafPa t.level t.leaf va
      if write && !pteWrite t.leaf then (.error tWRITE, s)
      else match homeOf pa with
        | .nothing => (.error tUNBACKED, s)
        | .host p =>
          if paModule pa == s.mod.number && !(s.port p).allows pa n then (.error tUNBACKED, s)
          else if !s.moduleReachable (paModule pa) then (.error tREMOTE, s)
          else (.ok { pa := pa, relief := false }, s)
        | _ =>
          if !s.moduleReachable (paModule pa) then (.error tREMOTE, s)
          else (.ok { pa := pa, relief := pteRelief t.leaf }, s)

/-! ### Translated bytes -/

/-- A run of bytes that lies in one 4 KiB unit. -/
def pieces (a n : Nat) : Nat → List (Nat × Nat)
  | 0 => []
  | k + 1 =>
    if n == 0 then []
    else
      let m := min n (4096 - a % 4096)
      (a, m) :: pieces (a + m) (n - m) k

/-- The 4 KiB-bounded pieces of a range. -/
def splitRange (a n : Nat) : List (Nat × Nat) := pieces a n (n / 4096 + 2)

/-- Reading of translated bytes, piece by piece; a fault names its sub-cause and address. -/
def State.readPieces (s : State) (w : Walker) (tenant : Nat) :
    List (Nat × Nat) → Except (Nat × Nat) (List Byte) × State
  | [] => (.ok [], s)
  | (a, n) :: ps =>
    match s.translate w tenant a n false with
    | (.error e, s) => (.error (e, a), s)
    | (.ok t, s) =>
      let bs := s.mem.bytes t.pa n
      match s.readPieces w tenant ps with
      | (.error e, s) => (.error e, s)
      | (.ok rest, s) => (.ok (bs ++ rest), s)

/-- Reading of n bytes at a virtual address (raw bytes as they are stored). -/
def State.readGlobal (s : State) (w : Walker) (tenant va n : Nat) : Except (Nat × Nat) (List Byte) × State :=
  s.readPieces w tenant (splitRange va n)

end Sys2Proof.Machine
end

