-- ==== Sys2Proof/Machine/Graticule.lean ====
section
/-! DEFINITION. The mesh, its edge attachments (R17, R18) and the Graticule: paths, path latencies, the reservation of
slots, and the flits of a flow (R279 to R285, R288, R399). -/
namespace Sys2Proof.Machine

/-! ### Edge attachments (R18, R19, R280) -/

/-- The number in a range that is nearest another. -/
def nearest (lo hi n : Nat) : Nat := max lo (min n hi)
/-- The edge routers of an I/O die: its column, and its first and last row (R18). -/
def iodEdge (i : Nat) : Nat × Nat × Nat := (if i < 2 then 0 else 47, if i % 2 == 0 then 0 else 8, if i % 2 == 0 then 7 else 15)
/-- The edge routers of a stack: its row, and its first and last column (R18). -/
def stackEdge (h : Nat) : Nat × Nat × Nat := (if h < 6 then 0 else 15, 8 * (h % 6), 8 * (h % 6) + 7)
/-- The port router of an I/O die whose Y is nearest a core's. -/
def iodRouter (i core : Nat) : Nat := coreAt (iodEdge i).1 (nearest (iodEdge i).2.1 (iodEdge i).2.2 (coreY core))
/-- The port router of a stack whose X is nearest a core's. -/
def stackRouter (h core : Nat) : Nat := coreAt (nearest (stackEdge h).2.1 (stackEdge h).2.2 (coreX core)) (stackEdge h).1
/-- The router of a compute die nearest a core's, for the messages of its translation cache. Log 6, DESIGN CHOICE. -/
def dieRouter (d core : Nat) : Nat :=
  coreAt (nearest (8 * (d % 6)) (8 * (d % 6) + 7) (coreX core)) (nearest (4 * (d / 6)) (4 * (d / 6) + 3) (coreY core))
/-- Ends of control messages: cores by their index, and beside them near-memory complexes, I/O dies and compute dies. -/
def stackSrc (h : Nat) : Nat := 1000 + h
def iodSrc (i : Nat) : Nat := 2000 + i
def dieSrc (d : Nat) : Nat := if 24 ≤ d then iodSrc (d - 24) else 3000 + d
/-- The router at which a message of an end enters or leaves the mesh, as near as may be to a core. -/
def endRouter (e core : Nat) : Nat :=
  if e < 1000 then e else if e < 2000 then stackRouter (e - 1000) core else if e < 3000 then iodRouter (e - 2000) core
  else dieRouter (e - 3000) core
/-- Hops of a control message on the X-first path between the routers of its ends (R280). -/
def msgHops (a b : Nat) : Nat :=
  let at_ := endRouter a (endRouter b 0)
  hops at_ (endRouter b at_)
/-- Neatline ports: two of each I/O die (R19). -/
def neatlinePorts : Nat := 8
/-- The I/O die of a Neatline port. -/
def linkIod (l : Nat) : Nat := l / 2

/-! ### Paths (R17, R281) -/

/-- A link direction out of a core: 0 east, 1 west, 2 south, 3 north. -/
def linkId (core dir : Nat) : Nat := 4 * core + dir
/-- Links along a row from x to x', then along a column from y to y'; the fuel is the number of hops. -/
def pathFrom (x y x' y' : Nat) : Nat → List Nat
  | 0 => []
  | n + 1 =>
    if x < x' then linkId (coreAt x y) 0 :: pathFrom (x + 1) y x' y' n
    else if x' < x then linkId (coreAt x y) 1 :: pathFrom (x - 1) y x' y' n
    else if y < y' then linkId (coreAt x y) 2 :: pathFrom x (y + 1) x' y' n
    else if y' < y then linkId (coreAt x y) 3 :: pathFrom x (y - 1) x' y' n
    else []
/-- The X-first path between two cores. -/
def meshPath (a b : Nat) : List Nat := pathFrom (coreX a) (coreY a) (coreX b) (coreY b) (hops a b)
/-- Number of a direction of a Neatline link among the link directions that carry slots. -/
def neatlineLink (l : Nat) (outward : Bool) : Nat := 4 * 768 + 2 * l + (if outward then 0 else 1)

/-! ### Flow records (R341, R352) -/

/-- End cores of an edge or flow record: (core, module) of its start and end. -/
def flowSrc (e : BitVec 64) : Nat × Nat := (coreAt (bits e 0 8) (bits e 8 8), bits e 32 8)
def flowDst (e : BitVec 64) : Nat × Nat := (coreAt (bits e 16 8) (bits e 24 8), bits e 40 8)
def flowSlots (e : BitVec 64) : Nat := bits e 48 8
/-- Bytes in range: cores on the mesh, modules 0 to 15, 1 to 64 slots, byte 7 zero. -/
def flowOk (e : BitVec 64) : Bool :=
  bits e 0 8 < 48 && bits e 8 8 < 16 && bits e 16 8 < 48 && bits e 24 8 < 16 && bits e 32 8 < 16 && bits e 40 8 < 16
    && 1 ≤ flowSlots e && flowSlots e ≤ 64 && bits e 56 8 == 0
/-- End points inside the extended mesh. -/
def State.flowReachable (s : State) (e : BitVec 64) : Bool :=
  s.moduleReachable (flowSrc e).2 && s.moduleReachable (flowDst e).2
/-- Start and end module differ. -/
def flowCrosses (e : BitVec 64) : Bool := (flowSrc e).2 != (flowDst e).2
/-- The Neatline link on a shortest way to another module: the first enabled one among several. Log 59, DESIGN CHOICE. -/
def State.linkTo (s : State) (other : Nat) : Option Nat :=
  (s.links.find? fun l => l.2.enabled && l.2.peer.any fun p =>
    ((s.crossings p other).map (· + 1)) == s.crossings s.mod.number other).map Prod.fst
/-- The Neatline link that a flow crosses. -/
def State.flowLink (s : State) (e : BitVec 64) : Option Nat :=
  if flowCrosses e then s.linkTo (if (flowSrc e).2 == s.mod.number then (flowDst e).2 else (flowSrc e).2) else none
/-- Mesh hops from the start of a flow to the Neatline port where it leaves, and from the port where it enters to its end;
within a module all of them are of the first part. Log 59, DESIGN CHOICE. -/
def State.flowHops (s : State) (e : BitVec 64) : Nat × Nat :=
  match s.flowLink e with
  | none => (hops (flowSrc e).1 (flowDst e).1, 0)
  | some l => (hops (flowSrc e).1 (iodRouter (linkIod l) (flowSrc e).1), hops (iodRouter (linkIod l) (flowDst e).1) (flowDst e).1)
/-- The link directions of this module that a flow reserves, each with its place on the path: the X-first path, on a flow
that crosses modules up to the port of the Neatline link or on from it, and that link (R281, R288; log 12). -/
def State.flowLinks (s : State) (e : BitVec 64) : List (Nat × Nat) :=
  let me := s.mod.number
  let src := (flowSrc e).1
  let dst := (flowDst e).1
  let from_ (k : Nat) (path : List Nat) : List (Nat × Nat) := path.zipIdx.map fun x => (x.1, x.2 + k)
  match s.flowLink e with
  | none => if (flowSrc e).2 == me && !flowCrosses e then from_ 0 (meshPath src dst) else []
  | some l =>
    let h := (s.flowHops e).1
    if (flowSrc e).2 == me then from_ 0 (meshPath src (iodRouter (linkIod l) src)) ++ [(neatlineLink l true, h)]
    else if (flowDst e).2 == me then (neatlineLink l false, h) :: from_ (h + 1) (meshPath (iodRouter (linkIod l) dst) dst)
    else []
/-- Fabric cycles from a flit's injection to its performance at the target port (R282). -/
def flitCycles (h : Nat) : Nat := Config.hopCycles * h + Config.portCycles
/-- Fabric cycles that a control message takes, less than the 2h + 8 frames of R280. Log 6, DESIGN CHOICE. -/
def msgCycles (a b : Nat) : Nat := flitCycles (msgHops a b)
/-- Fabric cycles from the injection of a flit of a flow to its performance: its hops in both modules, and the fixed
traversal of every Neatline link on its way (R285, R288). Log 59, DESIGN CHOICE. -/
def State.flowCycles (s : State) (e : BitVec 64) : Nat :=
  let h := s.flowHops e
  flitCycles (h.1 + h.2) + ((s.crossings (flowSrc e).2 (flowDst e).2).getD 0) * Config.neatlineCycles
/-- Reserved path latency in ticks, rounded up, with every crossing (R282, R288). -/
def State.flowLatency (s : State) (e : BitVec 64) : Nat :=
  let h := s.flowHops e
  ((64 + flitCycles (h.1 + h.2)) * 400 + 46) / 47 + ((s.crossings (flowSrc e).2 (flowDst e).2).getD 0) * Config.neatlineTicks

/-! ### Slots (R279, R281, R399) -/

/-- The slot that every link of the module shows in a fabric cycle (R279). -/
def slotAt (cycle : Nat) : Nat := cycle % 64
/-- The slot in which a flit leaves the k-th router after the one where it was injected (R279). -/
def slotAfter (inj k : Nat) : Nat := (inj + 4 * k) % 64
/-- A slot of a link may be taken: no control slot, not reserved, and carried by a narrowed link. -/
def State.slotFree (s : State) (taken : List Slot) (link slot : Nat) : Bool :=
  slot < 60 && !(s.narrow.contains link && 32 ≤ slot) && !(taken.any fun x => x.link == link && x.slot == slot)
/-- The slots that an injection slot takes along a path. -/
def slotsFrom (inj : Nat) (path : List (Nat × Nat)) : List (Nat × Nat) := path.map fun x => (x.1, slotAfter inj x.2)
/-- Whose slots: of a task or of a collective's tree, and the flow among its flows. -/
structure SlotOwner where
  owner : Nat
  coll : Option (Nat × Nat)
  flow : Nat
deriving DecidableEq, Repr
/-- One slot of a flow: the lowest injection slot that is free along the whole path. -/
def State.takeSlot (s : State) (taken : List Slot) (o : SlotOwner) (path : List (Nat × Nat)) : Option (List Slot) :=
  match (List.range 64).find? fun i => (slotsFrom i path).all fun x => s.slotFree taken x.1 x.2 with
  | some i => some (taken ++ path.map fun x =>
      { owner := o.owner, coll := o.coll, flow := o.flow, inj := x.2 == 0, link := x.1, slot := slotAfter i x.2 })
  | none => none
/-- Every slot of a flow, one after another. -/
def State.takeFlow (s : State) (o : SlotOwner) (path : List (Nat × Nat)) : Nat → List Slot → Option (List Slot)
  | 0, taken => some taken
  | n + 1, taken =>
    match s.takeSlot taken o path with
    | some t => s.takeFlow o path n t
    | none => none
/-- Every flow of a list, or none of them. -/
def State.takeFlows (s : State) (o : SlotOwner) : List (BitVec 64) → List Slot → Option (List Slot)
  | [], taken => some taken
  | e :: es, taken =>
    match s.takeFlow o (s.flowLinks e) (flowSlots e) taken with
    | some t => s.takeFlows { o with flow := o.flow + 1 } es t
    | none => none
/-- The flows of a task under its number. -/
def State.takeTaskFlows (s : State) (res : Nat) (flows : List (BitVec 64)) (taken : List Slot) : Option (List Slot) :=
  s.takeFlows { owner := res, coll := none, flow := 0 } flows taken
/-- The flows of several tasks, each under its own number. -/
def State.takeTasks (s : State) (flows : List (BitVec 64)) : List Nat → List Slot → Option (List Slot)
  | [], taken => some taken
  | o :: os, taken =>
    match s.takeTaskFlows o flows taken with
    | some t => s.takeTasks flows os t
    | none => none

/-- The least Λ that a launch accepts (R278). -/
def State.leastLambda (s : State) (flows : List (BitVec 64)) (crossing : Bool) : Nat :=
  2 * (if crossing then 640 else 64) + flows.foldl (fun m e => max m (s.flowLatency e)) 0

/-! ### Flits of a task's flows (R284, R285) -/

/-- The flow that a context's traffic uses to a core: the first declared one that starts at the issuing core and ends
there. Everything else is best-effort (R284). -/
def State.flowTo (s : State) (r : CtxRef) (module core : Nat) : Option (Nat × BitVec 64) :=
  (((s.ctx r).task.map Task.flows).getD []).zipIdx.find? (fun x =>
    flowSrc x.1 == (r.core, s.mod.number) && flowDst x.1 == (core, module)) |>.map fun x => (x.2, x.1)
/-- The injection slots that a task's flow holds. -/
def State.injections (s : State) (r : CtxRef) (i : Nat) : List Nat :=
  match (s.ctx r).task with
  | none => []
  | some t => (s.reserved.filter fun x => x.coll.isNone && x.owner == t.res && x.flow == i && x.inj).map Slot.slot
/-- The first fabric cycle from one on that shows one of some slots. -/
def slotFrom (slots : List Nat) (first : Nat) : Nat :=
  if slots.isEmpty then first else (((List.range 64).map (first + ·)).find? fun f => slots.contains (slotAt f)).getD first
/-- The fabric cycle that some flits of a flow, sent from a cycle on, leave free. -/
def flitsFrom (slots : List Nat) : Nat → Nat → Nat
  | 0, f => f
  | n + 1, f => flitsFrom slots n (slotFrom slots f + 1)
/-- The fabric cycle in which the next flit of a flow is injected: the first that shows one of its slots, after its last
flit (R279, R281). A flow that crosses no link waits for no slot. -/
def State.flitAt (s : State) (r : CtxRef) (i : Nat) : Nat :=
  slotFrom (s.injections r i) (max s.fabric (Sparse.get 0 (s.ctx r).flowAt i))
/-- Fabric cycles by which the arbiter delays the best-effort traffic that a core sends (R398). Log 13, DESIGN CHOICE. -/
def State.meshDelay (s : State) (core : Nat) : Nat := if (s.die (dieOf core)).slow then Config.admitDelay s.freeCtr else 0
/-- A delay of best-effort traffic has been drawn from the free values. -/
def State.admitted (s : State) (core : Nat) : State :=
  if (s.die (dieOf core)).slow then { s with freeCtr := s.freeCtr + 1 } else s
/-- Instant at which a write of a context reaches a core, and the flow that carries it with the cycle it leaves free: on a
flow, fixed by the injection slot and the path (R285); else the earliest instant (log 6, DESIGN CHOICE), later where the
arbiter delays best-effort traffic. -/
def State.flitReady (s : State) (r : CtxRef) (module core : Nat) : Nat × Option (Nat × Nat) :=
  match s.flowTo r module core with
  | some (i, e) =>
    let f := s.flitAt r i
    ((f + s.flowCycles e) * Config.fabricPeriod, some (i, f + 1))
  | none => (s.after (flitCycles (if module == s.mod.number then hops r.core core else 0) + s.meshDelay r.core), none)
/-- A flow's next flit comes after the one sent. -/
def Ctx.sendFlit (c : Ctx) : Option (Nat × Nat) → Ctx
  | none => c
  | some (i, f) => { c with flowAt := Sparse.set 0 c.flowAt i f }

end Sys2Proof.Machine
end

