-- ==== Sys2Proof/Machine/Relief.lean ====
section
/-! DEFINITION. Relief blocks: encoding and expansion (R257 to R259), dictionaries (R260), and reads and writes that
respect a block's state (R261, R262). -/
namespace Sys2Proof.Machine

/-- A place in memory: local to a core, or physical. -/
inductive Loc
  | loc (core a : Nat)
  | phys (pa : Nat)
deriving DecidableEq, Repr

def Loc.add : Loc → Nat → Loc
  | .loc c a, n => .loc c (a + n)
  | .phys p, n => .phys (p + n)
def Loc.off : Loc → Nat
  | .loc _ a => a
  | .phys p => p

/-- Relief state of the block that holds a place: 0 RAW, 1 ENCODED, 2 SEALED-RAW, 3 SEALED-ENCODED (R256). -/
def State.reliefAt (s : State) : Loc → Nat
  | .loc core a => s.localRelief core a
  | .phys pa => Sparse.get 0 s.relief (pa / 4096)
def State.setReliefAt (s : State) (l : Loc) (st : Nat) : State :=
  match l with
  | .loc core a => s.setLocalRelief core a st
  | .phys pa => { s with relief := Sparse.set 0 s.relief (pa / 4096) st }
def State.readAt (s : State) (l : Loc) (n : Nat) : List Byte :=
  match l with
  | .loc core a => s.localRead core a n
  | .phys pa => s.mem.bytes pa n
def State.storeAt (s : State) (l : Loc) (bs : List Byte) : State :=
  match l with
  | .loc core a => s.localStore core a (allBytes bs.length) bs
  | .phys pa => { s with mem := s.mem.store pa bs }

/-! ### Lines (R258, R259) -/

/-- The sixteen 32-bit words of 64 bytes. -/
def lineWords (bs : List Byte) : List Nat := (List.range 16).map fun k => fieldAt bs (4 * k) 4

/-- A difference modulo 2^32 as a signed value. -/
def diff32 (a b : Nat) : Int := sextInt 32 ((a + 2 ^ 32 - b) % 2 ^ 32)

/-- The lowest dictionary index for which every word lies within −8 to 7 of it (R259). -/
def dictIndex (d : DictSlot) (ws : List Nat) : Option Nat :=
  (List.range 16).find? fun i => ws.all fun w =>
    let x := diff32 w (d.vals.getD i 0).toNat
    decide (-8 ≤ x) && decide (x ≤ 7)

/-- Mode and payload of a line (R259). The difference of mode 2 is taken modulo 2^32, as that of mode 1 is. Log 72, DESIGN
CHOICE. -/
def encodeLine (d : DictSlot) (bs : List Byte) : Nat × List Byte :=
  let ws := lineWords bs
  if ws.all (· == 0) then (0, [])
  else match dictIndex d ws with
    | some i =>
      let base := (d.vals.getD i 0).toNat
      let nib (k : Nat) : Nat := (ws.getD k 0 + 2 ^ 32 - base) % 16
      (1, BitVec.ofNat 8 i :: (List.range 8).map fun j => BitVec.ofNat 8 (nib (2 * j) + 16 * nib (2 * j + 1)))
    | none =>
      let b := ws.getD 0 0
      if ws.all (fun w => decide (-128 ≤ diff32 w b) && decide (diff32 w b ≤ 127)) then
        (2, natBytes 4 b ++ ws.map fun w => BitVec.ofNat 8 ((w + 2 ^ 32 - b) % 256))
      else (3, bs)

/-- The 64 bytes of a line from its mode and payload (R258). -/
def expandLine (d : DictSlot) (mode : Nat) (pay : List Byte) : List Byte :=
  if mode == 0 then List.replicate 64 0
  else if mode == 1 then
    let base := (d.vals.getD (byteAt pay 0 % 16) 0).toNat
    (List.range 16).flatMap fun k =>
      let nib := byteAt pay (1 + k / 2) / (if k % 2 == 0 then 1 else 16) % 16
      natBytes 4 (wrapNat 32 ((base : Int) + sextInt 4 nib))
  else if mode == 2 then
    let base := fieldAt pay 0 4
    (List.range 16).flatMap fun k => natBytes 4 (wrapNat 32 ((base : Int) + sextInt 8 (byteAt pay (4 + k))))
  else pay.take 64

/-- Payload bytes of a mode. -/
def modeLen (mode : Nat) : Nat := [0, 9, 20, 64].getD mode 64

/-! ### Blocks (R257) -/

/-- The defined bytes of an encoded block with its sector count, or none when the block stays raw (R259). -/
def encodeBlock (d : DictSlot) (slot : Nat) (bs : List Byte) : Option (Nat × List Byte) :=
  let lines := (List.range 64).map fun l => encodeLine d ((bs.drop (64 * l)).take 64)
  let pay := lines.flatMap Prod.snd
  let total := 48 + pay.length
  if 3840 < total then none
  else
    let nsec := (total + 255) / 256
    let map := (List.range 16).map fun j =>
      BitVec.ofNat 8 ((List.range 4).foldl (fun a i => a + ((lines.getD (4 * j + i) (0, [])).1) * 4 ^ i) 0)
    let head := [1, BitVec.ofNat 8 slot] ++ natBytes 2 d.gen ++ [BitVec.ofNat 8 nsec] ++ List.replicate 27 0
    some (nsec, head ++ map ++ pay ++ List.replicate (256 * nsec - total) 0)

/-- Lines expanded in order from the payload. -/
def expandLines (d : DictSlot) (mapBytes pay : List Byte) : Nat → Nat → List Byte
  | 0, _ => []
  | k + 1, l =>
    let mode := byteAt mapBytes (l / 4) / 4 ^ (l % 4) % 4
    expandLine d mode pay ++ expandLines d mapBytes (pay.drop (modeLen mode)) k (l + 1)

/-- Expansion of a stored block with a dictionary table; none when its generation differs from its slot's
(RDICT, R260). -/
def expandBlock (table : Sparse DictSlot) (bs : List Byte) : Option (List Byte) :=
  let d := Sparse.get DictSlot.reset table (byteAt bs 1 % 4)
  if d.gen == fieldAt bs 2 2 then some (expandLines d ((bs.drop 32).take 16) (bs.drop 48) 64 0) else none

/-- Undefined bytes as fresh free values (R257, log 11). -/
def State.freeBytes (s : State) (n : Nat) : List Byte × State :=
  ((List.range n).map fun k => Config.freeByte (s.freeCtr + k), { s with freeCtr := s.freeCtr + n })

/-- The dictionary table of the engine where a block lives (R262). R260 gives tables to cores and near-memory complexes alone:
for a block of a cluster window the model takes the writing core's. Log 30, DEDUCED. -/
def State.tableAt (s : State) (l : Loc) : Sparse DictSlot :=
  match l with
  | .loc core _ => (s.core core).dict
  | .phys pa =>
    match homeOf pa with
    | .hbm h => (s.stack h).dict
    | _ => []

/-- The place of the block that holds a place. -/
def Loc.block : Loc → Loc
  | .loc c a => .loc c (a / 4096 * 4096)
  | .phys p => .phys (p / 4096 * 4096)

/-- A block stored encoded: its stored sectors, then undefined bytes, with its state. -/
def State.putEncoded (s : State) (l : Loc) (stored : List Byte) (st : Nat) : State :=
  let f := s.freeBytes (4096 - stored.length)
  (f.2.storeAt l (stored ++ f.1)).setReliefAt l st

/-- A whole raw block written: it becomes RAW (R261). -/
def State.putRaw (s : State) (l : Loc) (bs : List Byte) : State := (s.storeAt l bs).setReliefAt l 0

/-- Bytes inside one 4 KiB block read raw, expanded with a table when the block is encoded; none on RDICT. -/
def State.readData (s : State) (table : Sparse DictSlot) (l : Loc) (n : Nat) : Option (List Byte) :=
  let st := s.reliefAt l
  if st == 1 || st == 3 then
    match expandBlock table (s.readAt l.block 4096) with
    | some bs => some ((bs.drop (l.off % 4096)).take n)
    | none => none
  else some (s.readAt l n)

/-- A write inside one 4 KiB block: a SEALED block refuses it, a full write lands RAW, and a partial write demotes an
ENCODED block first, in one step (R262). Log 46, DEDUCED. -/
def State.writeData (s : State) (l : Loc) (bs : List Byte) : Except StopCause State :=
  let st := s.reliefAt l
  if st == 2 || st == 3 then .error .accf
  else if st == 1 then
    if bs.length == 4096 then .ok (s.putRaw l bs)
    else match expandBlock (s.tableAt l) (s.readAt l.block 4096) with
      | none => .error .rdict
      | some old => .ok (s.putRaw l.block (patchBytes old (l.off % 4096) bs))
  else .ok (s.storeAt l bs)

/-! ### Writes by the module's own units and by hosts -/

/-- Bytes written to device memory piece by piece; a SEALED block, or an encoded one that cannot be expanded, takes none
(R262). Log 46, DEDUCED. -/
def State.hostStore (s : State) (bs : List Byte) : List (Nat × Nat) → State
  | [] => s
  | (a, n) :: ps =>
    let s := match s.writeData (.phys a) (bs.take n) with
      | .ok t => t
      | .error _ => s
    s.hostStore (bs.drop n) ps
/-- Bytes that the module writes at a physical address: its host memory takes them as a device write of a command or of none
where a firewall window of the port lets them through (R392, R396), another module's by a Neatline link (log 12, DESIGN
CHOICE); a block of device memory that is encoded is demoted (R262). -/
def State.deviceStore (s : State) (pa : Nat) (bs : List Byte) (cmd : Option Nat) : State :=
  match homeOf pa with
  | .host p =>
    let q := s.port p
    if paModule pa != s.mod.number then { s with mem := s.mem.store pa bs }
    else if q.allows pa bs.length then
      s.setPort p { q with writes := q.writes ++ [{ pa := pa, bytes := bs, event := false, cmd := cmd }] }
    else s
  | _ => s.hostStore bs (splitRange pa bs.length)
/-- A device write to some bytes of host memory awaits its completion (R392). -/
def State.hostPending (s : State) (pa n : Nat) : Bool :=
  s.ports.any fun p => p.2.writes.any fun w => w.pa < pa + n && pa < w.pa + w.bytes.length
/-- The module may write some bytes at a physical address: those of host memory lie in a firewall window (R396). -/
def State.mayStore (s : State) (pa n : Nat) : Bool :=
  match homeOf pa with
  | .host p => paModule pa != s.mod.number || (s.port p).allows pa n
  | _ => true
/-- Writing of at most 8 aligned bytes at a virtual address by a scheduler or unit. -/
def State.writeSmall (s : State) (w : Walker) (tenant va : Nat) (bs : List Byte) : Except Nat Unit × State :=
  match s.translate w tenant va bs.length true with
  | (.error e, s) => (.error e, s)
  | (.ok t, s) => (.ok (), s.deviceStore t.pa bs none)

end Sys2Proof.Machine
end

