-- ==== Sys2Proof/Machine/Events.lean ====
section
/-! DEFINITION. Events of the host ports (R391), control messages and releases (R280, R301), cancellation and
completion of nodes (R347), and the release of a task's resources (R118, R166, R215, R358). -/
namespace Sys2Proof.Machine

/-! ### Event records (R391) -/

def Status.code : Status → Nat
  | .done => 0
  | .killed => 1
  | .refused => 2
  | .trapped => 3
  | .faulted => 4

/-- Kinds of event. -/
def evCompletion : Nat := 1
def evSuspension : Nat := 2
def evLink : Nat := 3
def evSync : Nat := 4
def evMeridian : Nat := 5
def evGraph : Nat := 6
def evOverflow : Nat := 7
def evCfgref : Nat := 8
def evPower : Nat := 9
def evRestore : Nat := 10
/-- Source kinds. -/
def srcScheduler : Nat := 0
def srcPort : Nat := 1
def srcMeridian : Nat := 2
def srcPower : Nat := 3
def srcCore : Nat := 4

/-- The die whose counter stamps a source's events. -/
def srcDie (src num : Nat) : Nat :=
  if src == srcScheduler then iodDie num
  else if src == srcPort then iodDie (portIod num)
  else if src == srcCore then dieOf num
  else iodDie 0

/-- A 64-byte event record. -/
def eventBytes (seq stamp src kind status code : Nat) (args : List Nat) : List Byte :=
  natBytes 8 seq ++ natBytes 8 stamp ++ natBytes 2 src ++ natBytes 1 kind ++ natBytes 1 status ++ natBytes 4 code
    ++ (List.range 4).flatMap (fun k => natBytes 8 (args.getD k 0)) ++ List.replicate 8 0

/-- Event records of a port that await their host completion. -/
def Port.flying (p : Port) : Nat := (p.writes.filter (·.event)).length
/-- Physical address of the ring's next record in the host memory of port n. -/
def Port.slotPa (p : Port) (mod n : Nat) : Nat :=
  mod * 2 ^ 48 + hostBase n + (p.ebase.toNat + 64 * ((p.ehead.toNat + p.flying) % p.esize.toNat)) % 2 ^ 42
/-- Space in the ring for one more record, which the firewall lets the port write. Log 14, DESIGN CHOICE. -/
def Port.hasSpace (p : Port) (n : Nat) : Bool :=
  p.ehead.toNat + p.flying - p.etail.toNat < p.esize.toNat && p.allows (p.slotPa 0 n) 64

/-- A record written at the ring's head: a device write to host memory (R391, R392). Log 21, DEDUCED. -/
def Port.ringWrite (p : Port) (mod n : Nat) (r0 : List Byte) : Port :=
  { p with writes := p.writes ++ [{ pa := p.slotPa mod n, bytes := r0, event := true, cmd := none }] }

/-- A record delivered to a port: into the ring, else held, else discarded (R391). -/
def Port.deliver (p : Port) (mod n : Nat) (r0 : List Byte) : Port :=
  if p.held.isEmpty && p.hasSpace n then p.ringWrite mod n r0
  else if p.held.length < 64 then { p with held := p.held ++ [r0] }
  else { p with discarded := p.discarded + 1 }

/-- Held records go out while the ring has space; the fuel is their number. -/
def Port.flush (p : Port) (mod n : Nat) : Nat → Port
  | 0 => p
  | k + 1 =>
    match p.held with
    | [] => p
    | r :: rs => if p.hasSpace n then Port.flush ({ p with held := rs }.ringWrite mod n r) mod n k else p

/-- The record of an event of a source, as its next. -/
def State.eventOf (s : State) (src num kind status code : Nat) (args : List Nat) : List Byte :=
  let key := src * 4096 + num
  eventBytes (Sparse.get 0 s.seqs key) (s.dieTime (srcDie src num)) key kind status code args
/-- An event of a source, to one port or to both. -/
def State.emit (s : State) (src num kind status code : Nat) (args : List Nat) (port : Option Nat) : State :=
  let key := src * 4096 + num
  let r0 := s.eventOf src num kind status code args
  let s := { s with seqs := Sparse.set 0 s.seqs key (Sparse.get 0 s.seqs key + 1) }
  let give (s : State) (p : Nat) : State := s.setPort p ((s.port p).deliver s.mod.number p r0)
  match port with
  | some p => give s p
  | none => give (give s 0) 1

/-- BUSY of a request register falls (R390). -/
def State.clearBusy (s : State) (off : Nat) : State := s.setBlockReg off (s.blockReg off &&& ~~~0x20#64)
/-- A record is on its way to a ring. -/
def State.eventFlies (s : State) (r0 : List Byte) : Bool :=
  s.ports.any fun p => p.2.held.contains r0 || p.2.writes.any fun w => w.event && w.bytes == r0
/-- The event that answers a request of the module block, to both ports: BUSY of the register falls when the first of
them has written it, at once where both have discarded it (R390). Log 39, DEDUCED. -/
def State.emitFor (s : State) (off src num kind status code : Nat) (args : List Nat) : State :=
  let r0 := s.eventOf src num kind status code args
  let s := s.emit src num kind status code args none
  if s.eventFlies r0 then { s with mod := { s.mod with busyUntil := s.mod.busyUntil ++ [(off, r0)] } } else s.clearBusy off
/-- Address of the record of a node. -/
def State.nodeAddr (s : State) (node : Nat) : Nat := ((s.nodes.find? (·.id == node)).map Node.addr).getD 0
/-- A suspension event, the answer to SUSCTL where a host asked for the suspension (R378, R390). -/
def State.suspensionEvent (s : State) (iod status : Nat) (asked : Bool) (args : List Nat) : State :=
  if asked then s.emitFor 0x308 srcScheduler iod evSuspension status 0 args
  else s.emit srcScheduler iod evSuspension status 0 args none

/-- A sync-protocol event of a core (R227, R230, R262). -/
def State.syncEvent (s : State) (core word : Nat) : State :=
  s.emit srcCore core evSync 0 0 [core, word] none

/-! ### Control messages (R280) and releases (R300, R301) -/

/-- Messages of a source on their way. -/
def State.outstanding (s : State) (src : Nat) : Nat := (s.msgs.filter fun m => m.src == src && m.sent).length
/-- A message is sent; a source with four outstanding holds it (R280). Log 6, DESIGN CHOICE. -/
def State.sendMsg (s : State) (src dst : Nat) (m : Msg) : State :=
  let (id, s) := s.fresh
  let delay := msgCycles src dst
  { s with msgs := s.msgs ++
      [{ id := id, src := src, dst := dst, sent := decide (s.outstanding src < 4), delay := delay, ready := s.after delay
         msg := m }] }
/-- A message is delivered, and its source sends the oldest that it holds (R280). -/
def State.takeMsg (s : State) (m : Message) : State :=
  let s := { s with msgs := s.msgs.filter (·.id != m.id) }
  match s.msgs.find? fun x => x.src == m.src && !x.sent with
  | none => s
  | some h => { s with msgs := s.msgs.map fun x =>
      if x.id == h.id then { x with sent := true, ready := s.after x.delay } else x }

/-- A message may arrive: its time has come, and no earlier one of its source to its destination is in flight. -/
def State.messageReady (s : State) (m : Message) : Bool :=
  m.sent && m.ready ≤ s.now && !(s.msgs.any fun x => x.id < m.id && x.src == m.src && x.dst == m.dst)
/-- The message that carries something, while it is on its way. -/
def State.carrierOf (s : State) (m : Msg) : Option Message := s.msgs.find? (·.msg == m)
/-- Its message has come, and may be taken. -/
def State.arrives (s : State) (m : Msg) : Bool := (s.carrierOf m).any s.messageReady
/-- The message that carries something is taken, where there is one. -/
def State.takeCarrier (s : State) (m : Msg) : State := (s.carrierOf m).elim s s.takeMsg
/-- Some messages leave the mesh undelivered, with what they carried. -/
def State.dropMsgs (s : State) (gone : Message → Bool) : State := (s.msgs.filter gone).foldl State.takeMsg s

/-- A sync reference within its ranges (R300). -/
def refOk (s : State) (ref : Nat) : Bool :=
  ref / 2 ^ 9 % 2 ^ 7 == 0 && ref / 2 ^ 16 % 64 < 48 && ref / 2 ^ 22 % 4 == 0 && ref / 2 ^ 24 % 16 < 16
    && ref / 2 ^ 32 == 0 && s.moduleReachable (ref / 2 ^ 28 % 16)
def refIdx (ref : Nat) : Nat := ref % 512
def refCore (ref : Nat) : Nat := coreAt (ref / 2 ^ 16 % 64) (ref / 2 ^ 24 % 16)
def refModule (ref : Nat) : Nat := ref / 2 ^ 28 % 16
/-- The named word is one of this module's cores. -/
def State.refLocal (s : State) (ref : Nat) : Bool := refModule ref == s.mod.number

/-- A release sent to the word that a reference names; one of another module leaves the model (log 12, DESIGN CHOICE). -/
def State.sendRelease (s : State) (src ref : Nat) (relt : Option Nat) (lambda : Nat) (cmd : Option Nat) : State :=
  if s.refLocal ref then s.sendMsg src (refCore ref) (.release ref relt lambda cmd)
  else match cmd.bind s.findCmd with
    | some c => s.setCmd { c with released := true }
    | none => s

/-- A completion arrival with release at a word of a core, with a sync-protocol event where a version word stands at
its greatest value (R230). -/
def State.completeArrival (s : State) (core idx : Nat) : State :=
  let w := (s.core core).syncWord idx
  let s := s.modCore core fun k => k.setSync idx (swComplete w)
  if swKind w == 2 && swVersion w == 2 ^ 48 - 1 then s.syncEvent core idx else s

/-! ### Completion of a node (R347) -/

def Node.iodWalker (n : Node) : Walker := .die (iodDie n.iod)

/-- The node whose record lies at a physical address becomes ready, whoever posted it. -/
def State.readyNode (s : State) (pa : Nat) : State :=
  let (id, s) := s.fresh
  { s with nodes := s.nodes.map fun m => if m.pa == pa && m.ready.isNone then { m with ready := some id } else m }
/-- Bytes of memory as a device that has written some of them to a host reads them back: its own writes come first. -/
def State.readBack (s : State) (pa n : Nat) : List Byte :=
  let held := s.ports.foldl (fun m p => p.2.writes.foldl (fun m w => m.store w.pa w.bytes) m) s.mem
  held.bytes pa n
/-- One successor: DEPCNT falls by one; at 0 a posted node becomes ready. A fault, or DEPCNT 0, gives a graph error
event and goes on. -/
def State.successor (s : State) (n : Node) (va : Nat) : State :=
  let err (s : State) : State := s.emit srcScheduler n.iod evGraph 0 0 [n.addr, va] none
  match s.translate n.iodWalker n.tenant va 8 false with
  | (.error _, s) => err s
  | (.ok t, s) =>
    let bs := s.readBack t.pa 8
    let dep := fieldAt bs 4 4
    if dep == 0 then err s
    else match s.writeSmall n.iodWalker n.tenant (va + 4) (natBytes 4 (dep - 1)) with
      | (.error _, s) => err s
      | (.ok _, s) => if dep == 1 && byteAt bs 3 % 2 == 1 then s.readyNode t.pa else s

/-- Every successor in list order. Where the list's entry cannot be read no successor is known, and ARG1 of the graph error
event holds the entry's own address. Log 67, DESIGN CHOICE. -/
def State.successors (s : State) (n : Node) : Nat → Nat → State
  | 0, _ => s
  | k + 1, i =>
    let va := fieldAt n.record 16 8 + 8 * i
    match s.readGlobal n.iodWalker n.tenant va 8 with
    | (.error _, s) => State.successors (s.emit srcScheduler n.iod evGraph 0 0 [n.addr, va] none) n k (i + 1)
    | (.ok bs, s) => State.successors (s.successor n (leNat bs)) n k (i + 1)

/-- COMPLETE set in NSTATE; a fault leaves it unwritten. -/
def State.markNode (s : State) (n : Node) (bit : Nat) : State :=
  match s.readGlobal n.iodWalker n.tenant (n.addr + 3) 1 with
  | (.error _, s) => s
  | (.ok bs, s) => (s.writeSmall n.iodWalker n.tenant (n.addr + 3) [BitVec.ofNat 8 (byteAt bs 0 ||| 2 ^ bit)]).2

/-- NODE_COMPLETE: successors and DONEREF for DONE, COMPLETE, and the completion event. -/
def State.completeNode (s : State) (n : Node) (st : Status) (code : Nat) (args : List Nat) : State :=
  let s := s.markNode n 2
  let s := if st = .done then s.successors n (fieldAt n.record 8 4) 0 else s
  let ref := fieldAt n.record 32 8
  let s := if st = .done && ref != 0 then s.sendRelease (iodSrc n.iod) ref none 0 none else s
  let s := { s with nodes := s.nodes.filter (·.id != n.id) }
  s.emit srcScheduler n.iod evCompletion st.code code (n.addr :: args) n.port

/-! ### Losing resources (R166, R185, R215) -/

/-- The instant some core cycles from now. The clearing of a tile takes 128, that of a slot 16 and the zeroing of a
region 1,024 (log 19). -/
def State.cyclesOn (s : State) (core n : Nat) : Nat := s.now + n * Config.corePeriod (s.die (dieOf core)).step
/-- Log 19, DESIGN CHOICE. -/
def clearCycles (tile : Bool) : Nat := if tile then 128 else 16
/-- Log 19, DESIGN CHOICE. -/
def zeroCycles : Nat := 1024
/-- A tile or slot loses its owner and is cleared. -/
def State.lost (s : State) (core : Nat) (tile : Bool) : Own :=
  { owner := none, clearing := true, ends := s.cyclesOn core (clearCycles tile), release := none }

/-- REGION_HANDOVER: a region of the core passes to its next owner, zeroed first for another tenant, or becomes
unowned. A zeroing that runs goes on. -/
def State.handOver (s : State) (core n tenant : Nat) : State :=
  let k := s.core core
  let r := k.region n
  match r.next with
  | some c =>
    let t := s.tenantOf ⟨core, c⟩
    let r := if t != tenant then { r with zeroing := true, ends := s.cyclesOn core zeroCycles } else r
    s.setCore core (k.setRegion n { r with owner := some c, next := none, lastTenant := some tenant })
  | none => s.setCore core (k.setRegion n { r with owner := none, next := none, lastTenant := some tenant })

/-- Every region that a context owns is handed on, and its own designations end. -/
def State.loseRegions (s : State) (r : CtxRef) : State :=
  let tenant := s.tenantOf r
  (List.range 16).foldl (fun s n =>
    let g := (s.core r.core).region n
    if g.owner == some r.ctx then s.handOver r.core n tenant
    else if g.next == some r.ctx then s.modCore r.core fun k => k.setRegion n { g with next := none }
    else s) s

/-- Every tile and slot that a context owns loses its owner. -/
def Core.loseUnits (k : Core) (ctx : Nat) (tile slot : Own) : Core :=
  let k := (List.range 8).foldl (fun k t => if (k.tileOwner t).owner == some ctx then k.setTileOwner t tile else k) k
  (List.range 64).foldl (fun k t => if (k.slotOwner t).owner == some ctx then k.setSlotOwner t slot else k) k

/-- A context whose task has left it: its registers keep their values until a launch or a restore writes them, and nothing
of the task's work, allotment and waiting remains. Log 58, DEDUCED. -/
def Ctx.vacant (c : Ctx) : Ctx :=
  { Ctx.reset with
    bank := c.bank, sbank := c.sbank, shadow := c.shadow, v := c.v, m := c.m, q := c.q, pc := c.pc, hpc := c.hpc
    ccyc := c.ccyc, pmcnt := c.pmcnt, hcyc := c.hcyc, kcyc := c.kcyc, pmbound := c.pmbound, pend := c.pend
    sticky := c.sticky, epc := c.epc, tcause := c.tcause, taddr := c.taddr, saeErr := c.saeErr, saeCause := c.saeCause
    saeAddr := c.saeAddr, kipend := c.kipend, kihand := c.kihand, mlambda := c.mlambda, mdlinfo := c.mdlinfo
    tinva := c.tinva, tinvc := c.tinvc, pltask := c.pltask, testim := c.testim }
/-- The context becomes free: tiles, slots, regions, shares, windows and flows are given back. -/
def State.freeContext (s : State) (r : CtxRef) : State :=
  let s := s.loseRegions r
  let s := s.modCore r.core fun k => k.loseUnits r.ctx (s.lost r.core true) (s.lost r.core false)
  let s := match (s.ctx r).task with
    | some t => { s with reserved := s.reserved.filter fun x => !(x.coll.isNone && x.owner == t.res) }
    | none => s
  s.modCtx r Ctx.vacant

/-! ### Collectives: cancelling for a kill or a party that leaves (R341 to R344) -/

/-- Cancelled before forming: its entry stays until the joins still to be met have been made (R343). -/
def Collective.dead (c : Collective) : Bool := c.cancel && !c.formed
/-- Formed, cancelled and received by every party. -/
def Collective.over (c : Collective) : Bool := c.formed && c.cancel && c.parties.all (·.cancelled)
/-- A collective waits to form or is in progress. -/
def Collective.live (c : Collective) : Bool := !c.dead && !c.over
/-- Joins made, a party of role both counting twice. -/
def Collective.joins (c : Collective) : Nat := (c.parties.map fun p => p.prod.toNat + p.cons.toNat).sum

/-- Every plane has landed at a consumer. Log 40, DEDUCED. -/
def Collective.landedAll (c : Collective) (p : Party) : Bool :=
  !p.cons || (List.range (collTiles c.block)).all fun t => Sparse.get 0 p.landed t == collWidth c.block
/-- The last plane has landed everywhere: a cancel has no effect any more (R343). -/
def Collective.landedOut (c : Collective) : Bool := c.parties.all c.landedAll
/-- A cancel of the collective would have no effect: its last plane has landed everywhere, and no earlier cancel has reached
a party (R343). Log 40, DEDUCED. -/
def Collective.beyondCancel (c : Collective) : Bool := c.formed && c.landedOut && !c.parties.any (·.cancelled)
/-- Every plane of a party has been sent. Log 40, DEDUCED. -/
def Collective.sentAll (c : Collective) (p : Party) : Bool :=
  !p.prod || (List.range (collTilesEach c.block)).all fun t => Sparse.get 0 p.sent t == collWidth c.block
/-- A consumer's command owes an arrival at its precision word: MINPL has increased (R337). -/
def Cmd.owesArrival (k : Cmd) : Bool := k.aux == 1
/-- A party has sent and landed every plane and made every arrival, or has left. -/
def State.partyDone (s : State) (c : Collective) (p : Party) : Bool :=
  p.killed || (c.sentAll p && c.landedAll p && !((s.findCmd p.cmd).any Cmd.owesArrival))
/-- A party's task is the one loaded on its context. -/
def State.partyHere (s : State) (p : Party) : Bool := (s.ctx ⟨p.core, p.ctx⟩).task.any (·.res == p.task)
/-- CANC set in a consumer's precision table. -/
def State.markCanc (s : State) (p : Party) : State :=
  if p.cons && s.partyHere p then
    let l : Loc := .loc p.core (p.table + 1)
    match s.writeData l [BitVec.ofNat 8 (byteAt (s.readAt l 1) 0 ||| 1)] with
    | .ok s => s
    | .error _ => s
  else s
/-- A party's command has nothing left to do, whether it runs or has stopped (R342). -/
def State.finishParty (s : State) (p : Party) : State :=
  match s.findCmd p.cmd with
  | some k => s.setCmd { k with state := .finished }
  | none => s
/-- The tree of a collective is given back with its slots (R341). -/
def State.releaseTree (s : State) (c : Collective) : State :=
  let collid := fieldAt c.block 8 4
  { s with
    trees := s.trees.filter fun t => !(t.tenant == c.tenant && t.collid == collid)
    reserved := s.reserved.filter (·.coll != some (collid, c.tenant)) }
/-- A collective that has not formed is cancelled: its tree is given back, every joined command but those of the parties
named completes with CANC set, and the entry waits for the joins still to be met (R341, R343). The parties named leave
it. Log 41, DEDUCED. -/
def State.cancelUnformed (s : State) (id : Nat) (spare : List Nat) : State :=
  match s.colls.find? (·.id == id) with
  | none => s
  | some c =>
    let s := c.parties.foldl (fun s p => if spare.contains p.cmd then s else (s.markCanc p).finishParty p) s
    let d := { c with
      cancel := true, ghost := fieldAt c.block 12 2 + fieldAt c.block 14 2 - c.joins
      parties := c.parties.filter fun p => !spare.contains p.cmd }
    { s.releaseTree c with colls := s.colls.map fun e => if e.id == id then d else e }

/-- A formed collective is cancelled because of some parties, which take no further part in it. -/
def Collective.cancelBy (c : Collective) (out : Party → Bool) : Collective :=
  { c with cancel := true, parties := c.parties.map fun p => if out p then { p with killed := true, cancelled := true } else p }

/-- The cancel of a formed collective travels from a core to the parties that it has not reached (R342). -/
def State.spreadCancel (s : State) (src id : Nat) : State :=
  match s.colls.find? (·.id == id) with
  | none => s
  | some c => (List.range c.parties.length).foldl (fun s n => match c.parties[n]? with
      | some p => if p.cancelled then s else s.sendMsg src p.core (.cancel id n)
      | none => s) s
/-- The KCAN commands of a collective finish. -/
def State.finishKcans (s : State) (c : Collective) : State :=
  c.kcans.foldl (fun s id => match s.findCmd id with
    | some k => s.setCmd { k with state := .finished }
    | none => s) s
/-- The cancels of a collective that are on their way are void. -/
def State.dropCancels (s : State) (c : Collective) : State :=
  s.dropMsgs fun m => match m.msg with
    | .cancel id _ => id == c.id
    | _ => false
/-- A collective ends: its KCAN commands finish, its tree is given back, and the cancels on their way are void (R341 to
R343). -/
def State.dropColl (s : State) (c : Collective) : State :=
  let s := ({ s with colls := s.colls.filter (·.id != c.id) }).finishKcans c
  (if c.formed then s.releaseTree c else s).dropCancels c
/-- Some parties leave a collective whose cancel has no effect any more; it ends when the others have nothing left to do. -/
def State.leaveLanded (s : State) (c : Collective) (out : Party → Bool) : State :=
  let d := { c with parties := c.parties.map fun p => if out p then { p with killed := true } else p }
  if d.parties.all (s.partyDone d) then s.dropColl d
  else { s with colls := s.colls.map fun e => if e.id == d.id then d else e }
/-- Some parties of a core leave a formed collective, which cancels it: CANC in their tables, and the cancel sent unless it
is under way (R342 to R344). -/
def State.cancelFrom (core : Nat) (out : Party → Bool) (s : State) (c : Collective) : State :=
  if c.beyondCancel then s.leaveLanded c out
  else
    let s := (c.parties.filter fun p => out p && !p.cancelled).foldl State.markCanc s
    let s := { s with colls := s.colls.map fun d => if d.id == c.id then d.cancelBy out else d }
    if c.cancel then s else s.spreadCancel core c.id
/-- A party's command leaves a formed collective, which counts as cancelling it (R344). -/
def State.leaveColl (s : State) (k : Cmd) : State :=
  (s.colls.filter fun c => c.formed && c.parties.any (·.cmd == k.id)).foldl
    (State.cancelFrom ((k.ctx.map (·.core)).getD 0) (·.cmd == k.id)) s

/-- A party is of the task loaded on a context. -/
def State.partyOfTask (s : State) (r : CtxRef) (p : Party) : Bool := p.core == r.core && p.ctx == r.ctx && s.partyHere p
/-- The kill of a party's task cancels its collectives as a KCAN does; the killed party performs no arrival (R343). -/
def State.cancelOf (s : State) (r : CtxRef) : State :=
  let mine := s.partyOfTask r
  let s := (s.colls.filter fun c => !c.formed && !c.cancel && c.parties.any mine).foldl
    (fun s c => s.cancelUnformed c.id ((c.parties.filter mine).map (·.cmd))) s
  (s.colls.filter fun c => c.formed && c.parties.any mine).foldl (State.cancelFrom r.core mine) s

/-! ### The end of a task -/

/-- A task's end counted at its node; the last one completes it (R348). Log 22, DEDUCED. -/
def State.endTask (s : State) (node lates : Nat) (st : Status) (code : Nat) (args : List Nat) : State :=
  match s.nodes.find? (·.id == node) with
  | none => s
  | some n =>
    let bad := if n.bad.isSome || st = .done then n.bad else some (st, code, args)
    let n := { n with left := n.left - 1, bad := bad, lates := n.lates + lates }
    let s := { s with nodes := s.nodes.map fun m => if m.id == n.id then n else m }
    if n.left == 0 then
      match bad with
      | none => s.completeNode n .done n.lates []
      | some (st, code, args) => s.completeNode n st code args
    else s

/-- Everything of a context that a kill discards outside the context itself (R277, R305, R329, R358). -/
def State.discardWork (s : State) (r : CtxRef) : State :=
  let gone := (s.ctxCmds r).map Cmd.id
  let s := { s with cmds := s.cmds.filter fun k => k.ctx != some r }
  let s : State := { s with
    complexes := s.complexes.map fun (h, k) => (h, { k with units := k.units.map fun (u, q) => (u, q.filter (!gone.contains ·)) })
    dies := s.dies.map fun (d, k) => (d, { k with grammar := k.grammar.filter (!gone.contains ·) })
    cores := s.cores.map fun (i, k) => (i, { k with incoming := k.incoming.filter (·.src != r) })
    invals := s.invals.map fun v => if v.ctx == some r then { v with ctx := none } else v
    posts := s.posts.filter fun p => match p.cmd with
      | some id => !gone.contains id
      | none => true
    launches := s.launches.filter fun l => !(l.begun && l.core == r.core && l.ctx == r.ctx) }
  s.dropMsgs fun m => match m.msg with
    | .late d _ => d == r
    | .post => !(s.posts.any fun p => p.carrier == some m.id)
    | .release _ _ _ (some id) | .complete id => gone.contains id
    | _ => false

/-- A suspension asked for by a host that can no longer be made: its event has STATUS 2, and BUSY of SUSCTL falls
(R390). -/
def State.endSuspend (s : State) (r : CtxRef) : State :=
  let c := s.ctx r
  if c.req.suspend then
    let iod := ((c.task.bind fun t => s.nodes.find? (·.id == t.node)).map Node.iod).getD 0
    s.suspensionEvent iod 2 true [s.nodeAddr ((c.task.map Task.node).getD 0)]
  else s

/-- EPC, TCAUSE and TADDR, as the events of a task carry them (R391). -/
def Ctx.excArgs (c : Ctx) : List Nat := [c.epc.toNat, c.tcause.toNat, c.taddr.toNat]
/-- TASK_KILL (R358): the task stops at once, its work is discarded, its resources are cleared, and its node ends with
the status given. -/
def State.killTask (s : State) (r : CtxRef) (st : Status) (code : Nat) (args : List Nat) : State :=
  match (s.ctx r).task with
  | none => s
  | some t =>
    let s := s.cancelOf r
    let s := (s.discardWork r).endSuspend r
    let lates := (s.ctx r).lates
    let s := s.freeContext r
    s.endTask t.node lates st code args

end Sys2Proof.Machine
end

