-- ==== Sys2Proof/Machine/Ops.lean ====
section
/-! DEFINITION. Operations that many instructions share: the system registers (R121 to R124, R168, R186, R213, R217,
R225, R237, R240, R269, R373), TRAP ENTRY and the return from a trap (R374 to R377), and the issue of one word. -/
namespace Sys2Proof.Machine

/-! ### System registers -/

/-- A field in place. -/
def field (lo v : Nat) : Word := BitVec.ofNat 64 (v * 2 ^ lo)
def bitIf (lo : Nat) (b : Bool) : Word := if b then field lo 1 else 0

def Own.bits (o : Own) (lo : Nat) : Word :=
  field lo (o.owner.getD 0) ||| bitIf (lo + 2) o.clearing ||| bitIf (lo + 3) o.owner.isSome
def Region.ownBits (g : Region) (lo : Nat) : Word :=
  field lo (g.owner.getD 0) ||| bitIf (lo + 2) g.zeroing ||| bitIf (lo + 3) g.owner.isSome
def Region.nextBits (g : Region) (lo : Nat) : Word :=
  field lo (g.next.getD 0) ||| bitIf (lo + 3) g.next.isSome

/-- The OR of the words of 0 to n − 1. -/
def orWords (n : Nat) (f : Nat → Word) : Word := (List.range n).foldl (fun w i => w ||| f i) 0

/-- Levels of the running nest, and a COUNT and stride entry of its descriptor (R106). -/
def LoopSeq.levels (q : LoopSeq) : Nat := byteAt q.desc 0 % 8
def LoopSeq.count (q : LoopSeq) (l : Nat) : Nat := fieldAt q.desc (8 + 24 * l) 4
def LoopSeq.index (q : LoopSeq) (l : Nat) : Nat := Sparse.get 0 q.idx l

/-- LSQFLG (R108, R124); the flags of levels that the nest has not read 0. Log 29, DEDUCED. -/
def LoopSeq.flags (q : LoopSeq) : Word :=
  if q.active then
    bitIf 15 true ||| orWords q.levels fun l =>
      bitIf (2 * l) (q.index l == 0) ||| bitIf (2 * l + 1) (q.index l + 1 == q.count l)
  else 0

/-- COREXY (R123). -/
def State.corexy (s : State) (core : Nat) : Word :=
  field 0 (coreX core) ||| field 8 (coreY core) ||| field 16 s.mod.number ||| field 24 (dieOf core)
/-- IDARCH (R123). -/
def idarch : Word := 0x0000249600B00001

/-- KSHARE: shares, STOP and KIPEND (R240). -/
def State.kshare (s : State) (r : CtxRef) : Word :=
  let c := s.ctx r
  (orWords 4 fun k => field (4 * k) (Sparse.get 0 c.shares k))
    ||| (orWords 4 fun k => bitIf (16 + k) ((s.chanCmds r k).any Cmd.isStopped)) ||| field 24 c.kipend
/-- Entries queued and not yet applied (R237). -/
def Ctx.saeLen (c : Ctx) : Nat :=
  c.saeOpen.length + (c.saeClosed.map fun w => (w.runs.map fun r => r.2.length).sum).sum
/-- SAESTAT (R237). -/
def Ctx.saestat (c : Ctx) : Word := field 0 c.saeLen ||| field 16 c.saeErr ||| field 32 c.saeCause
/-- MTSTAT (R269). -/
def State.mtstat (s : State) : Word :=
  bitIf 0 s.mer.lock ||| bitIf 1 s.mer.hold ||| bitIf 2 s.mer.xmesh ||| bitIf 3 s.mer.bound
/-- The supervisor vector of a context's tenant (R373). -/
def State.svec (s : State) (r : CtxRef) : Word := s.blockReg (0x0C0 + 8 * s.tenantOf r)

/-- A system register as it stands before the group (R122, R138). -/
def State.sysRead (s : State) (r : CtxRef) (n : Nat) : Word :=
  let c := s.ctx r
  let k := s.core r.core
  if n == 0x000 then idarch
  else if n == 0x001 then s.corexy r.core
  else if n == 0x002 then BitVec.ofNat 64 r.ctx
  else if n == 0x008 then BitVec.ofNat 64 c.ccyc
  else if n == 0x009 then BitVec.ofNat 64 c.pmcnt
  else if n == 0x00A then c.pmbound
  else if n == 0x00B then bitIf 0 c.pend
  else if n == 0x010 then c.sticky.setWidth 64
  else if n == 0x018 then c.epc
  else if n == 0x019 then c.tcause
  else if n == 0x01A then c.taddr
  else if n == 0x020 then c.seq.flags
  else if 0x021 ≤ n && n ≤ 0x026 then BitVec.ofNat 64 (c.seq.index (n - 0x021))
  else if 0x028 ≤ n && n ≤ 0x02B then c.b (n - 0x028)
  else if n == 0x100 then orWords 8 fun t => (k.tileOwner t).bits (4 * t)
  else if 0x101 ≤ n && n ≤ 0x104 then orWords 16 fun t => (k.slotOwner (16 * (n - 0x101) + t)).bits (4 * t)
  else if n == 0x105 then orWords 16 fun g => (k.region g).ownBits (4 * g)
  else if n == 0x106 then orWords 16 fun g => (k.region g).nextBits (4 * g)
  else if 0x108 ≤ n && n ≤ 0x10B then Sparse.get 0 c.cwin (n - 0x108)
  else if 0x10C ≤ n && n ≤ 0x10F then Sparse.get 0 c.rwin (n - 0x10C)
  else if n == 0x110 then c.saestat
  else if n == 0x111 then c.saeAddr
  else if n == 0x112 then s.kshare r
  else if n == 0x113 then c.kihand
  else if n == 0x114 then c.mlambda
  else if n == 0x115 then s.mtstat
  else if n == 0x116 then c.mdlinfo
  else if n == 0x117 then c.tinva
  else if n == 0x118 then c.tinvc
  else if n == 0x119 then c.pltask
  else if n == 0x11A then c.testim
  else if n == 0x11B then s.svec r
  else 0

/-! ### Instructions accepted by mode (R122, R248, R375) -/

/-- A class-I register destination in x60 to x63. -/
def inShadow (n : BitVec 6) : Bool := (60#6).ule n
def shadowA (f : FmtA) : Bool := !f.msk.getLsbD 2 && inShadow f.dst

/-- Class-L loads into the scalar file and stores of class L that the supervisor handler accepts (R375). -/
def acceptedBySupervisor : Instr → Bool
  | .br .. | .brc .. | .brt .. | .pbr .. | .call .. | .ret .. | .nop .. | .yield .. | .twait .. => true
  | .add .. | .sub .. | .mul .. | .mulh .. | .div .. | .rem .. | .and .. | .or .. | .xor .. | .andn .. => true
  | .shl .. | .shr .. | .sra .. | .rotl .. | .clz .. | .popc .. | .min .. | .max .. | .cmp .. | .sel .. => true
  | .pand .. | .por .. | .pxor .. | .pnot .. | .mfs .. | .mts .. | .mtsSticky .. | .mtsPend .. => true
  | .regrelWrite .. | .tinvcStart .. | .time .. | .lea .. | .movi .. | .moviHi .. | .addi .. | .andi .. => true
  | .ori .. | .xori .. | .shli .. | .shri .. | .srai .. | .cmpi .. => true
  | .ldb .. | .ldh .. | .ldw .. | .ldd .. | .stb .. | .sth .. | .stw .. | .std .. => true
  | .cld _ f | .cst _ f => f.sz.ule 3
  | .swait .. | .sarr .. | .srel .. | .sset .. => true
  | .kcp _ f | .kcpOpimg _ f | .kcpn _ f | .kcpv _ f => !f.intr
  | .kdrain .. | .kres .. | .kresDrop .. => true
  | _ => false

/-- What the completion handler accepts (R248). -/
def acceptedByCompletion : Instr → Bool
  | .br .. | .brc .. | .nop .. | .yield .. => true
  | .add _ f | .sub _ f | .mul _ f | .mulh _ f | .div _ f | .rem _ f | .and _ f | .or _ f | .xor _ f
  | .andn _ f | .shl _ f | .shr _ f | .sra _ f | .rotl _ f | .clz _ f | .popc _ f | .min _ f | .max _ f
  | .sel _ f | .time _ f => shadowA f
  | .mfs _ f | .addi _ f | .andi _ f | .ori _ f | .xori _ f | .shli _ f | .shri _ f | .srai _ f => inShadow f.dst
  | .movi _ f | .moviHi _ f => inShadow f.dst
  | .ldb _ f | .ldh _ f | .ldw _ f => inShadow f.dt
  | .ldd _ f => !f.lx.getLsbD 1 && inShadow f.dt
  | .cld _ f | .ldnb _ f => f.sz.ule 3 && inShadow f.dt
  | .saef _ f => inShadow f.dt
  | .stb .. | .sth .. | .stw .. | .std .. | .vst .. | .vsts .. | .cst .. | .rwr .. | .rws .. | .stva .. => true
  | .rwva .. | .sarr .. | .swait .. | .sacq .. | .srel .. | .sset .. | .saeq .. => true
  | .kcp _ f | .kcpOpimg _ f | .kcpn _ f | .kcpv _ f => !f.intr
  | _ => false

/-- The system register that an MTS row writes. -/
def mtsIndex : Instr → Option Nat
  | .mts _ f | .mtsSticky _ f | .mtsPend _ f | .regrelWrite _ f | .tinvcStart _ f => some (sysIndex f)
  | _ => none

/-- The decode checks that depend on the mode: the accepted sets, and the registers that only a supervisor handler
writes (R122). -/
def acceptedIn (m : Mode) (i : Instr) : Bool :=
  match m with
  | .program => !((mtsIndex i).any sysSupervisorWrite)
  | .supervisor => acceptedBySupervisor i
  | .completion => acceptedByCompletion i

/-! ### Traps (R368 to R377) -/

/-- TCAUSE of a trap (R369). -/
def Trap.word (t : Trap) (nested : Bool) : Word :=
  field 0 t.cause ||| field 8 t.ccause ||| field 16 t.tsub ||| field 20 t.chan ||| bitIf 22 nested
    ||| field 32 t.code

/-- EPC, TCAUSE and TADDR written by a trap at an address (R374 step 1). -/
def Ctx.record (c : Ctx) (t : Trap) (epc : Word) : Ctx :=
  { c with epc := epc, tcause := t.word (c.mode ≠ .program), taddr := t.addr }

/-- The stopped command of a context on a channel. -/
def State.stoppedCmd (s : State) (r : CtxRef) (chan : Nat) : Option Cmd := (s.chanCmds r chan).find? Cmd.isStopped
/-- Whether a stopped command is discarded when its trap is taken: one stopped with REFUSED, and a KCOL stopped with
SYNCP (R246, R344). -/
def Cmd.endsAtTrap (k : Cmd) : Bool :=
  match k.state, k.instr with
  | .stopped .refused _, _ => true
  | .stopped .syncp _, some (.kcol _ _) => true
  | _, _ => false
/-- The command that a CPYF trap discards. -/
def State.discardRefused (s : State) (r : CtxRef) (t : Trap) : State :=
  if t.cause == causeCPYF then
    match s.stoppedCmd r t.chan with
    | some k => if k.endsAtTrap then (s.leaveColl k).dropCmd k.id else s
    | none => s
  else s

/-- The context enters supervisor mode at its tenant's handler (R374 step 3, R375). The results in flight, CCYC and
PMCNT stay. -/
def Ctx.enterSupervisor (c : Ctx) (vec : Word) : Ctx :=
  { c with mode := .supervisor, hpc := vec &&& ~~~7#64, hcyc := 0, sbAt := [], bubbles := 0, blocked := none, entered := false }

/-- The stage passes on (R87). -/
def State.passStage (s : State) (core : Nat) : State := s.modCore core fun k => { k with passing := true }

/-- TRAP ENTRY (R374): a trap of a context, with the address that EPC receives. A nested trap kills the task (R376); a
tenant without a handler has its task suspended (R374 step 2). -/
def State.takeTrap (s : State) (r : CtxRef) (t : Trap) (epc : Word) : State :=
  let s := s.discardRefused r t
  let c := (s.ctx r).record t epc
  let s := s.setCtx r c
  if c.mode ≠ .program then
    (s.killTask r .trapped 0 [c.epc.toNat, c.tcause.toNat, c.taddr.toNat]).passStage r.core
  else if s.svec r &&& ~~~7#64 == 0 then
    (s.setCtx r { c with saving := some 1, blocked := none, entered := false }).passStage r.core
  else (s.setCtx r (c.enterSupervisor (s.svec r))).passStage r.core

/-- RETURN FROM A TRAP (R377): the context leaves supervisor mode and its next group is the one at EPC. A landing pad
still awaited stays so only at the group it was awaited at. Log 25, DEDUCED. -/
def Ctx.resume (c : Ctx) : Ctx :=
  { c with
    mode := .program, tret := none, blocked := none, bubbles := 0
    pad := if c.epc == c.pc then c.pad else none
    pc := c.epc }

/-! ### Issue of a word -/

/-- The running context. -/
def State.me (s : State) : Ctx := s.ctx s.cur
def State.setMe (s : State) (f : Ctx → Ctx) : State := s.modCtx s.cur f
/-- A result of the word being performed. -/
def State.put (s : State) (lat : Nat) (e : Effect) (f : Flags) : State := s.setMe fun c => c.push lat e f

/-- A context cycle passes: CCYC and PMCNT, or the handler's count (R89, R114, R248, R375). -/
def Ctx.tick (c : Ctx) : Ctx :=
  match c.mode with
  | .program => { c with ccyc := c.ccyc + 1, pmcnt := c.pmcnt + 1 }
  | .supervisor => { c with hcyc := c.hcyc + 1 }
  | .completion => { c with kcyc := c.kcyc + 1 }

/-- What a verdict other than ok does to a context about to issue (R88, R112, R371). -/
def State.refuse (s : State) (r : CtxRef) (v : Verdict) : State :=
  match v with
  | .ok => s
  | .trap t => s.takeTrap r t (s.ctx r).at_
  | .block timed => s.modCtx r fun c => { c with blocked := some timed }
  | .bubble => s.modCtx r Ctx.tick
  | .stall => s

abbrev Result := Host.Outcome State Fault Refusal

/-- The issue of one instruction word. A word of a group that has passed its checks is performed where its guard holds
(R59); a word by itself first meets the decode checks of its mode and its own issue checks (R371). -/
def issue (i : Instr) (g : Guard) (s : State) (check : Verdict) (perform : State → State) : Result :=
  if s.iss.checked then .next (if s.me.guard g then perform s else s)
  else if !acceptedIn s.me.mode i then .next (s.takeTrap s.cur (Trap.plain causeILG s.me.at_) s.me.at_)
  else if s.me.guard g then
    .next (match check with
      | .ok => perform s
      | v => s.refuse s.cur v)
  else .next s

/-- A step of the machine that acts only where it is enabled. -/
def whenever (enabled : Bool) (s : State) (perform : State → State) : Result :=
  .next (if enabled then perform s else s)

/-- The word of an instruction as it stands in its group. -/
def State.wordOf (s : State) (i : Instr) : BitVec 64 := (encodeWord s.iss.st i).getD 0

end Sys2Proof.Machine
end

