-- ==== Sys2Proof/Machine/Operands.lean ====
section
/-! DEFINITION. Operand forms: the sources and destinations of class I under FS (R126), the addresses and access
sizes of format L (R67, R219, R271), lanes and masks of vectors (R140 to R142), and elements of operand slots (R184,
R196). -/
namespace Sys2Proof.Machine

/-! ### Class I (R126, R128) -/

/-- Value of a register named through a bit of FS. -/
def Ctx.fs (c : Ctx) (isA : Bool) (n : BitVec 6) : Word := if isA then c.a n.toNat else c.x n.toNat
def Ctx.srcA (c : Ctx) (f : FmtA) : Word := c.fs (f.msk.getLsbD 1) f.opa
def Ctx.srcB (c : Ctx) (f : FmtA) : Word := c.fs (f.msk.getLsbD 0) f.opb
/-- The destination of a class-I result. -/
def dstI (f : FmtA) (v : Word) : Effect := if f.msk.getLsbD 2 then .a f.dst.toNat v else .x f.dst.toNat v
/-- IMM34 as a word (R73). -/
def imm34 (f : FmtB) : Word := f.imm.signExtend 64

/-! ### Format L (R67) -/

/-- Access size in bytes of an SZ code. -/
def szBytes (sz : BitVec 3) : Nat := [1, 2, 4, 8, 16, 64, 128, 0].getD sz.toNat 0
/-- a[BASE] + x[IDX] + sext(OFF, 20) × size. -/
def Ctx.addrL (c : Ctx) (f : FmtL) : Word :=
  c.a f.base.toNat + c.x f.idx.toNat + f.off.signExtend 64 * BitVec.ofNat 64 (szBytes f.sz)
/-- The address where IDX has another role: a[BASE] + sext(OFF, 20) × size. -/
def Ctx.addrBase (c : Ctx) (f : FmtL) : Word :=
  c.a f.base.toNat + f.off.signExtend 64 * BitVec.ofNat 64 (szBytes f.sz)
/-- The address of STVA and RWVA: a[BASE] + sext(OFF[10:0], 11) × size (R271). -/
def Ctx.addrTimed (c : Ctx) (f : FmtL) : Word :=
  c.a f.base.toNat + (f.off.extractLsb' 0 11).signExtend 64 * BitVec.ofNat 64 (szBytes f.sz)
/-- The sync index of STVA and RWVA: OFF[19:11]. -/
def syncOf (f : FmtL) : Nat := (f.off.extractLsb' 11 9).toNat

/-! ### Vectors (R140 to R142) -/

/-- Lane i of a vector at width w. -/
def lane (w : Nat) (v : BitVec 1024) (i : Nat) : Nat := (v.extractLsb' (w * i) w).toNat
/-- A vector from its lanes, lane 0 first. -/
def ofLanes (w : Nat) (xs : List Nat) : BitVec 1024 :=
  BitVec.ofNat 1024 (xs.foldr (fun x acc => acc * 2 ^ w + x % 2 ^ w) 0)
/-- The bytes of a vector, byte 0 first. -/
def vecBytes (v : BitVec 1024) : List Byte := (List.range 128).map fun j => v.extractLsb' (8 * j) 8
def vecOfBytes (bs : List Byte) : BitVec 1024 := BitVec.ofNat 1024 (leNat bs)

/-- Lane i at width w is enabled by a mask when the mask's bit for the lane's first byte is 1 (R141). -/
def laneOn (w : Nat) (m : BitVec 128) (i : Nat) : Bool := m.getLsbD (w / 8 * i)
/-- Byte enables of the lanes of width w that satisfy a test. -/
def laneBytes (w : Nat) (on : Nat → Bool) : BitVec 128 :=
  BitVec.ofNat 128 ((List.range (1024 / w)).foldl (fun acc i =>
    if on i then acc + (2 ^ (w / 8) - 1) * 2 ^ (w / 8 * i) else acc) 0)
/-- The bits of a vector that byte enables cover. -/
def spread (we : BitVec 128) : BitVec 1024 :=
  BitVec.ofNat 1024 ((List.range 128).foldl (fun acc j => if we.getLsbD j then acc + 255 * 256 ^ j else acc) 0)
/-- A vector with the enabled bytes replaced. -/
def merge (old new : BitVec 1024) (we : BitVec 128) : BitVec 1024 :=
  (old &&& ~~~spread we) ||| (new &&& spread we)

/-! ### Operand slots (R183, R184, R196) -/

/-- The n bytes of a slot image from byte k as a number. -/
def slotField (img : BitVec 12800) (k n : Nat) : Nat := (img.extractLsb' (8 * k) (8 * n)).toNat
/-- Element k of row r at width w. -/
def slotElem (img : BitVec 12800) (w r k : Nat) : Nat := (img.extractLsb' (768 * r + w * k) w).toNat

/-- Value of an element in a format, integers read by a signedness (R36, R172). -/
def elemVal (fmt : BitVec 6) (unsigned : Bool) (u : Nat) : Val :=
  if isInt fmt then decodeVal (.int (fmtWidth fmt) (!unsigned)) u
  else decodeVal (fmtOf fmt) u
/-- Whether a format code by itself reads unsigned. -/
def codeUnsigned (fmt : BitVec 6) : Bool := isInt fmt && !isSignedInt fmt

/-- Element e of bt4 row j of a slot (R39, R196). -/
def btRowElem (img : BitVec 12800) (j e : Nat) : Val :=
  let side := slotField img (1536 + 4 * j) 4
  let blk := e / 64
  let bscale := side / 256 ^ blk % 256
  let tag := side / 2 ^ (16 + 2 * blk) % 4
  btElem (slotField img (96 * j + 64) 4) bscale tag (slotElem img 4 j e)

end Sys2Proof.Machine
end

