-- ==== Sys2Proof/Machine/Arrays.lean ====
section
/-! DEFINITION. What the matrix array computes (R194 to R198): the products of an array instruction from the two slot
images it read, and their sums into a tile. -/
namespace Sys2Proof.Machine

/-- Length of the pass of MMA and MMAI (R194). -/
def passOf (f : FmtM) : Nat := if f.klen == 0 then passLength f else f.klen.toNat

/-- Element k of the A row i of MMA or MMAI (R193, R195). -/
def elemA (mmai : Bool) (f : FmtM) (img : BitVec 12800) (i k : Nat) : Val :=
  elemVal f.fmta (if mmai then f.sga else codeUnsigned f.fmta) (slotElem img (fmtWidth f.fmta) i k)
/-- Element k, counted from the B start, of the B row j. -/
def elemB (mmai : Bool) (f : FmtM) (img : BitVec 12800) (j k : Nat) : Val :=
  let e := bStart f + k
  if f.fmtb == 0x21 then btRowElem img j e
  else if mmai && f.fmtb == 0x23 then decodeVal (.int 4 (!f.sgb)) (slotElem img 4 j e)
  else elemVal f.fmtb (if mmai then f.sgb else codeUnsigned f.fmtb) (slotElem img (fmtWidth f.fmtb) j e)

/-- The products of cell (i, j) in increasing k, with the flags of forming them. -/
def mmaProducts (mmai : Bool) (f : FmtM) (imgA imgB : BitVec 12800) (i j : Nat) : List (Val × Flags) :=
  (List.range (passOf f)).map fun k =>
    prodVal f.prof.toNat (isIeee f.fmta) (elemA mmai f imgA i k) (elemB mmai f imgB j k)

/-- The products of MLUT: the activation with the sign of its weight bit (R197). -/
def mlutProducts (f : FmtM) (imgA imgB : BitVec 12800) (i j : Nat) : List (Val × Flags) :=
  (List.range (if f.klen == 0 then 96 else f.klen.toNat)).map fun k =>
    let a := elemVal f.fmta (codeUnsigned f.fmta) (slotElem imgA 8 i k)
    let plus := imgB.getLsbD (768 * j + 96 * (f.mx.extractLsb' 0 3).toNat + k)
    ((match a.real? with
      | some q => if plus then .real q else .real q.neg
      | none => .nar), Flags.none)

/-- A cell after the sum of an array instruction, with its flags. -/
def arrayCell (i : Instr) (imgA imgB : BitVec 12800) (r j : Nat) (c : Quire) : Quire × Flags :=
  let sum (prof : Nat) (ps : List (Val × Flags)) : Quire × Flags :=
    let s := profileSum prof c (ps.map Prod.fst)
    (s.1, ps.foldl (fun a p => a ||| p.2) s.2)
  match i with
  | .mma _ f => sum f.prof.toNat (mmaProducts false f imgA imgB r j)
  | .mmai _ f => sum 0 (mmaProducts true f imgA imgB r j)
  | .mlut _ f => sum 0 (mlutProducts f imgA imgB r j)
  | _ => (c, Flags.none)

/-- The tile of an array instruction. -/
def arrayTile : Instr → Nat
  | .mma _ f | .mmai _ f | .mlut _ f => f.tile.toNat
  | _ => 0

def Core.setCell (k : Core) (t c : Nat) (q : Quire) : Core :=
  { k with tiles := Sparse.set Quire.zero k.tiles (256 * t + c) q }

/-- ARRAY RESULT: every cell of the tile takes its sum (R195, R198). -/
def Core.landArray (k : Core) (word : BitVec 64) (imgA imgB : BitVec 12800) : Core × Flags :=
  match decodeWord word with
  | .ok i =>
    let t := arrayTile i
    (List.range 256).foldl (fun s c =>
      let r := arrayCell i imgA imgB (c / 16) (c % 16) (s.1.cell t c)
      (s.1.setCell t c r.1, s.2 ||| r.2)) (k, Flags.none)
  | _ => (k, Flags.none)

end Sys2Proof.Machine
end

