-- ==== Sys2Proof/Machine/Results.lean ====
section
/-! DEFINITION. The landing of results (R90 to R92, R125, R142, R198): what each kind of result writes, in the order of
one context cycle. -/
namespace Sys2Proof.Machine

def Bank.setX (b : Bank) (n : Nat) (v : Word) : Bank := if n == 0 then b else { b with x := Sparse.set 0 b.x n v }
def Bank.setA (b : Bank) (n : Nat) (v : Word) : Bank := { b with a := Sparse.set 0 b.a n v }
def Bank.setB (b : Bank) (n : Nat) (v : Word) : Bank := { b with b := Sparse.set 0 b.b n v }
/-- Bit n of a predicate file. -/
def setPred (p : BitVec 16) (n : Nat) (v : Bool) : BitVec 16 :=
  if n == 0 then p
  else if v then p ||| BitVec.ofNat 16 (2 ^ n) else p &&& ~~~BitVec.ofNat 16 (2 ^ n)
def Bank.setP (b : Bank) (n : Nat) (v : Bool) : Bank := { b with p := setPred b.p n v }

/-- The register bank of a mode changed. -/
def Ctx.onBank (c : Ctx) (m : Mode) (f : Bank → Bank) : Ctx :=
  if m = .supervisor then { c with sbank := f c.sbank } else { c with bank := f c.bank }

/-- A write to an x register in a mode: the completion handler writes its shadows alone (R248). -/
def Ctx.setX (c : Ctx) (m : Mode) (n : Nat) (v : Word) : Ctx :=
  if m = .completion then { c with shadow := Sparse.set 0 c.shadow n v } else c.onBank m fun b => b.setX n v

/-- Bits of MDLINFO and TCAUSE that are not reserved (R269, R369). -/
def mdlinfoMask : Word := 0x0000FF3F07FFFFFF
def tcauseMask : Word := 0x0000FFFF007FFFFF

/-- START of TINVC (R314): while no invalidation of the context is in progress, ACK is cleared, BUSY set, and the
request sent to the 28 dies as control messages (R280). -/
def State.startInval (s : State) (src : Nat) (ctx : Option CtxRef) (ten size : Nat) (va : Nat) : State :=
  let (id, s) := s.fresh
  (List.range 28).foldl (fun s d => s.sendMsg src (dieSrc d) (.inval id d))
    { s with invals := s.invals ++ [
        { id := id, ctx := ctx, host := ctx.isNone, tenant := ten, size := size, va := va, src := src, todo := List.range 28
          owing := [], flying := [] }] }

/-- A system register written (R122, R125, R215, R269, R314, R377). Reserved bits are ignored. -/
def State.sysWrite (s : State) (r : CtxRef) (n : Nat) (v : Word) : State :=
  if n == 0x00A then s.modCtx r fun c => { c with pmbound := v &&& 0xFFFFFFFF }
  else if n == 0x00B then s.modCtx r fun c => { c with pend := v.getLsbD 0 }
  else if n == 0x010 then s.modCtx r fun c => { c with sticky := v.setWidth 9 }
  else if n == 0x018 then s.modCtx r fun c => { c with epc := v }
  else if n == 0x019 then s.modCtx r fun c => { c with tcause := v &&& tcauseMask }
  else if n == 0x01A then s.modCtx r fun c => { c with taddr := v }
  else if n == 0x107 then
    (List.range 16).foldl (fun s g =>
      if v.getLsbD g && ((s.core r.core).region g).owner == some r.ctx then s.handOver r.core g (s.tenantOf r)
      else s) s
  else if n == 0x113 then s.modCtx r fun c => { c with kihand := v &&& ~~~7#64 }
  else if n == 0x116 then s.modCtx r fun c => { c with mdlinfo := v &&& mdlinfoMask }
  else if n == 0x117 then s.modCtx r fun c => { c with tinva := v }
  else if n == 0x118 then
    let c := s.ctx r
    if v.getLsbD 6 then
      if c.tinvc.getLsbD 7 then s
      else
        let s := s.startInval r.core (some r) (bits v 0 4) (bits v 4 2) c.tinva.toNat
        s.setCtx r { c with tinvc := (v &&& 0x3F) ||| bitIf 7 true }
    else s.setCtx r { c with tinvc := (v &&& 0x3F) ||| (c.tinvc &&& ~~~0x3F#64) }
  else if n == 0x11A then s.modCtx r fun c => { c with testim := v }
  else if n == 0x11C then s.modCtx r fun c => if v &&& 7 == 0 then c else { c with tret := some v }
  else s

/-- Rows of a tile replaced (R198). -/
def Core.setRows (k : Core) (t : Nat) (rows : BitVec 16) (cells : Sparse Quire) : Core :=
  (List.range 256).foldl (fun k c =>
    if rows.getLsbD (c / 16) then k.setCell t c (Sparse.get Quire.zero cells c) else k) k

/-! ### Entries of a record that write part of a register (R383) -/

/-- The result of a file with a payload; the registers of vectors, tiles and flags have entries of their own. -/
def partEffect (file n : Nat) (v : BitVec 1024) : Effect :=
  match file with
  | 0 => .x n (v.setWidth 64)
  | 1 => .a n (v.setWidth 64)
  | 2 => .p n (v.getLsbD 0)
  | 4 => .m n (v.setWidth 128)
  | 5 => .q n (if v.getLsbD 512 then Quire.narState else ⟨false, v.setWidth 512⟩)
  | 6 => .b n (v.setWidth 64)
  | 7 => .sys n (v.setWidth 64)
  | _ => .nothing
/-- The register of a file as it stands, as a payload. -/
def State.heldPart (s : State) (r : CtxRef) (file n : Nat) : BitVec 1024 :=
  let c := s.ctx r
  match file with
  | 0 => (Sparse.get 0 c.bank.x n).setWidth 1024
  | 1 => (Sparse.get 0 c.bank.a n).setWidth 1024
  | 2 => (BitVec.ofBool (c.bank.p.getLsbD n)).setWidth 1024
  | 4 => (c.mr n).setWidth 1024
  | 5 => ((c.qr n).val.setWidth 1024) ||| (BitVec.ofBool (c.qr n).nar).setWidth 1024 <<< 512
  | 6 => (Sparse.get 0 c.bank.b n).setWidth 1024
  | 7 => (s.sysRead r n).setWidth 1024
  | _ => 0
/-- The enabled bits of a payload, the others as the register holds them. -/
def State.wholePart (s : State) (r : CtxRef) (file n : Nat) (val we : BitVec 1024) : Effect :=
  partEffect file n ((val &&& we) ||| (s.heldPart r file n &&& ~~~we))

/-- A whole result written. -/
def State.applyWhole (s : State) (r : CtxRef) (m : Mode) : Effect → State
  | .x n v => s.modCtx r fun c => c.setX m n v
  | .a n v => s.modCtx r fun c => c.onBank m fun b => b.setA n v
  | .p n v => s.modCtx r fun c => c.onBank m fun b => b.setP n v
  | .v n val we => s.modCtx r fun c => { c with v := Sparse.set 0 c.v n (merge (c.vr n) val we) }
  | .m n v => s.modCtx r fun c => if n == 0 then c else { c with m := Sparse.set 0 c.m n v }
  | .q n v => s.modCtx r fun c => { c with q := Sparse.set Quire.zero c.q n v }
  | .b n v => s.modCtx r fun c => c.onBank m fun b => b.setB n v
  | .sys n v => s.sysWrite r n v
  | .tile n rows cells => s.modCore r.core fun k => k.setRows n rows cells
  | .slot n img => s.modCore r.core fun k => { k with slots := Sparse.set 0 k.slots n img }
  | .store a bs => s.modCtx r fun c => { c with port2 := c.port2 ++ [(m, a, bs)] }
  | .array _ _ _ => s
  | .nothing => s
  | .part _ _ _ _ => s
/-- What a result writes when it lands. -/
def State.applyEffect (s : State) (r : CtxRef) (m : Mode) : Effect → State
  | .part file n val we => s.applyWhole r m (s.wholePart r file n val we)
  | e => s.applyWhole r m e

/-- Flags set in STICKY. -/
def State.raise (s : State) (r : CtxRef) (f : Flags) : State :=
  s.modCtx r fun c => { c with sticky := c.sticky ||| f }

/-- One result lands. -/
def State.landOne (s : State) (r : CtxRef) (m : Mode) (p : Pending) : State :=
  (s.applyEffect r m p.eff).raise r p.flags

def Effect.isArray : Effect → Bool
  | .array _ _ _ => true
  | _ => false
/-- A write to STICKY, which precedes every flag set in its cycle (R125). -/
def Effect.isSticky : Effect → Bool
  | .sys n _ => n == 0x010
  | .part file n _ _ => file == 7 && n == 0x010
  | _ => false

/-- The delay line of the running mode. -/
def Ctx.curLine (c : Ctx) : List Pending :=
  match c.mode with
  | .program => c.line
  | .supervisor => c.sline
  | .completion => c.kline
def Ctx.setLine (c : Ctx) (l : List Pending) : Ctx :=
  match c.mode with
  | .program => { c with line := l }
  | .supervisor => { c with sline := l }
  | .completion => { c with kline := l }

/-- Results of a list in landing order: writes of STICKY first, then the others in issue order. -/
def landOrder (ps : List Pending) : List Pending :=
  ps.filter (·.eff.isSticky) ++ ps.filter (!·.eff.isSticky)

/-- A result writes a system register. -/
def Effect.writesSys (e : Effect) (n : Nat) : Bool :=
  match e with
  | .sys k _ => k == n
  | .part file k _ _ => file == 7 && k == n
  | _ => false
/-- What STICKY and MDLINFO hold where a write of theirs has just landed: what reaches them before the context cycle of the
landing begins comes before that write (R125, R269). -/
def Ctx.noteFresh (c : Ctx) (es : List Effect) : Ctx :=
  { c with fresh := c.fresh ++ (if es.any (·.writesSys 0x010) then [(0x010, c.sticky.setWidth 64)] else [])
      ++ (if es.any (·.writesSys 0x116) then [(0x116, c.mdlinfo)] else []) }
/-- The end of a core cycle: what its flags have set in STICKY belongs to the landing cycle too. -/
def Ctx.holdFresh (c : Ctx) : Ctx :=
  { c with fresh := c.fresh.map fun x => (x.1, if x.1 == 0x010 then c.sticky.setWidth 64 else c.mdlinfo) }
/-- The landing cycle begins: what has reached the registers since the core cycle before it has been written over. -/
def Ctx.settleFresh (c : Ctx) : Ctx :=
  { c.fresh.foldl (fun c x => if x.1 == 0x010 then { c with sticky := x.2.setWidth 9 } else { c with mdlinfo := x.2 }) c with
    fresh := [] }
/-- RESULT LANDING: every due result of the running mode but the array's (R90, R91, R125). -/
def State.landResults (s : State) (r : CtxRef) : State :=
  let c := s.ctx r
  let due (p : Pending) : Bool := decide (p.due ≤ c.clock) && !p.eff.isArray
  let s := s.setCtx r (c.setLine (c.curLine.filter (!due ·)))
  ((landOrder (c.curLine.filter due)).foldl (fun s p => s.landOne r c.mode p) s).modCtx r
    fun x => x.noteFresh ((c.curLine.filter due).map Pending.eff)

/-- ARRAY RESULT LANDING: every due array result, each added to its tile as it stands (R198). -/
def State.landArrays (s : State) (r : CtxRef) : State :=
  let c := s.ctx r
  let due (p : Pending) : Bool := decide (p.due ≤ c.ccyc) && p.eff.isArray
  let s := s.setCtx r { c with line := c.line.filter (!due ·) }
  (c.line.filter due).foldl (fun s p =>
    match p.eff with
    | .array w a b =>
      let k := (s.core r.core).landArray w a b
      (s.setCore r.core k.1).raise r (k.2 ||| p.flags)
    | _ => s) s

/-- One store of port 2: a Relief block is demoted first where it is encoded (R262), and a store that meets a SEALED
block leaves its bytes. Log 56, DEDUCED. -/
def State.portStore (s : State) (core a : Nat) (bs : List Byte) : State :=
  (splitRange a bs.length).foldl (fun s p =>
    match s.writeData (.loc core p.1) ((bs.drop (p.1 - a)).take p.2) with
    | .ok t => t
    | .error _ => s) s
/-- Port 2 performs the stores of a context whose context cycle has come in the running mode, in order (R210). -/
def State.drainPort (s : State) (r : CtxRef) : State :=
  let c := s.ctx r
  (c.port2.filter (·.1 = c.mode)).foldl (fun s p => s.portStore r.core p.2.1 p.2.2)
    (s.modCtx r fun c => { c with port2 := c.port2.filter (·.1 ≠ c.mode) })

/-- The stores of results in flight that some gates of a context wait for, and those that port 2 still has, are performed at
once: the gates hold the group before which the cycle of these stores would come, or the save that waits for the gates.
Log 69, DEDUCED. -/
def State.storeMembers (s : State) (r : CtxRef) (gs : List Gate) : State :=
  let c := s.ctx r
  let named (a : Nat) : Bool := gs.any fun g => g.members.any fun m => match m with
    | .store _ b _ => a == b
    | _ => false
  let due (p : Pending) : Bool := match p.eff with
    | .store a _ => named a
    | _ => false
  let s := (c.port2.filter fun p => named p.2.1).foldl (fun s p => s.portStore r.core p.2.1 p.2.2)
    (s.setCtx r { c with port2 := c.port2.filter (fun p => !named p.2.1), line := c.line.filter (!due ·) })
  (c.line.filter due).foldl (fun s p => match p.eff with
    | .store a bs => (s.portStore r.core a bs).raise r p.flags
    | _ => s) s

/-- Every result in flight of the program lands, each at its own cycle in turn (R118). -/
def State.landAll (s : State) (r : CtxRef) : Nat → State
  | 0 => s.drainPort r
  | n + 1 =>
    let c := s.ctx r
    if c.line.isEmpty then s.drainPort r
    else
      let s := s.setCtx r { c with ccyc := c.ccyc + 1 }
      (((s.drainPort r).landResults r).landArrays r).landAll r n

/-- The greatest number of cycles until a result of the program lands. -/
def Ctx.drainTime (c : Ctx) : Nat := c.line.foldl (fun n p => max n (p.due - c.ccyc)) 0

def execResultLanding (c : CtxRef) (s : State) : Result := .next (s.landResults c)
def execArrayResultLanding (c : CtxRef) (s : State) : Result := .next (s.landArrays c)

end Sys2Proof.Machine
end

