-- ==== Sys2Proof/Machine/Flags.lean ====
section
/-! DEFINITION. Conditions and flags: the condition codes of R64 on integers, the value order of R29 and R34 on reals,
extremes, and the flag test of TFENCE (R112). -/
namespace Sys2Proof.Machine

/-! ### Integers -/

/-- A condition code on two 64-bit words (R64, R133). -/
def condWord (code : Nat) (a b : Word) : Bool :=
  match code with
  | 0 => a == b
  | 1 => a != b
  | 2 => a.slt b
  | 3 => a.sle b
  | 4 => b.slt a
  | 5 => b.sle a
  | 6 => a.ult b
  | 7 => a.ule b
  | 8 => b.ult a
  | 9 => b.ule a
  | _ => false

/-- A condition code on an order: less, equal; codes 6 to 9 use the unsigned order. -/
def condOrd (code : Nat) (lt eq ltu : Bool) : Bool :=
  match code with
  | 0 => eq
  | 1 => !eq
  | 2 => lt
  | 3 => lt || eq
  | 4 => !(lt || eq)
  | 5 => !lt
  | 6 => ltu
  | 7 => ltu || eq
  | 8 => !(ltu || eq)
  | 9 => !ltu
  | _ => false

/-! ### Reals -/

/-- Value order of two values that are not NaN: NaR below every real (R29), infinities at the ends. -/
def valLt (a b : Val) : Bool :=
  match a, b with
  | .nar, .nar => false
  | .nar, _ => true
  | _, .nar => false
  | .inf s, .inf t => s && !t
  | .inf s, _ => s
  | _, .inf t => !t
  | a, b =>
    match a.real?, b.real? with
    | some x, some y => x.lt y
    | _, _ => false
/-- Equality of two values that are not NaN; NaR equals itself and the two zeros are equal. -/
def valEq (a b : Val) : Bool :=
  match a, b with
  | .nar, .nar => true
  | .inf s, .inf t => s == t
  | a, b =>
    match a.real?, b.real? with
    | some x, some y => x.eqv y
    | _, _ => false

/-! ### Extremes (R153) -/

/-- IEEE order with −0 below +0 (R153). -/
def ieeeLt (a b : Val) : Bool := valLt a b || (a == .negZero && b == .real Q.zero)
/-- The canonical NaN of a format as a word. -/
def canonOf : NumFmt → Nat
  | .ieee eb fb => canonNaN eb fb
  | _ => 0
/-- VFMIN and VFMAX of two words. -/
def extremeOf (nf : NumFmt) (hi : Bool) (a b : Nat) : Nat × Flags :=
  let x := decodeVal nf a
  let y := decodeVal nf b
  if nf.isTap then
    if x.isNar || y.isNar then ((roundVal nf .nar).1, Flags.narf)
    else (if valLt x y then (if hi then b else a) else (if hi then a else b), Flags.none)
  else
    let fl := flagIf (x.isSignalling || y.isSignalling) Flags.nv
    if x.isNan && y.isNan then (canonOf nf, fl)
    else if x.isNan then (b, fl)
    else if y.isNan then (a, fl)
    else (if ieeeLt x y then (if hi then b else a) else (if hi then a else b), fl)

/-! ### TFENCE (R112) -/

/-- The verdict of TFENCE on STICKY under its mask. -/
def tfenceVerdict (sticky : Flags) (mask : BitVec 16) : Verdict :=
  let hit := sticky.setWidth 16 &&& mask
  if hit == 0 then .ok
  else .trap (Trap.plain (if hit &&& (Flags.mdl.setWidth 16) != 0 then causeMISS else causeARITH) (hit.setWidth 64))

end Sys2Proof.Machine
end

