-- ==== Sys2Proof/Machine/Gates.lean ====
section
/-! DEFINITION. Closed gates of FENCE (R304, R305), stopped commands as traps (R246), and code fetch (R56). -/
namespace Sys2Proof.Machine

/-! ### Stopped commands (R246, R369) -/

def StopCause.code : StopCause → Nat
  | .trans _ => 1
  | .accf => 2
  | .syncp => 3
  | .rdict => 4
  | .refused => 5
def StopCause.sub : StopCause → Nat
  | .trans n => n
  | _ => 0

/-- The trap CPYF of a stopped command. -/
def Cmd.trap (k : Cmd) : Option Trap :=
  match k.state with
  | .stopped c a =>
    some { cause := causeCPYF, ccause := c.code, tsub := c.sub, chan := k.chan, code := 0, addr := BitVec.ofNat 64 a }
  | _ => none

/-- CPYF for the first stopped command of a list. -/
def cpyfOf (ks : List Cmd) : Verdict :=
  match ks.filterMap Cmd.trap with
  | t :: _ => .trap t
  | [] => .ok

/-! ### Gates -/

/-- Whether a remote or timed write is still to be performed. -/
def State.writePending (s : State) (r : CtxRef) (id : Nat) : Bool :=
  let c := s.ctx r
  c.rwq.any (·.id == id) || c.stva.any (·.id == id) || s.cores.any fun k => k.2.incoming.any (·.id == id)

/-- Whether a member of a gate is not yet complete (R293). -/
def State.memberPending (s : State) (r : CtxRef) : GateMember → Bool
  | .store due a _ => (s.ctx r).port2.any (·.2.1 == a) || (s.ctx r).line.any fun p => p.due == due && match p.eff with
      | .store b _ => a == b
      | _ => false
  | .write id => s.writePending r id
  | .cmd id => (s.findCmd id).isSome
  | .run id => (s.ctx r).saeClosed.any fun w => w.runs.any fun e => e.1.id == id

def State.gateClosed (s : State) (r : CtxRef) (g : Gate) : Bool := g.members.any (s.memberPending r)
/-- The gates of a context that are closed, oldest first. -/
def State.closedGates (s : State) (r : CtxRef) : List Gate := (s.ctx r).gates.filter (s.gateClosed r)

/-- A range of n bytes from a, addresses taken modulo 2^64, meets the gate's range. -/
def Gate.meets (g : Gate) (glob : Bool) (a n : Nat) : Bool :=
  g.glob == glob && n != 0 && g.len != 0
    && ((a < min (g.base + g.len) (2 ^ 64) && g.base < a + n) || g.base + 2 ^ 64 < a + n)

/-- Some enabled byte of a write lies in the gate's range. -/
def Gate.meetsWrite (g : Gate) (w : RemoteWrite) : Bool :=
  (List.range w.bytes.length).any fun j => w.we.getLsbD j && g.meets false (w.addr + j) 1

/-- The commands of a gate's snapshot that have not completed. -/
def State.gateCmds (s : State) (g : Gate) : List Cmd :=
  g.members.filterMap fun m => match m with
    | .cmd id => s.findCmd id
    | _ => none

/-- Successor class bits: L, G, K, E (R303). -/
def succL : Nat := 0
def succG : Nat := 1
def succK : Nat := 2
def succE : Nat := 3

/-- The closed gates that hold a successor of a class with one of some ranges, each (global, address, length). -/
def State.gatesHolding (s : State) (r : CtxRef) (cls : Nat) (ranges : List (Bool × Nat × Nat)) : List Gate :=
  (s.closedGates r).filter fun g => g.succ.getLsbD cls && ranges.any fun x => g.meets x.1 x.2.1 x.2.2

/-! ### Gates on engines (R304) -/

/-- A command issued after a gate's FENCE, or in its group, with a byte in the gate's range waits while it is closed. -/
def State.cmdHeld (s : State) (k : Cmd) : Bool :=
  match k.ctx with
  | none => false
  | some r => (s.gatesHolding r (if k.isE then succE else succK) (k.ranges.map fun x => (x.glob, x.addr, x.len))).any
      fun g => g.id < k.id
/-- The gates that hold a command. -/
def State.cmdGates (s : State) (r : CtxRef) (k : Cmd) : List Gate :=
  (s.gatesHolding r (if k.isE then succE else succK) (k.ranges.map fun x => (x.glob, x.addr, x.len))).filter
    fun g => g.id < k.id
/-- The gates that hold a remote write: closed, of class G, older, with an enabled byte in their range. -/
def State.writeGates (s : State) (r : CtxRef) (w : RemoteWrite) : List Gate :=
  (s.closedGates r).filter fun g => g.succ.getLsbD succG && g.meetsWrite w && g.id < w.id
def State.writeHeld (s : State) (r : CtxRef) (w : RemoteWrite) : Bool := !(s.writeGates r w).isEmpty
/-- The gates that hold a run of scatter-accumulate entries: it waits while its last entry does. -/
def State.runGates (s : State) (r : CtxRef) (e : SaeEntry) : List Gate :=
  (s.gatesHolding r succE [(false, e.addr, szBytes e.sz)]).filter fun g => g.id < e.id
def State.runHeld (s : State) (r : CtxRef) (e : SaeEntry) : Bool := !(s.runGates r e).isEmpty

/-- A command of a context goes no later than another: an earlier one of its channel (R242), or where both are grammar
commands an earlier one of the engine (R365). -/
def Cmd.precedes (t k : Cmd) : Bool :=
  t.ctx == k.ctx && t.id ≤ k.id && (t.chan == k.chan || (t.instr.any isGrammar && k.instr.any isGrammar))
/-- Commands with all that must go before them; the fuel is the number of channels. -/
def State.cmdsUpTo (s : State) (r : CtxRef) : Nat → List Cmd → List Cmd
  | 0, ks => ks
  | n + 1, ks => s.cmdsUpTo r n ((s.ctxCmds r).filter fun t => ks.any t.precedes)
/-- A remote write with those of its context to its target that go before it (R227). -/
def State.writesUpTo (s : State) (r : CtxRef) (w : RemoteWrite) : List RemoteWrite :=
  (s.ctx r).rwq.filter fun v => v.module == w.module && v.core == w.core && v.id ≤ w.id
/-- A run of a context with those before it in its queue (R236). -/
def State.runsUpTo (s : State) (r : CtxRef) (id : Nat) : List (SaeEntry × List Word) :=
  let all := (s.ctx r).saeClosed.flatMap SaeWindow.runs
  all.take (all.findIdx (·.1.id == id) + 1)

/-- A gate holds something of its context: a command, a remote write or a run. -/
def State.gateHolds (s : State) (r : CtxRef) (g : Gate) : Bool :=
  (s.ctxCmds r).any (fun k => (s.cmdGates r k).contains g) || (s.ctx r).rwq.any (fun w => (s.writeGates r w).contains g)
    || ((s.ctx r).saeClosed.flatMap SaeWindow.runs).any fun e => (s.runGates r e.1).contains g
/-- The gates that hold some commands, writes or runs, or what must go before them. -/
def State.gatesBefore (s : State) (r : CtxRef) (ks : List Cmd) (ws : List RemoteWrite) (es : List Nat) : List Gate :=
  (s.cmdsUpTo r 4 ks).flatMap (s.cmdGates r) ++ (ws.flatMap (s.writesUpTo r)).flatMap (s.writeGates r)
    ++ (es.flatMap (s.runsUpTo r)).flatMap fun e => s.runGates r e.1
/-- The gates that hold a member of a gate, or what must go before it. -/
def State.memberGates (s : State) (r : CtxRef) : GateMember → List Gate
  | .cmd id => s.gatesBefore r (s.findCmd id).toList [] []
  | .write id => s.gatesBefore r [] ((s.ctx r).rwq.filter (·.id == id)) []
  | .run id => s.gatesBefore r [] [] [id]
  | .store .. => []
/-- Some gates with those that hold what they wait for, and so on; a context has no more than four (R304). -/
def State.gateChain (s : State) (r : CtxRef) : Nat → List Gate → List Gate
  | 0, gs => gs
  | n + 1, gs => gs ++ s.gateChain r n (gs.flatMap fun g => g.members.flatMap (s.memberGates r))
/-- CPYF for a group that blocks through gates, or through what gates hold, of which one's snapshot holds a stopped command
(R305). -/
def State.gatesCpyf (s : State) (r : CtxRef) (gs : List Gate) : Verdict := cpyfOf ((s.gateChain r 4 gs).flatMap s.gateCmds)
/-- What a group meets that would block on closed gates: CPYF, else a block (R305). -/
def State.gateVerdict (s : State) (r : CtxRef) (gs : List Gate) : Verdict :=
  match gs with
  | [] => .ok
  | gs => (s.gatesCpyf r gs).andThen (.block false)
/-- The verdict of the gates on a class-L access to local ranges. -/
def State.gateL (s : State) (r : CtxRef) (ranges : List (Nat × Nat)) : Verdict :=
  s.gateVerdict r (s.gatesHolding r succL (ranges.map fun x => (false, x.1, x.2)))

/-- The same for a group that blocks on commands. -/
def State.heldCpyf (s : State) (r : CtxRef) (ks : List Cmd) : Verdict := s.gatesCpyf r (s.gatesBefore r ks [] [])
/-- A remote write that a gate holds, itself or an earlier one to the same target. -/
def State.writeStuck (s : State) (r : CtxRef) (w : RemoteWrite) : Bool :=
  (s.ctx r).rwq.any fun v => v.module == w.module && v.core == w.core && v.id ≤ w.id && s.writeHeld r v
/-- A group that finds the remote-write queue full: CPYF when no write of it can go before such a gate opens, else a
block. -/
def State.fullQueue (s : State) (r : CtxRef) : Verdict :=
  let q := (s.ctx r).rwq
  (if q.all (s.writeStuck r) then s.gatesCpyf r (q.flatMap (s.writeGates r)) else .ok).andThen (.block false)
/-- A group that waits for runs of scatter-accumulate entries. -/
def State.waitRuns (s : State) (r : CtxRef) (runs : List (SaeEntry × List Word)) : Verdict :=
  (s.gatesCpyf r (s.gatesBefore r [] [] (runs.map (·.1.id)))).andThen (.block false)

/-! ### Code fetch (R56, R313) -/

/-- One instruction word at a virtual address. -/
def State.fetchWord (s : State) (r : CtxRef) (va : Nat) : Except (Nat × Nat) (BitVec 64) × State :=
  match s.readGlobal (.die (dieOf r.core)) (s.tenantOf r) va 8 with
  | (.ok bs, s) => (.ok (wordOfBytes bs), s)
  | (.error e, s) => (.error e, s)

/-- A group formed from its stop bits. -/
inductive Formed
  | ok (words : List (BitVec 64))
  /-- A word that could not be fetched: sub-cause and address. -/
  | fault (sub va : Nat)
  /-- No stop bit in 11 words. -/
  | long
deriving DecidableEq, Repr

/-- Words up to and including the next with ST = 1; the fuel is the words that may still come. -/
def State.formFrom (s : State) (r : CtxRef) (va : Nat) : Nat → List (BitVec 64) → Formed × State
  | 0, _ => (.long, s)
  | n + 1, ws =>
    match s.fetchWord r va with
    | (.error (sub, a), s) => (.fault sub a, s)
    | (.ok w, s) =>
      if stopBit w then (.ok (ws ++ [w]), s) else s.formFrom r ((va + 8) % 2 ^ 64) n (ws ++ [w])

/-- The group at an address. -/
def State.formGroup (s : State) (r : CtxRef) (va : Nat) : Formed × State := s.formFrom r va 11 []

/-- The address after n groups from an address, or that of the first group that cannot be formed (R107). Log
23, DEDUCED. -/
def State.bodyEnd (s : State) (r : CtxRef) : Nat → Nat → Bool × Nat × State
  | 0, va => (true, va, s)
  | n + 1, va =>
    match s.formGroup r va with
    | (.ok ws, s) => State.bodyEnd s r n ((va + 8 * ws.length) % 2 ^ 64)
    | (_, s) => (false, va, s)

/-- The words of a span from an address upward: whether all could be fetched, the number of stop bits, and the length
of the run without one at its end, no such run reaching 11 (R95). -/
def State.scanSpan (s : State) (r : CtxRef) : Nat → Nat → Nat → Nat → Option (Nat × Nat) × State
  | 0, _, stops, run => (some (stops, run), s)
  | n + 1, va, stops, run =>
    match s.fetchWord r va with
    | (.error _, s) => (none, s)
    | (.ok w, s) =>
      if stopBit w then State.scanSpan s r n (va + 8) (stops + 1) 0
      else if 10 ≤ run then (none, s)
      else State.scanSpan s r n (va + 8) stops (run + 1)

end Sys2Proof.Machine
end

