-- ==== Sys2Proof/Machine/Control.lean ====
section
/-! DEFINITION. Class C but FENCE and TEND: branches, the nested-loop sequencer, LBR, TFENCE, marks, waits and calls
(R97 to R117). -/
namespace Sys2Proof.Machine

/-! ### Addresses -/

/-- The group address plus 8 times a signed count of words (R66). -/
def targetOf (at_ : Word) {w : Nat} (off : BitVec w) : Word := at_ + off.signExtend 64 * 8
/-- JOFF = JHI:JLO. -/
def joff (f : FmtJ) : BitVec 34 := f.jhi ++ f.jlo
/-- The address of the group after the one that issues. -/
def State.nextGroup (s : State) : Word := if s.iss.checked then s.iss.next else s.me.at_ + 8

/-- A branch taken: the target and the bubble groups owed (R95). -/
def State.branch (s : State) (target : Word) (bubbles : Nat) : State :=
  { s with iss := { s.iss with redirect := some target, bubbles := bubbles, taken := true } }

/-! ### NOP, LPAD, BR, BRC, BRM (R72, R99, R100, R105) -/

def execNop (g : Guard) (f : FmtJ) (s : State) : Result := issue (.nop g f) g s .ok id
def execLpad (g : Guard) (f : FmtJ) (s : State) : Result := issue (.lpad g f) g s .ok id

def doBr (f : FmtJ) (s : State) : State := s.branch (targetOf s.me.at_ (joff f)) 3
def execBr (g : Guard) (f : FmtJ) (s : State) : Result := issue (.br g f) g s .ok (doBr f)

/-- The condition of BRC: COND in JHI[17:13]. -/
def brcHolds (f : FmtJ) (c : Ctx) : Bool :=
  condWord (f.jhi.extractLsb' 13 5).toNat (c.x f.ja.toNat) (c.x f.jb.toNat)
def doBrc (f : FmtJ) (s : State) : State :=
  if brcHolds f s.me then s.branch (targetOf s.me.at_ (f.jhi.extractLsb' 0 13 ++ f.jlo)) 3 else s
def execBrc (g : Guard) (f : FmtJ) (s : State) : Result := issue (.brc g f) g s .ok (doBrc f)

def checkBrm (f : FmtJ) (s : State) : Verdict :=
  let m := s.me.mr f.ja.toNat
  trapIf (m != 0 && m != BitVec.allOnes 128) causeNUNI (f.ja.setWidth 64)
def doBrm (f : FmtJ) (s : State) : State :=
  if s.me.mr f.ja.toNat == 0 then s else s.branch (targetOf s.me.at_ (joff f)) 3
def execBrm (g : Guard) (f : FmtJ) (s : State) : Result := issue (.brm g f) g s (checkBrm f s) (doBrm f)

/-! ### PBR, BRT, RET, CALL (R96, R101 to R103) -/

/-- A b register written now: the cycle that counts for d. -/
def Ctx.markB (c : Ctx) (n : Nat) : Ctx :=
  match c.mode with
  | .supervisor => { c with sbAt := Sparse.put c.sbAt n c.hcyc }
  | _ => { c with bAt := Sparse.put c.bAt n c.ccyc }
/-- Context cycles since the b register was written (R96). -/
def Ctx.sinceB (c : Ctx) (n : Nat) : Nat :=
  match c.mode with
  | .supervisor => c.hcyc - Sparse.get 0 c.sbAt n
  | _ => c.ccyc - Sparse.get 0 c.bAt n

def pbrReg (f : FmtJ) : Nat := (f.ja.extractLsb' 0 2).toNat
def pbrValue (f : FmtJ) (c : Ctx) : Word :=
  targetOf (if f.ja.getLsbD 5 then c.a f.jb.toNat else c.at_) (joff f)
def doPbr (f : FmtJ) (s : State) : State :=
  (s.put 1 (.b (pbrReg f) (pbrValue f s.me)) Flags.none).setMe fun c => c.markB (pbrReg f)
def execPbr (g : Guard) (f : FmtJ) (s : State) : Result := issue (.pbr g f) g s .ok (doPbr f)

def checkBrt (f : FmtJ) (s : State) : Verdict :=
  let t := s.me.b f.ja.toNat
  trapIf (t &&& 7 != 0) causeALIGN t
def doBrt (f : FmtJ) (s : State) : State := s.branch (s.me.b f.ja.toNat) (4 - s.me.sinceB f.ja.toNat)
def execBrt (g : Guard) (f : FmtJ) (s : State) : Result := issue (.brt g f) g s (checkBrt f s) (doBrt f)
def execRet (g : Guard) (f : FmtJ) (s : State) : Result := issue (.ret g f) g s (checkBrt f s) (doBrt f)

def doCall (f : FmtJ) (s : State) : State :=
  ((s.put 1 (.b f.ja.toNat s.nextGroup) Flags.none).setMe fun c => c.markB f.ja.toNat).branch
    (targetOf s.me.at_ (joff f)) 3
def execCall (g : Guard) (f : FmtJ) (s : State) : Result := issue (.call g f) g s .ok (doCall f)

/-! ### JTB (R104) -/

def jtbEntry (f : FmtJ) (c : Ctx) : Word := c.a f.jb.toNat + 8 * c.x f.ja.toNat
def jtbTarget (f : FmtJ) (s : State) : Word :=
  wordOfBytes ((s.core s.cur.core).read (jtbEntry f s.me).toNat 8)
def checkJtb (f : FmtJ) (s : State) : Verdict :=
  let i := s.me.x f.ja.toNat
  let base := s.me.a f.jb.toNat
  let e := jtbEntry f s.me
  (trapIf (f.jhi.toNat ≤ i.toNat) causeJBND i).andThen <|
  (trapIf (base &&& 7 != 0) causeALIGN base).andThen <|
  (trapIf (!inScratch e.toNat 8) causeACCF e).andThen <|
  ((s.core s.cur.core).regionCheck s.cur.ctx [(e.toNat, 8)]).andThen <|
  trapIf (jtbTarget f s &&& 7 != 0) causeALIGN (jtbTarget f s)
def doJtb (f : FmtJ) (s : State) : State :=
  let s' := s.branch (jtbTarget f s) 8
  { s' with iss := { s'.iss with pad := some (s.me.at_, f.jlo) } }
def execJtb (g : Guard) (f : FmtJ) (s : State) : Result := issue (.jtb g f) g s (checkJtb f s) (doJtb f)

/-! ### LSEQ (R106, R107) -/

/-- Levels of a descriptor that is read: only those of LEVELS 1 to 6. -/
def lseqLevels (head : Nat) : Nat := if 1 ≤ head % 8 && head % 8 ≤ 6 then head % 8 else 0
/-- Descriptor bytes read at an address. -/
def lseqBytes (k : Core) (a : Nat) : List Byte := k.read a (8 + 24 * lseqLevels (leNat (k.read a 8)))
/-- A reserved byte or bit that is read of a descriptor is not zero (R106). -/
def lseqReserved (bs : List Byte) : Bool :=
  let head := fieldAt bs 0 8
  8 ≤ head || (List.range (lseqLevels head)).any fun l =>
    let o := 8 + 24 * l
    (List.range 3).any (fun j => byteAt bs (o + 4 + j) / 32 % 4 != 0) || byteAt bs (o + 7) != 0
      || !zeroAt bs (o + 20) 4
/-- A LEVELS of 0 or 7, or a reserved byte or bit that is not zero (R106 step 4). -/
def lseqBad (bs : List Byte) : Bool := lseqLevels (fieldAt bs 0 8) == 0 || lseqReserved bs

/-- Steps 1 to 4 of R106. TADDR of the ACCF of step 2 is the descriptor's address, a[JB]. Log 23, DEDUCED. -/
def checkLseq (f : FmtJ) (s : State) : Verdict :=
  let k := s.core s.cur.core
  let a := s.me.a f.jb.toNat
  let n := a.toNat
  let len := 8 + 24 * lseqLevels (leNat (k.read n 8))
  (trapIf (a &&& 7 != 0) causeALIGN a).andThen <|
  (trapIf (!inScratch n 8 || !inScratch n len) causeACCF a).andThen <|
  (k.regionCheck s.cur.ctx [(n, len)]).andThen <|
  trapIf (lseqBad (lseqBytes k n) || s.me.seq.active) causeILG (s.me.at_ + BitVec.ofNat 64 (8 * s.iss.pos))

/-- The sequencer starts its nest on the groups that follow; with a COUNT of 0 fetch goes past the body, and where the
body cannot be formed, to the group that cannot (R107). p6 and p7 stay as they are where no pass of the nest runs: the
sequencer has never become active, so it does not become inactive either (R108). Log 23, DEDUCED. -/
def doLseq (f : FmtJ) (s : State) : State :=
  let bs := lseqBytes (s.core s.cur.core) (s.me.a f.jb.toNat).toNat
  let n := (f.jhi.extractLsb' 0 8).toNat + 1
  let body := s.nextGroup
  let q : LoopSeq := { active := true, desc := bs, idx := [], base := body, n := n, g := 0 }
  let (formed, stop, s) := s.bodyEnd s.cur n body.toNat
  let go (s : State) (t : Word) : State :=
    { s with iss := { s.iss with redirect := some t, bubbles := 6, fresh := true } }
  if !formed || (List.range q.levels).any (fun l => q.count l == 0) then go s (BitVec.ofNat 64 stop)
  else go (s.setMe fun c => { c with seq := q }) body
def execLseq (g : Guard) (f : FmtJ) (s : State) : Result := issue (.lseq g f) g s (checkLseq f s) (doLseq f)

/-- p6 and p7 as a pass of the nest starts (R108). -/
def Ctx.passStart (c : Ctx) : Ctx :=
  c.onBank .program fun b =>
    (b.setP 6 (c.seq.active && c.seq.index 0 == 0)).setP 7 (c.seq.active && c.seq.index 0 + 1 == c.seq.count 0)
/-- The sequencer becomes inactive, and p6 and p7 false. Log 29, DEDUCED. -/
def Ctx.endNest (c : Ctx) : Ctx :=
  let c := { c with seq := { c.seq with active := false, g := 0 } }
  c.passStart

/-- The strides of one level (R107). -/
def Ctx.addStrides (c : Ctx) (l : Nat) : Ctx :=
  (List.range 3).foldl (fun c j =>
    let sreg := byteAt c.seq.desc (12 + 24 * l + j)
    if sreg / 128 == 1 then
      c.onBank .program fun b =>
        b.setA (sreg % 32) (Sparse.get 0 b.a (sreg % 32) + sextWord 32 (fieldAt c.seq.desc (16 + 24 * l + 4 * j) 4))
    else c) c

/-- The lowest level whose index is below its COUNT − 1. -/
def LoopSeq.advancing (q : LoopSeq) : Option Nat :=
  (List.range q.levels).find? fun l => q.index l + 1 < q.count l
/-- The indices of the next pass. -/
def LoopSeq.nextIdx (q : LoopSeq) (l : Nat) : Sparse Nat :=
  (List.range l).foldl (fun m i => Sparse.set 0 m i 0) (Sparse.set 0 q.idx l (q.index l + 1))

/-- LSEQ PASS ADVANCE (R107 to R109): after the results of the group's cycle have landed, the group index moves on; at
the end of a pass the indices advance, the strides are added and p6 and p7 are written, or the nest ends. Answers the
address of the next group when the sequencer brings it. -/
def Ctx.passAdvance (c : Ctx) : Ctx × Option Word :=
  if c.seq.g + 1 < c.seq.n then ({ c with seq := { c.seq with g := c.seq.g + 1 } }, none)
  else match c.seq.advancing with
    | some l =>
      let c := { c with seq := { c.seq with idx := c.seq.nextIdx l, g := 0 } }
      ((c.addStrides l).passStart, some c.seq.base)
    | none => (c.endNest, none)

/-! ### LBR (R110, R111) -/

/-- The next number in the rotating sets a24 to a31 and p8 to p15. -/
def rotA (n : Nat) : Nat := if 24 ≤ n && n < 31 then n + 1 else if n == 31 then 24 else n
def rotP (n : Nat) : Nat := if 8 ≤ n && n < 15 then n + 1 else if n == 15 then 8 else n
def Effect.rotate : Effect → Effect
  | .a n val => .a (rotA n) val
  | .p n val => .p (rotP n) val
  | .part 1 n val we => .part 1 (rotA n) val we
  | .part 2 n val we => .part 2 (rotP n) val we
  | other => other
/-- The registers of the rotating sets move up by one, with the results in flight to them. -/
def Ctx.rotate (c : Ctx) : Ctx :=
  let b := c.bank
  let a := (List.range 8).foldl (fun m i => Sparse.set 0 m (rotA (24 + i)) (Sparse.get 0 b.a (24 + i))) b.a
  let p := (List.range 8).foldl (fun q i => setPred q (rotP (8 + i)) (b.p.getLsbD (8 + i))) b.p
  { c with
    bank := { b with a := a, p := p }
    line := c.line.map fun r => { r with eff := r.eff.rotate } }

/-- Bubble groups of a taken LBR (R95). -/
def State.lbrBubbles (s : State) (target : Word) : Nat × State :=
  let at_ := s.me.at_
  if at_.toNat ≤ target.toNat || 256 * 11 * 8 < at_.toNat - target.toNat || target &&& 7 != 0 then (3, s)
  else
    let own := (s.nextGroup - at_).toNat / 8
    match s.scanSpan s.cur ((at_.toNat - target.toNat) / 8) target.toNat 0 0 with
    | (some (stops, run), s) => (if stops + 1 ≤ 256 && run + own ≤ 11 then 0 else 3, s)
    | (none, s) => (3, s)

def doLbr (f : FmtJ) (s : State) : State :=
  let lc := s.me.x f.ja.toNat
  let ec := s.me.x f.jb.toNat
  let turn (s : State) (n : Nat) (v : Word) (p8 : Bool) : State :=
    (s.put 1 (.x n v) Flags.none).setMe fun c => (c.rotate).onBank .program fun b => b.setP 8 p8
  let target := targetOf s.me.at_ (joff f)
  let take (s : State) : State :=
    let (n, s) := s.lbrBubbles target
    s.branch target n
  if lc != 0 then take (turn s f.ja.toNat (lc - 1) true)
  else if (1#64).ult ec then take (turn s f.jb.toNat (ec - 1) false)
  else if ec == 1 then turn s f.jb.toNat 0 false
  else s
def execLbr (g : Guard) (f : FmtJ) (s : State) : Result := issue (.lbr g f) g s .ok (doLbr f)

/-! ### TFENCE, PMARK, YIELD, TWAIT (R112 to R116) -/

/-- TFENCE spends bubble groups until every earlier result has landed, then tests the flags (R112). PMOVR and EARLY are
tested before the first of them only (R114, R371). Log 24, DEDUCED. -/
def checkTfence (f : FmtJ) (s : State) : Verdict :=
  if s.me.line.isEmpty then tfenceVerdict s.me.sticky f.jlo else .bubble
def execTfence (g : Guard) (f : FmtJ) (s : State) : Result := issue (.tfence g f) g s (checkTfence f s) id

/-- PMCNT falls to 0 with the mark; the switches of the mark come before its group (R114, R372). -/
def doPmark (s : State) : State := s.setMe fun c => { c with pmcnt := 0 }
def execPmark (g : Guard) (f : FmtJ) (s : State) : Result := issue (.pmark g f) g s .ok doPmark

def doYield (s : State) : State := { s with iss := { s.iss with pass := true } }
def execYield (g : Guard) (f : FmtJ) (s : State) : Result := issue (.yield g f) g s .ok doYield

def checkTwait (f : FmtJ) (s : State) : Verdict :=
  if s.coreTime s.cur.core < (s.me.x f.ja.toNat).toNat then .block true else .ok
def execTwait (g : Guard) (f : FmtJ) (s : State) : Result := issue (.twait g f) g s (checkTwait f s) id

/-! ### TRAP and SVC (R117) -/

/-- The trap is entered after the group has issued. -/
def doCode (cause : Nat) (f : FmtJ) (s : State) : State :=
  { s with iss := { s.iss with trap := some (cause, f.jlo.toNat) } }
/-- By itself, the word is a group of its own: it issues, a context cycle passes, results land, and the trap is
taken with EPC at the next group. -/
def enterCode (cause : Nat) (f : FmtJ) (s : State) : State :=
  let s := (s.setMe Ctx.tick).landResults s.cur
  let s := s.landArrays s.cur
  s.takeTrap s.cur { cause := cause, ccause := 0, tsub := 0, chan := 0, code := f.jlo.toNat, addr := 0 } (s.me.at_ + 8)
def performCode (cause : Nat) (f : FmtJ) (s : State) : State :=
  if s.iss.checked then doCode cause f s else enterCode cause f s
def execTrap (g : Guard) (f : FmtJ) (s : State) : Result := issue (.trap g f) g s .ok (performCode causeTRAP f)
def execSvc (g : Guard) (f : FmtJ) (s : State) : Result := issue (.svc g f) g s .ok (performCode causeSVC f)

end Sys2Proof.Machine
end

