-- ==== Sys2Proof/Machine/Commands.lean ====
section
/-! DEFINITION. Bindings (R295), and the waits of releases (R296). -/
namespace Sys2Proof.Machine

/-! ### Bindings and releases (R295, R296) -/

/-- Bytes [31:0] of the sync reference of a word of a core. -/
def State.syncRef (s : State) (core idx : Nat) : BitVec 32 :=
  BitVec.ofNat 32 (idx + 2 ^ 16 * coreX core + 2 ^ 24 * coreY core + 2 ^ 28 * s.mod.number)

/-- A local byte range that starts at an address of a core, as the core of a sync reference sees it: the cluster SRAM is
one to the cores of a cluster (R209, R295). -/
def seenAt (ref : BitVec 32) (module core a : Nat) : Bool :=
  let at_ := refCore ref.toNat
  refModule ref.toNat == module && (at_ == core || (clusterBase ≤ a && clusterOf at_ == clusterOf core))
/-- A byte of a range lies in a region bound to a word; a local range is that of a core. -/
def Ctx.boundTo (c : Ctx) (ref : BitVec 32) (glob : Bool) (module core a n : Nat) : Bool :=
  c.binds.any fun b =>
    let lensp := b.2.2
    b.2.1 == ref && lensp.getLsbD 30 == glob && (glob || seenAt ref module core a)
      && rangesMeet b.1 (128 * bits lensp 0 30) a n
/-- An enabled byte of a remote write is bound to a word. -/
def Ctx.writeBound (c : Ctx) (ref : BitVec 32) (w : RemoteWrite) : Bool :=
  (List.range w.bytes.length).any fun j => w.we.getLsbD j && c.boundTo ref false w.module w.core (w.addr + j) 1
/-- A write range of a command is bound to a word. -/
def Ctx.cmdBound (c : Ctx) (ref : BitVec 32) (module core : Nat) (k : Cmd) : Bool :=
  k.ranges.any fun x => x.write && c.boundTo ref x.glob module core x.addr x.len
def Ctx.runBound (c : Ctx) (ref : BitVec 32) (module core : Nat) (e : SaeEntry) : Bool :=
  c.boundTo ref false module core e.addr (szBytes e.sz)

/-- The remote writes that a release of a word waits for; an RWS does not wait for those to its own target. -/
def State.releaseWrites (s : State) (r : CtxRef) (ref : BitVec 32) (skipCore : Option Nat) : List RemoteWrite :=
  let c := s.ctx r
  let own : Option (Nat × Nat) := skipCore.map fun k => (refModule ref.toNat, k)
  (c.rwq ++ s.cores.flatMap fun k => k.2.incoming.filter (·.src == r)).filter fun w =>
    own != some (w.module, w.core) && c.writeBound ref w
/-- Some write of a command has not been performed: it moves units, or a host has yet to take one (R392). -/
def State.writesLeft (s : State) (k : Cmd) : Bool :=
  k.state ≠ .finished || s.ports.any fun p => p.2.writes.any fun w => w.cmd == some k.id
/-- The commands of class K whose writes it waits for. -/
def State.releaseCmds (s : State) (r : CtxRef) (ref : BitVec 32) : List Cmd :=
  (s.ctxCmds r).filter fun k => !k.isE && s.writesLeft k && (s.ctx r).cmdBound ref s.mod.number r.core k
/-- The runs of closed windows that it waits for. -/
def State.releaseRuns (s : State) (r : CtxRef) (ref : BitVec 32) : List (SaeEntry × List Word) :=
  ((s.ctx r).saeClosed.flatMap SaeWindow.runs).filter fun e => (s.ctx r).runBound ref s.mod.number r.core e.1
/-- A release of a word blocks while an earlier G, K or closed-window E write bound to it has not been performed; an
RWS does not wait for the remote writes to its own target (R296). -/
def State.releaseBlocked (s : State) (r : CtxRef) (ref : BitVec 32) (skipCore : Option Nat) : Bool :=
  !(s.releaseWrites r ref skipCore).isEmpty || !(s.releaseCmds r ref).isEmpty || !(s.releaseRuns r ref).isEmpty
/-- What a release meets: CPYF where a gate whose snapshot holds a stopped command holds what it waits for, else a block
while it waits (R296, R305). -/
def State.checkRelease (s : State) (r : CtxRef) (ref : BitVec 32) (skipCore : Option Nat) : Verdict :=
  if s.releaseBlocked r ref skipCore then
    (s.gatesCpyf r (s.gatesBefore r (s.releaseCmds r ref) (s.releaseWrites r ref skipCore)
      ((s.releaseRuns r ref).map (·.1.id)))).andThen (.block false)
  else .ok

end Sys2Proof.Machine
end

