-- ==== Sys2Proof/Machine/LocalFamily.lean ====
section
/-! DEFINITION. Class L: loads and stores (R218 to R224), remote and timed writes (R225 to R227, R270 to R278), sync
words (R228 to R233) and the scatter-accumulate queue (R234 to R238). -/
namespace Sys2Proof.Machine

/-- A check of several parts of which any trap comes before any wait. -/
def Verdict.allOf (vs : List Verdict) : Verdict :=
  match vs.find? (fun v => match v with
    | .trap _ => true
    | _ => false) with
  | some t => t
  | none => (vs.find? (· != .ok)).getD .ok

/-- The core of the running context. -/
def State.here (s : State) : Core := s.core s.cur.core

/-! ### Checks of R220 -/

/-- Steps 1 to 3 on scratchpad data or, for a load, the sync page; a store meets only RAW blocks (R262). -/
def checkLocalAt (load : Bool) (a : Word) (size lo n : Nat) (s : State) : Verdict :=
  let b := a.toNat + lo
  (trapIf (a.toNat % size != 0) causeALIGN a).andThen <|
  (trapIf (!inScratch b n && !(load && inSync b n)) causeACCF a).andThen <|
  (if inScratch b n then s.here.regionCheck s.cur.ctx [(b, n)] else .ok).andThen <|
  if load then .ok else s.reliefStoreCheck s.cur.core b n
/-- The same on cluster SRAM (R217, R224). -/
def checkClusterAt (load : Bool) (a : Word) (size lo n : Nat) (s : State) : Verdict :=
  let b := a.toNat + lo
  (trapIf (a.toNat % size != 0) causeALIGN a).andThen <|
  (trapIf (!s.me.inCluster b n) causeACCF a).andThen <|
  if load then .ok else s.reliefStoreCheck s.cur.core b n
/-- These checks, and then the gates on the whole access (R304). -/
def checkLocal (load : Bool) (a : Word) (size lo n : Nat) (s : State) : Verdict :=
  (checkLocalAt load a size lo n s).andThen (s.gateL s.cur [(a.toNat + lo, n)])
def checkCluster (load : Bool) (a : Word) (size lo n : Nat) (s : State) : Verdict :=
  (checkClusterAt load a size lo n s).andThen (s.gateL s.cur [(a.toNat + lo, n)])

/-- First enabled byte of a byte mask and the length up to the last; nothing when no byte is enabled. Log 26,
DEDUCED. -/
def maskSpan (m : BitVec 128) : Option (Nat × Nat) :=
  match (List.range 128).find? fun j => m.getLsbD j with
  | none => none
  | some lo =>
    let hi := 127 - ((List.range 128).find? fun j => m.getLsbD (127 - j)).getD 0
    some (lo, hi + 1 - lo)
/-- The enabled bytes of a line. -/
def maskBytes (a : Word) (m : BitVec 128) : List (Nat × Nat) :=
  ((List.range 128).filter fun j => m.getLsbD j).map fun j => (a.toNat + j, 1)
/-- The address is tested whatever the mask (R220, step 1); a masked-off byte is not checked, nor held at a gate, and a
region refuses the line at its lowest enabled byte, not at A. Log 26, DEDUCED. -/
def checkLine (check : Word → Nat → Nat → Nat → State → Verdict) (a : Word) (m : BitVec 128) (s : State) : Verdict :=
  match maskSpan m with
  | none => trapIf (a.toNat % 128 != 0) causeALIGN a
  | some (lo, n) => (check a 128 lo n s).andThen (s.gateL s.cur (maskBytes a m))

/-! ### Scalar and line accesses (R221, R222, R224) -/

/-- A loaded number extended to a register (R221). -/
def extend (size : Nat) (unsigned : Bool) (v : Nat) : Word :=
  if unsigned || size == 8 then BitVec.ofNat 64 v else sextWord (8 * size) v
/-- The register that a scalar load writes. -/
def loadDst (f : FmtL) (v : Word) : Effect :=
  if f.sz == 3 && f.lx.getLsbD 1 then .a f.dt.toNat v else .x f.dt.toNat v
def loadScalar (lat : Nat) (f : FmtL) (a : Word) (s : State) : State :=
  let n := szBytes f.sz
  s.put lat (loadDst f (extend n (f.lx.getLsbD 0) (leNat (s.localRead s.cur.core a.toNat n)))) Flags.none
def loadLine (lat : Nat) (f : FmtL) (a : Word) (s : State) : State :=
  let m := s.me.mr f.msk.toNat
  s.put lat (.v f.dt.toNat (vecOfBytes (s.localRead s.cur.core a.toNat 128)) m) Flags.none

/-- The number that a scalar store moves. -/
def storeWord (f : FmtL) (c : Ctx) : Word :=
  if f.sz == 3 && f.lx.getLsbD 1 then c.a f.dt.toNat else c.x f.dt.toNat
def storeScalar (f : FmtL) (a : Word) (s : State) : State :=
  let n := szBytes f.sz
  s.localStore s.cur.core a.toNat (allBytes n) (natBytes n (storeWord f s.me).toNat)
def storeLine (f : FmtL) (a : Word) (s : State) : State :=
  s.localStore s.cur.core a.toNat (s.me.mr f.msk.toNat).toNat (vecBytes (s.me.vr f.dt.toNat))

def checkLd (f : FmtL) (s : State) : Verdict := checkLocal true (s.me.addrL f) (szBytes f.sz) 0 (szBytes f.sz) s
def checkSt (f : FmtL) (s : State) : Verdict := checkLocal false (s.me.addrL f) (szBytes f.sz) 0 (szBytes f.sz) s
def doLd (f : FmtL) (s : State) : State := loadScalar 6 f (s.me.addrL f) s
def doSt (f : FmtL) (s : State) : State := storeScalar f (s.me.addrL f) s

def execLdb (g : Guard) (f : FmtL) (s : State) : Result := issue (.ldb g f) g s (checkLd f s) (doLd f)
def execLdh (g : Guard) (f : FmtL) (s : State) : Result := issue (.ldh g f) g s (checkLd f s) (doLd f)
def execLdw (g : Guard) (f : FmtL) (s : State) : Result := issue (.ldw g f) g s (checkLd f s) (doLd f)
def execLdd (g : Guard) (f : FmtL) (s : State) : Result := issue (.ldd g f) g s (checkLd f s) (doLd f)
def execStb (g : Guard) (f : FmtL) (s : State) : Result := issue (.stb g f) g s (checkSt f s) (doSt f)
def execSth (g : Guard) (f : FmtL) (s : State) : Result := issue (.sth g f) g s (checkSt f s) (doSt f)
def execStw (g : Guard) (f : FmtL) (s : State) : Result := issue (.stw g f) g s (checkSt f s) (doSt f)
def execStd (g : Guard) (f : FmtL) (s : State) : Result := issue (.std g f) g s (checkSt f s) (doSt f)

def checkVld (f : FmtL) (s : State) : Verdict :=
  checkLine (checkLocalAt true) (s.me.addrL f) (s.me.mr f.msk.toNat) s
def checkVst (f : FmtL) (s : State) : Verdict :=
  checkLine (checkLocalAt false) (s.me.addrL f) (s.me.mr f.msk.toNat) s
def doVld (f : FmtL) (s : State) : State := loadLine 6 f (s.me.addrL f) s
def doVst (f : FmtL) (s : State) : State := storeLine f (s.me.addrL f) s
def execVld (g : Guard) (f : FmtL) (s : State) : Result := issue (.vld g f) g s (checkVld f s) (doVld f)
def execVst (g : Guard) (f : FmtL) (s : State) : Result := issue (.vst g f) g s (checkVst f s) (doVst f)

def checkCl (load : Bool) (f : FmtL) (s : State) : Verdict :=
  if f.sz == 6 then checkLine (checkClusterAt load) (s.me.addrL f) (s.me.mr f.msk.toNat) s
  else checkCluster load (s.me.addrL f) (szBytes f.sz) 0 (szBytes f.sz) s
def doCld (f : FmtL) (s : State) : State :=
  if f.sz == 6 then loadLine 14 f (s.me.addrL f) s else loadScalar 14 f (s.me.addrL f) s
def doCst (f : FmtL) (s : State) : State :=
  if f.sz == 6 then storeLine f (s.me.addrL f) s else storeScalar f (s.me.addrL f) s
def execCld (g : Guard) (f : FmtL) (s : State) : Result := issue (.cld g f) g s (checkCl true f s) (doCld f)
def execCst (g : Guard) (f : FmtL) (s : State) : Result := issue (.cst g f) g s (checkCl false f s) (doCst f)

/-! ### Strided lanes (R223) -/

/-- Lane width in bits from LX[1:0]. -/
def strideWidth (f : FmtL) : Nat := 8 * 2 ^ (f.lx.extractLsb' 0 2).toNat
/-- The enabled lanes with their addresses, in increasing lane order. -/
def stridedLanes (f : FmtL) (c : Ctx) : List (Nat × Word) :=
  let w := strideWidth f
  let m := c.mr f.msk.toNat
  ((List.range (1024 / w)).filter (laneOn w m)).map fun i =>
    (i, c.addrBase f + BitVec.ofNat 64 i * c.x f.idx.toNat)
/-- A region refuses a strided access at the address of its first failing lane. Log 26, DEDUCED. -/
def checkStrided (load : Bool) (f : FmtL) (s : State) : Verdict :=
  let n := strideWidth f / 8
  Verdict.allOf ((stridedLanes f s.me).map fun l => checkLocal load l.2 n 0 n s)
def doVlds (f : FmtL) (s : State) : State :=
  let w := strideWidth f
  let ls := stridedLanes f s.me
  let bits := ls.foldl (fun acc l => acc + leNat (s.localRead s.cur.core l.2.toNat (w / 8)) * 2 ^ (w * l.1)) 0
  s.put 6 (.v f.dt.toNat (BitVec.ofNat 1024 bits) (laneBytes w (laneOn w (s.me.mr f.msk.toNat)))) Flags.none
def doVsts (f : FmtL) (s : State) : State :=
  let w := strideWidth f
  let v := s.me.vr f.dt.toNat
  (stridedLanes f s.me).foldl (fun s l =>
    s.localStore s.cur.core l.2.toNat (allBytes (w / 8)) (natBytes (w / 8) (lane w v l.1))) s
def execVlds (g : Guard) (f : FmtL) (s : State) : Result := issue (.vlds g f) g s (checkStrided true f s) (doVlds f)
def execVsts (g : Guard) (f : FmtL) (s : State) : Result := issue (.vsts g f) g s (checkStrided false f s) (doVsts f)

/-! ### Remote writes (R225 to R227) -/

def rwinX (w : Word) : Nat := bits w 0 6
def rwinY (w : Word) : Nat := bits w 8 4
def rwinM (w : Word) : Nat := bits w 12 4
/-- The bytes that a format-L store moves, and their enables. -/
def storeBytes (f : FmtL) (c : Ctx) : List Byte :=
  if f.sz == 6 then vecBytes (c.vr f.dt.toNat) else natBytes (szBytes f.sz) (storeWord { f with lx := 0 } c).toNat
def storeEnable (f : FmtL) (c : Ctx) : BitVec 128 :=
  if f.sz == 6 then c.mr f.msk.toNat else BitVec.ofNat 128 (allBytes (szBytes f.sz))
def storeSpan (f : FmtL) (c : Ctx) : Option (Nat × Nat) := maskSpan (storeEnable f c)

/-- The window of LX[1:0]. -/
def windowOf (f : FmtL) (c : Ctx) : Word := Sparse.get 0 c.rwin (f.lx.extractLsb' 0 2).toNat
/-- The conditions of R226 but for the sync index. -/
def windowRefuses (w : Word) (a : Nat) (span : Option (Nat × Nat)) : Bool :=
  !w.getLsbD 63 || (match span with
    | none => false
    | some (lo, n) =>
      a + lo < 4096 * bits w 16 9 || 4096 * (bits w 16 9 + bits w 32 10) < a + lo + n || scratchEnd < a + lo + n)
def queueFull (c : Ctx) : Bool := 16 ≤ c.rwq.length

def checkRemote (a : Word) (f : FmtL) (s : State) : Verdict :=
  let c := s.me
  (trapIf (a.toNat % szBytes f.sz != 0) causeALIGN a).andThen <|
  trapIf (windowRefuses (windowOf f c) a.toNat (storeSpan f c)) causeACCF a

/-- The bytes of a format-L store that a gate can hold. -/
def storeGate (a : Word) (f : FmtL) (c : Ctx) : List (Nat × Nat) :=
  if f.sz == 6 then maskBytes a (c.mr f.msk.toNat) else [(a.toNat, szBytes f.sz)]
/-- A write needs a place of the queue (R226). -/
def checkQueue (s : State) : Verdict := if queueFull s.me then s.fullQueue s.cur else .ok

/-- A write enters the context's remote-write queue, and its flit leaves (R284, R285). -/
def pushRemote (a : Word) (arrive time late : Option Nat) (f : FmtL) (s : State) : State :=
  let c := s.me
  let w := windowOf f c
  let target := coreAt (rwinX w) (rwinY w)
  let (id, s) := s.fresh
  let at_ := s.flitReady s.cur (rwinM w) target
  let r : RemoteWrite :=
    { id := id, src := s.cur, tenant := s.tenantOf s.cur, lambda := c.mlambda.toNat, module := rwinM w, core := target
      addr := a.toNat, bytes := storeBytes f c, we := storeEnable f c, arrive := arrive, time := time, late := late
      ready := at_.1, atPort := false, store := false }
  let s := if at_.2.isNone then s.admitted s.cur.core else s
  s.setMe fun c => { c.sendFlit at_.2 with rwq := c.rwq ++ [r] }

def checkRwr (f : FmtL) (s : State) : Verdict :=
  (checkRemote (s.me.addrL f) f s).andThen (checkQueue s)
def doRwr (f : FmtL) (s : State) : State := pushRemote (s.me.addrL f) none none none f s
def execRwr (g : Guard) (f : FmtL) (s : State) : Result := issue (.rwr g f) g s (checkRwr f s) (doRwr f)

/-- The sync reference of the word that an RWS names. -/
def rwsRef (f : FmtL) (s : State) : BitVec 32 :=
  let w := windowOf f s.me
  BitVec.ofNat 32 (bits (s.me.x f.idx.toNat) 0 9 + 2 ^ 16 * rwinX w + 2 ^ 24 * rwinY w + 2 ^ 28 * rwinM w)
def checkRws (f : FmtL) (s : State) : Verdict :=
  let a := s.me.addrBase f
  let w := windowOf f s.me
  (checkRemote a f s).andThen <|
  (trapIf (512 ≤ (s.me.x f.idx.toNat).toNat) causeACCF a).andThen <|
  (checkQueue s).andThen <|
  s.checkRelease s.cur (rwsRef f s) (some (coreAt (rwinX w) (rwinY w)))
def doRws (f : FmtL) (s : State) : State :=
  pushRemote (s.me.addrBase f) (some (bits (s.me.x f.idx.toNat) 0 9)) none none f s
def execRws (g : Guard) (f : FmtL) (s : State) : Result := issue (.rws g f) g s (checkRws f s) (doRws f)

/-! ### Timed accesses (R270 to R278) -/

def timeOf (f : FmtL) (c : Ctx) : Nat := (c.x f.idx.toNat).toNat

/-- LDNB: the address checks come first and trap precisely; then the wait, a timed one, and the region check (R272). -/
def checkLdnb (f : FmtL) (s : State) : Verdict :=
  let a := s.me.addrBase f
  let n := szBytes f.sz
  let span := if f.sz == 6 then maskSpan (s.me.mr f.msk.toNat) else some (0, n)
  (trapIf (a.toNat % n != 0) causeALIGN a).andThen <|
  match span with
  | none => if s.coreTime s.cur.core < timeOf f s.me then .block true else .ok
  | some (lo, k) =>
    let b := a.toNat + lo
    (trapIf (!inScratch b k && !inSync b k) causeACCF a).andThen <|
    (Verdict.allOf [if inScratch b k then s.here.regionCheck s.cur.ctx [(b, k)] else .ok,
      if s.coreTime s.cur.core < timeOf f s.me then .block true else .ok]).andThen <|
    s.gateL s.cur (storeGate a f s.me)
def doLdnb (f : FmtL) (s : State) : State :=
  if f.sz == 6 then loadLine 6 f (s.me.addrBase f) s else loadScalar 6 f (s.me.addrBase f) s
def execLdnb (g : Guard) (f : FmtL) (s : State) : Result := issue (.ldnb g f) g s (checkLdnb f s) (doLdnb f)

/-- MDL and MDLINFO for one late store: COUNT rises, and the first one fills the other fields (R269, R275). -/
def lateInfo (word : Option Nat) (remote : Bool) (module core : Nat) : Word :=
  field 16 (word.getD 0) ||| bitIf 25 word.isSome ||| bitIf 26 remote ||| field 32 (coreX core) ||| field 40 (coreY core)
    ||| field 44 module
/-- Log 22, DEDUCED. -/
def Ctx.countLate (c : Ctx) (info : Word) : Ctx :=
  let n := bits c.mdlinfo 0 16
  { c with
    sticky := c.sticky ||| Flags.mdl
    mdlinfo := if n == 0 then info ||| 1 else (c.mdlinfo &&& ~~~0xFFFF#64) ||| BitVec.ofNat 64 (min (n + 1) 0xFFFF) }

/-- The order of R276: T, then the issuing core, then the order of issue. -/
def RemoteWrite.before (a b : RemoteWrite) : Bool :=
  let ka := (a.time.getD 0, a.src.core, a.id)
  let kb := (b.time.getD 0, b.src.core, b.id)
  ka.1 < kb.1 || (ka.1 == kb.1 && (ka.2.1 < kb.2.1 || (ka.2.1 == kb.2.1 && ka.2.2 < kb.2.2)))
/-- Byte j of a write falls on an enabled byte of another. -/
def RemoteWrite.coveredBy (w v : RemoteWrite) (j : Nat) : Bool :=
  v.addr ≤ w.addr + j && w.addr + j < v.addr + v.bytes.length && v.we.getLsbD (w.addr + j - v.addr)
/-- The timed writes performed at a core in its present cycle, each with its instant. -/
def State.timedRecent (s : State) (core : Nat) : List RemoteWrite :=
  (s.core core).timedNow.filter fun v => s.now < v.ready + Config.corePeriod (s.die (dieOf core)).step
/-- Two remote writes of one context, which are performed in issue order whatever their times (R276). -/
def RemoteWrite.sameStream (a b : RemoteWrite) : Bool := a.src == b.src && !a.store && !b.store
/-- The bytes that a timed write leaves at its target: those on which none of its cycle that comes after it in the order of
R276 has been performed. -/
def State.timedEnable (s : State) (core : Nat) (w : RemoteWrite) : BitVec 128 :=
  let later := (s.timedRecent core).filter fun v => w.before v && !w.sameStream v
  if later.isEmpty then w.we
  else (List.range 128).foldl (fun m j => if later.any (w.coveredBy · j) then m &&& ~~~(1#128 <<< j) else m) w.we
/-- The bytes of a write stored under enables; an encoded block is demoted first (R262), and a sealed one keeps its
bytes. -/
def State.lineStore (s : State) (core a : Nat) (we : BitVec 128) (bs : List Byte) : State :=
  if s.localRelief core a == 0 then s.localStore core a we.toNat bs
  else match s.readData (s.core core).dict (.loc core a) bs.length with
    | none => s
    | some old =>
      match s.writeData (.loc core a) (bs.zipIdx.map fun x => if we.getLsbD x.2 then x.1 else old.getD x.2 0) with
      | .ok t => t
      | .error _ => s

/-- The sync words that late writes have named get LATE (R231, R275). -/
def Core.markLate (k : Core) : Core :=
  { k.lateNow.foldl (fun k i => k.setSync i (swLate (k.syncWord i))) k with lateNow := [] }
def State.markLate (s : State) (core : Nat) : State := s.modCore core Core.markLate
/-- A timed write performed at its target now: the bytes, and when it is late the word to mark and the notice (R274, R275). -/
def State.performTimed (s : State) (core : Nat) (w : RemoteWrite) (own : Bool) : State :=
  let s := s.lineStore core w.addr (s.timedEnable core w) w.bytes
  let s := s.modCore core fun k => { k with timedNow := s.timedRecent core ++ [{ w with ready := s.now }] }
  let t := w.time.getD 0
  if t + w.lambda < s.coreTime core then
    let s := s.modCore core fun k => { k with lateNow := k.lateNow ++ w.late.toList }
    let info := lateInfo w.late (!own) s.mod.number core
    if own then s.modCtx w.src fun c => c.countLate info
    else s.sendMsg core w.src.core (.late w.src info)
  else s

/-- STVA: a time that has passed lets the store perform in its issue cycle; otherwise it waits in the buffer (R273,
R274). -/
def checkStva (f : FmtL) (s : State) : Verdict :=
  let a := s.me.addrTimed f
  (match storeSpan f s.me with
    | none => trapIf (a.toNat % szBytes f.sz != 0) causeALIGN a
    | some (lo, n) => (checkLocalAt false a (szBytes f.sz) lo n s).andThen (s.gateL s.cur (storeGate a f s.me))).andThen <|
  blockIf (16 ≤ s.me.stva.length)
def doStva (f : FmtL) (s : State) : State :=
  let c := s.me
  let (id, s) := s.fresh
  let w : RemoteWrite :=
    { id := id, src := s.cur, tenant := s.tenantOf s.cur, lambda := c.mlambda.toNat, module := s.mod.number
      core := s.cur.core, addr := (c.addrTimed f).toNat, bytes := storeBytes f c, we := storeEnable f c, arrive := none
      time := some (timeOf f c), late := if f.lx.getLsbD 2 then some (syncOf f) else none, ready := s.now, atPort := false
      store := true }
  if timeOf f c ≤ s.coreTime s.cur.core then s.performTimed s.cur.core w true
  else s.setMe fun c => { c with stva := c.stva ++ [w] }
def execStva (g : Guard) (f : FmtL) (s : State) : Result := issue (.stva g f) g s (checkStva f s) (doStva f)

def checkRwva (f : FmtL) (s : State) : Verdict :=
  (checkRemote (s.me.addrTimed f) f s).andThen (checkQueue s)
def doRwva (f : FmtL) (s : State) : State :=
  pushRemote (s.me.addrTimed f) none (some (timeOf f s.me)) (if f.lx.getLsbD 2 then some (syncOf f) else none) f s
def execRwva (g : Guard) (f : FmtL) (s : State) : Result := issue (.rwva g f) g s (checkRwva f s) (doRwva f)

/-! ### Sync instructions (R228 to R233) -/

def syncWordAt (a : Word) (s : State) : Word := s.here.syncWord (syncIndex a.toNat)
/-- ALIGN, then ACCF outside the sync page. -/
def checkSyncAddr (a : Word) : Verdict :=
  (trapIf (a &&& 7 != 0) causeALIGN a).andThen (trapIf (!inSync a.toNat 8) causeACCF a)
/-- The kinds that an arrival accepts: not version (R229). -/
def checkArrive (f : FmtL) (s : State) : Verdict :=
  let a := s.me.addrL f
  (checkSyncAddr a).andThen (trapIf (swKind (syncWordAt a s) == 2) causeSYNCP a)
def setSyncAt (a : Word) (w : Word) (s : State) : State :=
  s.modCore s.cur.core fun k => k.setSync (syncIndex a.toNat) w
def doArrive (f : FmtL) (s : State) : State :=
  let a := s.me.addrL f
  setSyncAt a (swArrive (syncWordAt a s)) s
def execSarr (g : Guard) (f : FmtL) (s : State) : Result := issue (.sarr g f) g s (checkArrive f s) (doArrive f)

def checkSrel (f : FmtL) (s : State) : Verdict :=
  (checkArrive f s).andThen <|
  s.checkRelease s.cur (s.syncRef s.cur.core (syncIndex (s.me.addrL f).toNat)) none
def execSrel (g : Guard) (f : FmtL) (s : State) : Result := issue (.srel g f) g s (checkSrel f s) (doArrive f)

/-- SWAIT waits for the condition of R232; the word tested is given, since an L1 instruction tests it as L0 leaves
it (R231). -/
def checkSwaitOn (f : FmtL) (s : State) (tested : Word) : Verdict :=
  (checkSyncAddr (s.me.addrL f)).andThen (blockIf (!swSatisfied tested (s.me.x f.dt.toNat)))
def checkSwait (f : FmtL) (s : State) : Verdict := checkSwaitOn f s (syncWordAt (s.me.addrL f) s)
def execSwait (g : Guard) (f : FmtL) (s : State) : Result := issue (.swait g f) g s (checkSwait f s) id

def sacqNeed (f : FmtL) (c : Ctx) : Nat := bits (c.x f.dt.toNat) 0 32
def checkSacqOn (f : FmtL) (s : State) (tested : Word) : Verdict :=
  let a := s.me.addrL f
  (checkSyncAddr a).andThen <|
  (trapIf (swKind (syncWordAt a s) != 3) causeSYNCP a).andThen (blockIf (swCount tested < sacqNeed f s.me))
def checkSacq (f : FmtL) (s : State) : Verdict := checkSacqOn f s (syncWordAt (s.me.addrL f) s)
def doSacq (f : FmtL) (s : State) : State :=
  let a := s.me.addrL f
  let w := syncWordAt a s
  setSyncAt a (swSetCount w (swCount w - sacqNeed f s.me)) s
def execSacq (g : Guard) (f : FmtL) (s : State) : Result := issue (.sacq g f) g s (checkSacq f s) (doSacq f)

/-- SSET refuses a barrier value whose TARGET is 0 or whose COUNT reaches it (R233). -/
def checkSset (f : FmtL) (s : State) : Verdict :=
  let a := s.me.addrL f
  let v := s.me.x f.dt.toNat
  (checkSyncAddr a).andThen <|
  trapIf (swKind v == 1 && (swTarget v == 0 || swTarget v ≤ swCount v)) causeSYNCP a
def doSset (f : FmtL) (s : State) : State := setSyncAt (s.me.addrL f) (swMask (s.me.x f.dt.toNat)) s
def execSset (g : Guard) (f : FmtL) (s : State) : Result := issue (.sset g f) g s (checkSset f s) (doSset f)

/-! ### The scatter-accumulate queue (R234 to R238) -/

/-- Why an entry is refused: 1 misaligned, 2 outside, 3 sync page, 4 region not owned; 0 when it is accepted or
waits. Log 27, DEDUCED. -/
def saeRefusal (f : FmtL) (s : State) : Nat :=
  let a := s.me.addrL f
  let n := szBytes f.sz
  let b := a.toNat
  if b % n != 0 then 1
  else if inSync b n then 3
  else if inScratch b n then
    (match s.here.regionCheck s.cur.ctx [(b, n)] with
      | .trap _ => 4
      | _ => 0)
  else if s.me.inCluster b n then 0
  else 2

/-- The next run of a context's oldest closed window. -/
def Ctx.nextRun (c : Ctx) : Option (SaeWindow × SaeEntry × List Word) :=
  match c.saeClosed with
  | w :: _ =>
    match w.runs with
    | (e, vs) :: _ => some (w, e, vs)
    | [] => none
  | [] => none

def checkSaeq (f : FmtL) (s : State) : Verdict :=
  let a := (s.me.addrL f).toNat
  let n := szBytes f.sz
  if saeRefusal f s != 0 then .ok
  else
    (if inScratch a n then s.here.regionCheck s.cur.ctx [(a, n)] else .ok).andThen <|
    if 128 ≤ s.me.saeLen then s.waitRuns s.cur ((s.me.nextRun.map Prod.snd).toList) else .ok

/-- An entry with its runs' key: address, size, operation and kind. -/
def SaeEntry.sameRun (a b : SaeEntry) : Bool := a.addr == b.addr && a.sz == b.sz && a.op == b.op && a.kind == b.kind
def SaeEntry.meets (a b : SaeEntry) : Bool := rangesMeet a.addr (szBytes a.sz) b.addr (szBytes b.sz)

/-- A run under formation; it takes no more entries once a different entry has touched its bytes. -/
def addToRuns (rs : List (SaeEntry × List Word × Bool)) (e : SaeEntry) : List (SaeEntry × List Word × Bool) :=
  let rs := rs.map fun r => if r.1.meets e && !r.1.sameRun e then (r.1, r.2.1, false) else r
  if rs.any fun r => r.2.2 && r.1.sameRun e then
    rs.map fun r => if r.2.2 && r.1.sameRun e then ({ r.1 with id := e.id }, r.2.1 ++ [e.val], true) else r
  else rs ++ [(e, [e.val], true)]
/-- The runs of a window in the order of their first entries (R235). -/
def runsOf (es : List SaeEntry) : List (SaeEntry × List Word) :=
  (es.foldl addToRuns []).map fun r => (r.1, r.2.1)

/-- The open window of a context closes. -/
def State.closeSae (s : State) (r : CtxRef) : State :=
  let c := s.ctx r
  if c.saeOpen.isEmpty then s
  else
    let (id, s) := s.fresh
    s.setCtx r { c with saeOpen := [], saeClosed := c.saeClosed ++ [{ id := id, runs := runsOf c.saeOpen }] }

def doSaeq (f : FmtL) (s : State) : State :=
  let a := s.me.addrL f
  let why := saeRefusal f s
  if why != 0 then
    s.setMe fun c =>
      let c := if c.saeErr == 0 && c.saeCause == 0 then { c with saeCause := why, saeAddr := a } else c
      { c with saeErr := min (c.saeErr + 1) 0xFFFF }
  else
    let n := szBytes f.sz
    let (id, s) := s.fresh
    let e : SaeEntry :=
      { id := id, addr := a.toNat, sz := f.sz, op := f.lx, kind := f.msk, val := BitVec.ofNat 64 (bits (s.me.x f.dt.toNat) 0 (8 * n)) }
    let s := s.setMe fun c => { c with saeOpen := c.saeOpen ++ [e] }
    if 64 ≤ s.me.saeOpen.length then s.closeSae s.cur else s
def execSaeq (g : Guard) (f : FmtL) (s : State) : Result := issue (.saeq g f) g s (checkSaeq f s) (doSaeq f)

/-- SAEF closes the open window, also while it waits, and blocks until every entry queued before it is applied. -/
def checkSaef (s : State) : Verdict :=
  if s.me.saeLen != 0 then s.waitRuns s.cur (s.me.saeClosed.flatMap SaeWindow.runs) else .ok
def doSaef (f : FmtL) (s : State) : State :=
  let n := s.me.saeErr
  (s.put 1 (.x f.dt.toNat (BitVec.ofNat 64 n)) Flags.none).setMe fun c =>
    { c with saeErr := 0, saeCause := 0, saeAddr := 0 }
def execSaef (g : Guard) (f : FmtL) (s : State) : Result :=
  let s := if acceptedIn s.me.mode (.saef g f) && s.me.guard g then s.closeSae s.cur else s
  issue (.saef g f) g s (checkSaef s) (doSaef f)

/-! ### The engine (R235, R236) -/

/-- The format of a kind at a size (R234). -/
def saeFmt (kind : BitVec 3) (size : Nat) : NumFmt :=
  if kind == 0 then .int (8 * size) true
  else if kind == 1 then .int (8 * size) false
  else if kind == 6 then (if size == 2 then .ieee 5 10 else f32)
  else if kind == 7 then .ieee 8 7
  else .tap (8 * size) (kind.toNat - 2)

/-- The real sum of a run: exact, with one rounding; special operands as R34 and R28 say. -/
def saeAdd (fm : NumFmt) (xs : List Val) : Nat × Flags :=
  if fm.isTap then
    let e := tapOp xs fun qs => some (qs.foldl Q.add Q.zero)
    let r := roundVal fm e.1
    (r.1, r.2 ||| e.2)
  else
    let e := match xs with
      | [] => (Val.real Q.zero, Flags.none)
      | x :: rest => rest.foldl (fun a v => let r := ieeeAdd a.1 v; (r.1, a.2 ||| r.2)) (x, Flags.none)
    let r := roundVal fm e.1
    (r.1, r.2 ||| e.2)

/-- The smaller or larger of two integers. -/
def intPick (min_ : Bool) (w : Nat) (signed : Bool) (a b : Nat) : Nat :=
  let lt := if signed then decide (sextInt w a < sextInt w b) else decide (a < b)
  if min_ then (if lt then a else b) else (if lt then b else a)

/-- A word after a run (R235). -/
def runValue (e : SaeEntry) (old : Nat) (vs : List Nat) : Nat × Flags :=
  let n := szBytes e.sz
  let w := 8 * n
  let fm := saeFmt e.kind n
  match e.op.toNat with
  | 0 => if fm.isInt then (vs.foldl (· + ·) old % 2 ^ w, Flags.none) else saeAdd fm ((old :: vs).map (decodeVal fm))
  | 1 | 2 =>
    let lo := e.op == 2
    if fm.isInt then (vs.foldl (intPick lo w (e.kind == 0)) old, Flags.none)
    else vs.foldl (fun a v => let r := extremeOf fm (!lo) a.1 v; (r.1, a.2 ||| r.2)) (old, Flags.none)
  | 3 => (vs.foldl (fun a v => a ||| v) old, Flags.none)
  | 4 => (vs.foldl (fun a v => a ^^^ v) old, Flags.none)
  | _ => (vs.getLastD old, Flags.none)

/-- The next run of a context may be applied: no gate holds it. One that a gate holds keeps the later runs of its context
behind it, inside the gate's range or not, in the order of R236. Log 53, DEDUCED. -/
def State.runReady (s : State) (r : CtxRef) : Bool :=
  match (s.ctx r).nextRun with
  | some (_, e, _) => !s.runHeld r e
  | none => false
/-- Number of a context's queue among the 16 of its cluster, in the order of core index and then context (R236). -/
def queueIndex (r : CtxRef) : Nat := 8 * (coreY r.core % 2) + 4 * (coreX r.core % 2) + r.ctx
def queueAt (cl i : Nat) : CtxRef := ⟨coreAt (2 * (cl % 24) + i / 4 % 2) (2 * (cl / 24) + i / 8), i % 4⟩
/-- The queue that a cluster's engine takes: the first from its turn on whose next run may be applied. -/
def State.nextQueue (s : State) (cl : Nat) : Option Nat :=
  ((List.range 16).map fun k => ((s.cluster cl).turn + k) % 16).find? fun i => s.runReady (queueAt cl i)
/-- Every core of a cluster has made the core cycle of this instant, so that the accesses of its L slots are done. -/
def State.slotsDone (s : State) (cl : Nat) : Bool :=
  s.cores.all fun k => clusterOf k.1 != cl || k.2.cycleMade s.now
/-- It is the turn of a context's queue, the engine's core cycle has come, and in it the L slots of the cluster's cores have
made their accesses (R210, R236). -/
def State.saeEnabled (s : State) (r : CtxRef) : Bool :=
  let cl := clusterOf r.core
  s.nextQueue cl == some (queueIndex r) && decide ((s.cluster cl).saeAt ≤ s.now) && s.slotsDone cl

/-- SCATTER-ACCUMULATE RUN: one atomic update of its word, flags in the context's STICKY. Log 27, DEDUCED. -/
def State.applyRun (s : State) (r : CtxRef) : State :=
  let c := s.ctx r
  match c.nextRun with
  | none => s
  | some (w, e, vs) =>
    let n := szBytes e.sz
    let loc := Loc.loc r.core e.addr
    let old := match s.readData (s.core r.core).dict loc n with
      | some bs => leNat bs
      | none => 0
    let v := runValue e old (vs.map BitVec.toNat)
    let rest := w.runs.drop 1
    let closed := if rest.isEmpty then c.saeClosed.drop 1 else { w with runs := rest } :: c.saeClosed.drop 1
    let s := s.setCtx r { c with saeClosed := closed }
    let s := match s.writeData loc (natBytes n v.1) with
      | .ok s => s
      | .error _ => s
    let cl := s.cluster (clusterOf r.core)
    (s.setCluster (clusterOf r.core)
      { cl with turn := (queueIndex r + 1) % 16, saeAt := s.now + Config.corePeriod (s.die (dieOf r.core)).step }).raise r v.2
def execSaeRunApply (c : CtxRef) (s : State) : Result := whenever (s.saeEnabled c) s (·.applyRun c)

/-! ### Arrival of remote and timed writes (R226, R227, R274 to R276) -/

/-- The write is the oldest of its context to its target, and no earlier timed write of the context is held there. -/
def State.writeFirst (s : State) (r : CtxRef) (w : RemoteWrite) : Bool :=
  ((s.ctx r).rwq.find? fun v => v.core == w.core && v.module == w.module).map (·.id) == some w.id
    && !(w.module == s.mod.number && (s.core w.core).incoming.any fun v => v.src == r)
/-- The target discards the write: an unowned region or another tenant's, or a block that is not RAW (R227, R262). -/
def State.writeRefused (s : State) (w : RemoteWrite) : Bool :=
  let k := s.core w.core
  match maskSpan w.we with
  | none => false
  | some (lo, n) =>
    (regionStarts (w.addr + lo) n).any (fun a =>
      match (k.region (regionOf a)).owner with
      | none => true
      | some c => s.tenantOf ⟨w.core, c⟩ != w.tenant)
    || s.localRelief w.core (w.addr + lo) != 0 || s.localRelief w.core (w.addr + lo + n - 1) != 0

/-- A remote write may reach its target: its time has come, it is the next of its context there, no gate holds it, and the
target's L slots have made their accesses of this cycle (R210, R227, R274). -/
def State.arrivalEnabled (s : State) (r : CtxRef) (id : Nat) : Bool :=
  match (s.ctx r).rwq.find? (·.id == id) with
  | none => false
  | some w =>
    w.ready ≤ s.now && s.coreDone w.core && s.writeFirst r w && !s.writeHeld r w
      && (!w.atPort || s.writeRefused w || (s.core w.core).incoming.length < 64)

/-- A write leaves its context's queue. -/
def Ctx.dropWrite (c : Ctx) (id : Nat) : Ctx := { c with rwq := c.rwq.filter (·.id != id) }

/-- A write that finds no free place before its T (R274). Log 28, DEDUCED. -/
def State.mustWaitAtPort (s : State) (w : RemoteWrite) : Bool :=
  w.module == s.mod.number && !s.writeRefused w && w.time.any (s.coreTime w.core < ·)
    && 64 ≤ (s.core w.core).incoming.length
def Ctx.waitAtPort (c : Ctx) (id : Nat) : Ctx :=
  { c with rwq := c.rwq.map fun w => if w.id == id then { w with atPort := true } else w }

/-- REMOTE WRITE ARRIVAL: discarded, held, or performed with its sync arrival; a timed write that comes before its T
and finds no free place stays at the port until one frees. A timed write that reaches a refused region before its T is
discarded as it arrives, not judged at its performance (log 28, DEDUCED). A write to another module leaves the model (log 12,
DESIGN CHOICE). -/
def State.arriveWrite (s : State) (r : CtxRef) (id : Nat) : State :=
  match (s.ctx r).rwq.find? (·.id == id) with
  | none => s
  | some w =>
    if s.mustWaitAtPort w then s.modCtx r fun c => c.waitAtPort id
    else
    let s := s.modCtx r fun c => c.dropWrite id
    if w.module != s.mod.number then s
    else if s.writeRefused w then s.syncEvent w.core (w.arrive.getD 0)
    else match w.time with
      | some t =>
        if t ≤ s.coreTime w.core then (s.performTimed w.core w false).markLate w.core
        else s.modCore w.core fun k => { k with incoming := k.incoming ++ [w] }
      | none =>
        let s := s.localStore w.core w.addr w.we.toNat w.bytes
        match w.arrive with
        | none => s
        | some i =>
          let word := (s.core w.core).syncWord i
          let s := s.modCore w.core fun k => k.setSync i (swArrive word)
          if swKind word == 2 then s.syncEvent w.core i else s
def execRemoteWriteArrival (c : CtxRef) (id : Nat) (s : State) : Result :=
  whenever (s.arrivalEnabled c id) s (·.arriveWrite c id)

/-- The timed writes that wait at a core: those of its contexts and those that arrived. -/
def State.heldWrites (s : State) (core : Nat) : List RemoteWrite :=
  ((List.range 4).flatMap fun n => ((s.core core).ctx n).stva) ++ (s.core core).incoming
/-- The first held write of a core whose time has come, in the order of R276. -/
def State.dueWrite (s : State) (core : Nat) : Option RemoteWrite :=
  ((s.heldWrites core).filter fun w => w.time.getD 0 ≤ s.coreTime core).foldl (fun m w =>
    match m with
    | none => some w
    | some v => if w.before v then some w else some v) none

/-- The held write is performed: it leaves its buffer. -/
def State.performHeld (s : State) (core : Nat) (w : RemoteWrite) : State :=
  let own := (s.ctx w.src).stva.any (·.id == w.id)
  let s := s.modCtx w.src fun c => { c with stva := c.stva.filter (·.id != w.id) }
  let s := s.modCore core fun k => { k with incoming := k.incoming.filter (·.id != w.id) }
  if !own && s.writeRefused w then s.syncEvent core 0 else s.performTimed core w own
/-- TIMED WRITE: performed when the target's counter has reached T, the first of those due. -/
def execTimedWritePerform (core : Nat) (id : Nat) (s : State) : Result :=
  match s.dueWrite core with
  | some w => whenever (w.id == id) s fun s => (s.performHeld core w).markLate core
  | none => .next s
/-- Every due write of a core, in order; the fuel is their number. -/
def State.performDue (s : State) (core : Nat) : Nat → State
  | 0 => s
  | n + 1 =>
    match s.dueWrite core with
    | none => s
    | some w => (s.performHeld core w).performDue core n

end Sys2Proof.Machine
end

