-- ==== Sys2Proof/Machine/Scalar.lean ====
section
/-! DEFINITION. Class I: arithmetic, logic, comparison, predicates, system registers, time and immediates (R126 to
R139). No instruction of the class blocks or traps at issue. -/
namespace Sys2Proof.Machine

/-! ### Values (R130 to R136) -/

def mulhS (a b : Word) : Word := BitVec.ofInt 64 (Int.fdiv (a.toInt * b.toInt) (2 ^ 64))
def mulhU (a b : Word) : Word := BitVec.ofNat 64 (a.toNat * b.toNat / 2 ^ 64)
/-- Quotient with its flag (R131). -/
def divWord (unsigned : Bool) (a b : Word) : Word × Flags :=
  if b == 0 then (BitVec.allOnes 64, Flags.dz)
  else if unsigned then (BitVec.ofNat 64 (a.toNat / b.toNat), Flags.none)
  else (BitVec.ofInt 64 (Int.tdiv a.toInt b.toInt), Flags.none)
/-- Remainder with its flag (R131). -/
def remWord (unsigned : Bool) (a b : Word) : Word × Flags :=
  if b == 0 then (a, Flags.dz)
  else if unsigned then (BitVec.ofNat 64 (a.toNat % b.toNat), Flags.none)
  else (BitVec.ofInt 64 (Int.tmod a.toInt b.toInt), Flags.none)
def shlWord (a n : Word) : Word := if 64 ≤ n.toNat then 0 else a <<< n.toNat
def shrWord (a n : Word) : Word := if 64 ≤ n.toNat then 0 else a >>> n.toNat
def sraWord (a n : Word) : Word :=
  if 64 ≤ n.toNat then (if a.getLsbD 63 then BitVec.allOnes 64 else 0) else a.sshiftRight n.toNat
def rotlWord (a n : Word) : Word := a.rotateLeft (n.toNat % 64)
/-- Leading zeros of the low w bits of a number. -/
def clzNat (v : Nat) : Nat → Nat
  | 0 => 0
  | w + 1 => if v.testBit w then 0 else 1 + clzNat v w
/-- One bits among the low w. -/
def popNat (v : Nat) : Nat → Nat
  | 0 => 0
  | w + 1 => (if v.testBit w then 1 else 0) + popNat v w
def clzWord (a : Word) : Word := BitVec.ofNat 64 (clzNat a.toNat 64)
def popWord (a : Word) : Word := BitVec.ofNat 64 (popNat a.toNat 64)
def minWord (unsigned : Bool) (a b : Word) : Word := if (if unsigned then a.ult b else a.slt b) then a else b
def maxWord (unsigned : Bool) (a b : Word) : Word := if (if unsigned then a.ult b else a.slt b) then b else a
/-- HI of MOVI: bits [63:39] replaced (R70, R136). -/
def hiWord (old : Word) (imm : BitVec 39) : Word :=
  (old &&& 0x7FFFFFFFFF) ||| ((imm.extractLsb' 0 25).setWidth 64 <<< 39)

/-! ### Shared forms -/

/-- A result of two sources under FS, with its latency and flags. -/
def putI (lat : Nat) (f : FmtA) (r : Ctx → Word × Flags) (s : State) : State :=
  s.put lat (dstI f (r s.me).1) (r s.me).2
/-- A result of two sources without flags. -/
def putI2 (lat : Nat) (f : FmtA) (op : Word → Word → Word) (s : State) : State :=
  putI lat f (fun c => (op (c.srcA f) (c.srcB f), Flags.none)) s
/-- An immediate form: x[DST] from x[OPA] and sext(IMM34) (R73). -/
def putImm (f : FmtB) (op : Word → Word → Word) (s : State) : State :=
  s.put 1 (.x f.dst.toNat (op (s.me.x f.opa.toNat) (imm34 f))) Flags.none
/-- A predicate result. -/
def putP (n : Nat) (v : Bool) (s : State) : State := s.put 1 (.p n v) Flags.none

/-! ### Arithmetic, logic, shifts and counts (R130 to R132) -/

def doAdd (f : FmtA) (s : State) : State := putI2 1 f (fun a b => a + b) s
def execAdd (g : Guard) (f : FmtA) (s : State) : Result := issue (.add g f) g s .ok (doAdd f)
def doSub (f : FmtA) (s : State) : State := putI2 1 f (fun a b => a - b) s
def execSub (g : Guard) (f : FmtA) (s : State) : Result := issue (.sub g f) g s .ok (doSub f)
def doMul (f : FmtA) (s : State) : State := putI2 3 f (fun a b => a * b) s
def execMul (g : Guard) (f : FmtA) (s : State) : Result := issue (.mul g f) g s .ok (doMul f)
def doMulh (f : FmtA) (s : State) : State := putI2 3 f (if f.sub == 0 then mulhS else mulhU) s
def execMulh (g : Guard) (f : FmtA) (s : State) : Result := issue (.mulh g f) g s .ok (doMulh f)
def doAnd (f : FmtA) (s : State) : State := putI2 1 f (fun a b => a &&& b) s
def execAnd (g : Guard) (f : FmtA) (s : State) : Result := issue (.and g f) g s .ok (doAnd f)
def doOr (f : FmtA) (s : State) : State := putI2 1 f (fun a b => a ||| b) s
def execOr (g : Guard) (f : FmtA) (s : State) : Result := issue (.or g f) g s .ok (doOr f)
def doXor (f : FmtA) (s : State) : State := putI2 1 f (fun a b => a ^^^ b) s
def execXor (g : Guard) (f : FmtA) (s : State) : Result := issue (.xor g f) g s .ok (doXor f)
def doAndn (f : FmtA) (s : State) : State := putI2 1 f (fun a b => a &&& ~~~b) s
def execAndn (g : Guard) (f : FmtA) (s : State) : Result := issue (.andn g f) g s .ok (doAndn f)
def doShl (f : FmtA) (s : State) : State := putI2 1 f shlWord s
def execShl (g : Guard) (f : FmtA) (s : State) : Result := issue (.shl g f) g s .ok (doShl f)
def doShr (f : FmtA) (s : State) : State := putI2 1 f shrWord s
def execShr (g : Guard) (f : FmtA) (s : State) : Result := issue (.shr g f) g s .ok (doShr f)
def doSra (f : FmtA) (s : State) : State := putI2 1 f sraWord s
def execSra (g : Guard) (f : FmtA) (s : State) : Result := issue (.sra g f) g s .ok (doSra f)
def doRotl (f : FmtA) (s : State) : State := putI2 1 f rotlWord s
def execRotl (g : Guard) (f : FmtA) (s : State) : Result := issue (.rotl g f) g s .ok (doRotl f)
def doClz (f : FmtA) (s : State) : State := putI2 1 f (fun a _ => clzWord a) s
def execClz (g : Guard) (f : FmtA) (s : State) : Result := issue (.clz g f) g s .ok (doClz f)
def doPopc (f : FmtA) (s : State) : State := putI2 1 f (fun a _ => popWord a) s
def execPopc (g : Guard) (f : FmtA) (s : State) : Result := issue (.popc g f) g s .ok (doPopc f)
def doMin (f : FmtA) (s : State) : State := putI2 1 f (minWord (f.sub == 1)) s
def execMin (g : Guard) (f : FmtA) (s : State) : Result := issue (.min g f) g s .ok (doMin f)
def doMax (f : FmtA) (s : State) : State := putI2 1 f (maxWord (f.sub == 1)) s
def execMax (g : Guard) (f : FmtA) (s : State) : Result := issue (.max g f) g s .ok (doMax f)
def doDiv (f : FmtA) (s : State) : State :=
  putI 18 f (fun c => divWord (f.sub == 1) (c.srcA f) (c.srcB f)) s
def execDiv (g : Guard) (f : FmtA) (s : State) : Result := issue (.div g f) g s .ok (doDiv f)
def doRem (f : FmtA) (s : State) : State :=
  putI 18 f (fun c => remWord (f.sub == 1) (c.srcA f) (c.srcB f)) s
def execRem (g : Guard) (f : FmtA) (s : State) : Result := issue (.rem g f) g s .ok (doRem f)

/-! ### Comparison, select and predicates (R133 to R135) -/

def doCmp (f : FmtA) (s : State) : State :=
  putP f.dst.toNat (condWord f.sub.toNat (s.me.srcA f) (s.me.srcB f)) s
def execCmp (g : Guard) (f : FmtA) (s : State) : Result := issue (.cmp g f) g s .ok (doCmp f)

/-- CMPI: the condition in IMM34[33:29], the comparand in IMM34[28:0]. -/
def doCmpi (f : FmtB) (s : State) : State :=
  putP f.dst.toNat
    (condWord (f.imm.extractLsb' 29 5).toNat (s.me.x f.opa.toNat) ((f.imm.extractLsb' 0 29).signExtend 64)) s
def execCmpi (g : Guard) (f : FmtB) (s : State) : Result := issue (.cmpi g f) g s .ok (doCmpi f)

def doSel (f : FmtA) (s : State) : State :=
  putI 1 f (fun c => (if c.p f.aux.toNat then c.srcA f else c.srcB f, Flags.none)) s
def execSel (g : Guard) (f : FmtA) (s : State) : Result := issue (.sel g f) g s .ok (doSel f)

/-- The operands of predicate logic with their inversions. -/
def predA (f : FmtA) (c : Ctx) : Bool := xor (c.p f.opa.toNat) (f.sub.getLsbD 0)
def predB (f : FmtA) (c : Ctx) : Bool := xor (c.p f.opb.toNat) (f.sub.getLsbD 1)
def doPand (f : FmtA) (s : State) : State := putP f.dst.toNat (predA f s.me && predB f s.me) s
def execPand (g : Guard) (f : FmtA) (s : State) : Result := issue (.pand g f) g s .ok (doPand f)
def doPor (f : FmtA) (s : State) : State := putP f.dst.toNat (predA f s.me || predB f s.me) s
def execPor (g : Guard) (f : FmtA) (s : State) : Result := issue (.por g f) g s .ok (doPor f)
def doPxor (f : FmtA) (s : State) : State := putP f.dst.toNat (xor (predA f s.me) (predB f s.me)) s
def execPxor (g : Guard) (f : FmtA) (s : State) : Result := issue (.pxor g f) g s .ok (doPxor f)
def doPnot (f : FmtA) (s : State) : State := putP f.dst.toNat (!s.me.p f.opa.toNat) s
def execPnot (g : Guard) (f : FmtA) (s : State) : Result := issue (.pnot g f) g s .ok (doPnot f)

/-! ### System registers and time (R125, R138, R139) -/

def doMfs (f : FmtB) (s : State) : State :=
  s.put 1 (.x f.dst.toNat (s.sysRead s.cur (sysIndex f))) Flags.none
def execMfs (g : Guard) (f : FmtB) (s : State) : Result := issue (.mfs g f) g s .ok (doMfs f)

/-- An MTS lands one context cycle after issue. -/
def doMts (f : FmtB) (s : State) : State :=
  s.put 1 (.sys (sysIndex f) (s.me.x f.opa.toNat)) Flags.none
def execMts (g : Guard) (f : FmtB) (s : State) : Result := issue (.mts g f) g s .ok (doMts f)
def execMtsSticky (g : Guard) (f : FmtB) (s : State) : Result := issue (.mtsSticky g f) g s .ok (doMts f)
def execMtsPend (g : Guard) (f : FmtB) (s : State) : Result := issue (.mtsPend g f) g s .ok (doMts f)
def execRegrelWrite (g : Guard) (f : FmtB) (s : State) : Result := issue (.regrelWrite g f) g s .ok (doMts f)
def execTinvcStart (g : Guard) (f : FmtB) (s : State) : Result := issue (.tinvcStart g f) g s .ok (doMts f)

def doTime (f : FmtA) (s : State) : State :=
  s.put 1 (.x f.dst.toNat (BitVec.ofNat 64 (s.coreTime s.cur.core))) Flags.none
def execTime (g : Guard) (f : FmtA) (s : State) : Result := issue (.time g f) g s .ok (doTime f)

/-! ### Immediates (R136, R137) -/

def doLea (f : FmtB) (s : State) : State :=
  s.put 1 (.a f.dst.toNat (s.me.a f.opa.toNat + imm34 f)) Flags.none
def execLea (g : Guard) (f : FmtB) (s : State) : Result := issue (.lea g f) g s .ok (doLea f)
def doMovi (f : FmtW) (s : State) : State := s.put 1 (.x f.dst.toNat (f.imm.signExtend 64)) Flags.none
def execMovi (g : Guard) (f : FmtW) (s : State) : Result := issue (.movi g f) g s .ok (doMovi f)
def doMoviHi (f : FmtW) (s : State) : State :=
  s.put 1 (.x f.dst.toNat (hiWord (s.me.x f.dst.toNat) f.imm)) Flags.none
def execMoviHi (g : Guard) (f : FmtW) (s : State) : Result := issue (.moviHi g f) g s .ok (doMoviHi f)
def doAddi (f : FmtB) (s : State) : State := putImm f (fun a b => a + b) s
def execAddi (g : Guard) (f : FmtB) (s : State) : Result := issue (.addi g f) g s .ok (doAddi f)
def doAndi (f : FmtB) (s : State) : State := putImm f (fun a b => a &&& b) s
def execAndi (g : Guard) (f : FmtB) (s : State) : Result := issue (.andi g f) g s .ok (doAndi f)
def doOri (f : FmtB) (s : State) : State := putImm f (fun a b => a ||| b) s
def execOri (g : Guard) (f : FmtB) (s : State) : Result := issue (.ori g f) g s .ok (doOri f)
def doXori (f : FmtB) (s : State) : State := putImm f (fun a b => a ^^^ b) s
def execXori (g : Guard) (f : FmtB) (s : State) : Result := issue (.xori g f) g s .ok (doXori f)
def doShli (f : FmtB) (s : State) : State := putImm f shlWord s
def execShli (g : Guard) (f : FmtB) (s : State) : Result := issue (.shli g f) g s .ok (doShli f)
def doShri (f : FmtB) (s : State) : State := putImm f shrWord s
def execShri (g : Guard) (f : FmtB) (s : State) : Result := issue (.shri g f) g s .ok (doShri f)
def doSrai (f : FmtB) (s : State) : State := putImm f sraWord s
def execSrai (g : Guard) (f : FmtB) (s : State) : Result := issue (.srai g f) g s .ok (doSrai f)

end Sys2Proof.Machine
end

