-- ==== Sys2Proof/Machine/Vector.lean ====
section
/-! DEFINITION. Class V: lane-wise integer, bit and real operations, lane movement, comparison, conversion,
reductions, masks and the sampling pair (R140 to R159). -/
namespace Sys2Proof.Machine

/-! ### Shared forms -/

def orFlags (xs : List Flags) : Flags := xs.foldl (fun a b => a ||| b) Flags.none

/-- Lanes of width w enabled by the mask of MSK. -/
def Ctx.on (c : Ctx) (f : FmtA) (w : Nat) (i : Nat) : Bool := laneOn w (c.mr f.msk.toNat) i

/-- A lane-wise result under a set of lanes that are written. -/
def putWhere (lat w d : Nat) (on : Nat → Bool) (r : Nat → Nat × Flags) (s : State) : State :=
  let rs := (List.range (1024 / w)).map fun i => if on i then r i else (0, Flags.none)
  s.put lat (.v d (ofLanes w (rs.map Prod.fst)) (laneBytes w on)) (orFlags (rs.map Prod.snd))
/-- A lane-wise result under the write enable of MSK (R142). -/
def putLanes (lat : Nat) (f : FmtA) (r : Ctx → Nat → Nat → Nat × Flags) (s : State) : State :=
  let w := fmtWidth f.fmt
  putWhere lat w f.dst.toNat (s.me.on f w) (r s.me w) s
/-- Lane i of the register that a field names. -/
def Ctx.ln (c : Ctx) (n : BitVec 6) (w i : Nat) : Nat := lane w (c.vr n.toNat) i

/-! ### Integer arithmetic (R145) -/

/-- A lane as the integer of its format code. -/
def laneInt (fmt : BitVec 6) (u : Nat) : Int := if isSignedInt fmt then sextInt (fmtWidth fmt) u else (u : Int)
/-- A lane pair under an exact integer operation and the forms of SUB. -/
def intLane (f : FmtA) (op : Int → Int → Int) (a b : Nat) : Nat × Flags :=
  let t := op (laneInt f.fmt a) (laneInt f.fmt b)
  let w := fmtWidth f.fmt
  if f.sub == 0 then (wrapNat w t, Flags.none)
  else if f.sub == 1 then clampInt w (isSignedInt f.fmt) t
  else (wrapNat w (Int.fdiv t (2 ^ w)), Flags.none)
def putInt (f : FmtA) (op : Int → Int → Int) (s : State) : State :=
  putLanes 2 f (fun c w i => intLane f op (c.ln f.opa w i) (c.ln f.opb w i)) s

def doVadd (f : FmtA) (s : State) : State := putInt f (· + ·) s
def execVadd (g : Guard) (f : FmtA) (s : State) : Result := issue (.vadd g f) g s .ok (doVadd f)
def doVsub (f : FmtA) (s : State) : State := putInt f (· - ·) s
def execVsub (g : Guard) (f : FmtA) (s : State) : Result := issue (.vsub g f) g s .ok (doVsub f)
def doVmul (f : FmtA) (s : State) : State := putInt f (· * ·) s
def execVmul (g : Guard) (f : FmtA) (s : State) : Result := issue (.vmul g f) g s .ok (doVmul f)
def doVmin (f : FmtA) (s : State) : State := putInt f min s
def execVmin (g : Guard) (f : FmtA) (s : State) : Result := issue (.vmin g f) g s .ok (doVmin f)
def doVmax (f : FmtA) (s : State) : State := putInt f max s
def execVmax (g : Guard) (f : FmtA) (s : State) : Result := issue (.vmax g f) g s .ok (doVmax f)

/-! ### Bitwise logic (R146) -/

/-- A bitwise result under one enable bit per byte. -/
def putBits (f : FmtA) (r : Ctx → BitVec 1024) (s : State) : State :=
  s.put 2 (.v f.dst.toNat (r s.me) (s.me.mr f.msk.toNat)) Flags.none
/-- IMM8 of format A (R63). -/
def imm8 (f : FmtA) : BitVec 8 := f.prof ++ BitVec.ofBool f.sga ++ BitVec.ofBool f.sgb
/-- Any function of three inputs: the OR of the minterms whose bit of the table is 1. -/
def lut3 (t : BitVec 8) (a b c : BitVec 1024) : BitVec 1024 :=
  (List.range 8).foldl (fun acc k =>
    if t.getLsbD k then
      acc ||| ((if k / 4 == 1 then a else ~~~a) &&& (if k / 2 % 2 == 1 then b else ~~~b)
        &&& (if k % 2 == 1 then c else ~~~c))
    else acc) 0

def doVand (f : FmtA) (s : State) : State := putBits f (fun c => c.vr f.opa.toNat &&& c.vr f.opb.toNat) s
def execVand (g : Guard) (f : FmtA) (s : State) : Result := issue (.vand g f) g s .ok (doVand f)
def doVor (f : FmtA) (s : State) : State := putBits f (fun c => c.vr f.opa.toNat ||| c.vr f.opb.toNat) s
def execVor (g : Guard) (f : FmtA) (s : State) : Result := issue (.vor g f) g s .ok (doVor f)
def doVxor (f : FmtA) (s : State) : State := putBits f (fun c => c.vr f.opa.toNat ^^^ c.vr f.opb.toNat) s
def execVxor (g : Guard) (f : FmtA) (s : State) : Result := issue (.vxor g f) g s .ok (doVxor f)
def doVlut3 (f : FmtA) (s : State) : State :=
  putBits f (fun c => lut3 (imm8 f) (c.vr f.opa.toNat) (c.vr f.opb.toNat) (c.vr f.aux.toNat)) s
def execVlut3 (g : Guard) (f : FmtA) (s : State) : Result := issue (.vlut3 g f) g s .ok (doVlut3 f)

/-! ### Shifts, counts and lane movement (R147 to R149) -/

/-- A lane-wise result that sets no flag. -/
def putPlain (f : FmtA) (r : Ctx → Nat → Nat → Nat) (s : State) : State :=
  putLanes 2 f (fun c w i => (r c w i, Flags.none)) s

/-- The shift amount of a lane. -/
def shiftOf (f : FmtA) (c : Ctx) (w i : Nat) : Nat := if f.sub == 1 then f.aux.toNat else c.ln f.opb w i
def shlLane (w a n : Nat) : Nat := if w ≤ n then 0 else a * 2 ^ n % 2 ^ w
def shrLane (fmt : BitVec 6) (a n : Nat) : Nat :=
  let w := fmtWidth fmt
  wrapNat w (Int.fdiv (laneInt fmt a) (2 ^ (min n w)))

def doVshl (f : FmtA) (s : State) : State :=
  putPlain f (fun c w i => shlLane w (c.ln f.opa w i) (shiftOf f c w i)) s
def execVshl (g : Guard) (f : FmtA) (s : State) : Result := issue (.vshl g f) g s .ok (doVshl f)
def doVshr (f : FmtA) (s : State) : State :=
  putPlain f (fun c w i => shrLane f.fmt (c.ln f.opa w i) (shiftOf f c w i)) s
def execVshr (g : Guard) (f : FmtA) (s : State) : Result := issue (.vshr g f) g s .ok (doVshr f)
def doVfsh (f : FmtA) (s : State) : State :=
  putPlain f (fun c w i =>
    let j := i + f.aux.toNat
    if j < 1024 / w then c.ln f.opa w j else c.ln f.opb w (j - 1024 / w)) s
def execVfsh (g : Guard) (f : FmtA) (s : State) : Result := issue (.vfsh g f) g s .ok (doVfsh f)
def doVpopc (f : FmtA) (s : State) : State := putPlain f (fun c w i => popNat (c.ln f.opa w i) w) s
def execVpopc (g : Guard) (f : FmtA) (s : State) : Result := issue (.vpopc g f) g s .ok (doVpopc f)
def doVclz (f : FmtA) (s : State) : State := putPlain f (fun c w i => clzNat (c.ln f.opa w i) w) s
def execVclz (g : Guard) (f : FmtA) (s : State) : Result := issue (.vclz g f) g s .ok (doVclz f)
def doVrot (f : FmtA) (s : State) : State :=
  putPlain f (fun c w i =>
    let l := 1024 / w
    c.ln f.opa w ((if f.sub == 0 then i + f.aux.toNat else i + l - f.aux.toNat) % l)) s
def execVrot (g : Guard) (f : FmtA) (s : State) : Result := issue (.vrot g f) g s .ok (doVrot f)
def doVperm (f : FmtA) (s : State) : State :=
  putPlain f (fun c w i =>
    let j := c.ln f.opb w i
    if j < 1024 / w then c.ln f.opa w j else 0) s
def execVperm (g : Guard) (f : FmtA) (s : State) : Result := issue (.vperm g f) g s .ok (doVperm f)
def doVbcast (f : FmtA) (s : State) : State :=
  putPlain f (fun c w _ =>
    if f.sub == 2 then (c.x f.opa.toNat).toNat % 2 ^ w else c.ln f.opa w (f.aux.toNat + 64 * f.sub.toNat)) s
def execVbcast (g : Guard) (f : FmtA) (s : State) : Result := issue (.vbcast g f) g s .ok (doVbcast f)
/-- Every lane is written; the mask selects. -/
def doVsel (f : FmtA) (s : State) : State :=
  let w := fmtWidth f.fmt
  putWhere 2 w f.dst.toNat (fun _ => true)
    (fun i => ((if s.me.on f w i then s.me.ln f.opa w i else s.me.ln f.opb w i), Flags.none)) s
def execVsel (g : Guard) (f : FmtA) (s : State) : Result := issue (.vsel g f) g s .ok (doVsel f)

/-! ### Comparison and masks (R150, R151) -/

/-- The condition on two lanes, with its flags. -/
def cmpLane (fmt : BitVec 6) (code : Nat) (a b : Nat) : Bool × Flags :=
  if isInt fmt then
    let x := laneInt fmt a
    let y := laneInt fmt b
    (condOrd code (x < y) (x == y) (a < b), Flags.none)
  else
    let x := decodeVal (fmtOf fmt) a
    let y := decodeVal (fmtOf fmt) b
    if x.isNan || y.isNan then
      (code == 1, flagIf (x.isSignalling || y.isSignalling || 2 ≤ code) Flags.nv)
    else (condOrd code (valLt x y) (valEq x y) false, Flags.none)

def doVcmp (f : FmtA) (s : State) : State :=
  let w := fmtWidth f.fmt
  let c := s.me
  let r (i : Nat) : Bool × Flags :=
    if c.on f w i then cmpLane f.fmt f.sub.toNat (c.ln f.opa w i) (c.ln f.opb w i) else (false, Flags.none)
  s.put 2 (.m f.dst.toNat (laneBytes w fun i => (r i).1)) (orFlags ((List.range (1024 / w)).map fun i => (r i).2))
def execVcmp (g : Guard) (f : FmtA) (s : State) : Result := issue (.vcmp g f) g s .ok (doVcmp f)

def invert (b : Bool) (m : BitVec 128) : BitVec 128 := if b then ~~~m else m
def maskA (f : FmtA) (c : Ctx) : BitVec 128 := invert (f.sub.getLsbD 0) (c.mr f.opa.toNat)
def maskB (f : FmtA) (c : Ctx) : BitVec 128 := invert (f.sub.getLsbD 1) (c.mr f.opb.toNat)
def putM (f : FmtA) (v : BitVec 128) (s : State) : State := s.put 2 (.m f.dst.toNat v) Flags.none
def doMand (f : FmtA) (s : State) : State := putM f (maskA f s.me &&& maskB f s.me) s
def execMand (g : Guard) (f : FmtA) (s : State) : Result := issue (.mand g f) g s .ok (doMand f)
def doMor (f : FmtA) (s : State) : State := putM f (maskA f s.me ||| maskB f s.me) s
def execMor (g : Guard) (f : FmtA) (s : State) : Result := issue (.mor g f) g s .ok (doMor f)
def doMnot (f : FmtA) (s : State) : State := putM f (~~~s.me.mr f.opa.toNat) s
def execMnot (g : Guard) (f : FmtA) (s : State) : Result := issue (.mnot g f) g s .ok (doMnot f)
def doMpop (f : FmtA) (s : State) : State :=
  s.put 2 (.x f.dst.toNat (BitVec.ofNat 64 (popNat (s.me.mr f.opa.toNat).toNat 128))) Flags.none
def execMpop (g : Guard) (f : FmtA) (s : State) : Result := issue (.mpop g f) g s .ok (doMpop f)

/-! ### Real arithmetic (R152 to R154) -/

/-- A real operation on the lanes of some registers, one rounding. -/
def putReal (lat : Nat) (f : FmtA) (op : RealOp) (srcs : List (BitVec 6)) (s : State) : State :=
  putLanes lat f (fun c w i => realOp (fmtOf f.fmt) op (srcs.map fun n => decodeVal (fmtOf f.fmt) (c.ln n w i))) s

def doVfadd (f : FmtA) (s : State) : State := putReal 4 f .add [f.opa, f.opb] s
def execVfadd (g : Guard) (f : FmtA) (s : State) : Result := issue (.vfadd g f) g s .ok (doVfadd f)
def doVfsub (f : FmtA) (s : State) : State := putReal 4 f .sub [f.opa, f.opb] s
def execVfsub (g : Guard) (f : FmtA) (s : State) : Result := issue (.vfsub g f) g s .ok (doVfsub f)
def doVfmul (f : FmtA) (s : State) : State := putReal 4 f .mul [f.opa, f.opb] s
def execVfmul (g : Guard) (f : FmtA) (s : State) : Result := issue (.vfmul g f) g s .ok (doVfmul f)
def doVfma (f : FmtA) (s : State) : State := putReal 5 f .fma [f.opa, f.opb, f.aux] s
def execVfma (g : Guard) (f : FmtA) (s : State) : Result := issue (.vfma g f) g s .ok (doVfma f)

def putExtreme (f : FmtA) (hi : Bool) (s : State) : State :=
  putLanes 4 f (fun c w i => extremeOf (fmtOf f.fmt) hi (c.ln f.opa w i) (c.ln f.opb w i)) s
def doVfmin (f : FmtA) (s : State) : State := putExtreme f false s
def execVfmin (g : Guard) (f : FmtA) (s : State) : Result := issue (.vfmin g f) g s .ok (doVfmin f)
def doVfmax (f : FmtA) (s : State) : State := putExtreme f true s
def execVfmax (g : Guard) (f : FmtA) (s : State) : Result := issue (.vfmax g f) g s .ok (doVfmax f)

/-- The sign bit of a word of width w. -/
def signBit (w u : Nat) : Bool := u.testBit (w - 1)
/-- VFABS and VFNEG of a word: the sign that the result takes is given for IEEE words. -/
def signedOf (nf : NumFmt) (neg : Bool) (u : Nat) : Nat × Flags :=
  let x := decodeVal nf u
  let w := nf.width
  if nf.isTap then
    if x.isNar then (u, Flags.narf)
    else if neg || signBit w u then ((2 ^ w - u) % 2 ^ w, Flags.none) else (u, Flags.none)
  else
    let s := if neg && !signBit w u then 2 ^ (w - 1) else 0
    if x.isNan then (canonOf nf + s, flagIf x.isSignalling Flags.nv) else (u % 2 ^ (w - 1) + s, Flags.none)

def doVfabs (f : FmtA) (s : State) : State :=
  putLanes 2 f (fun c w i => signedOf (fmtOf f.fmt) false (c.ln f.opa w i)) s
def execVfabs (g : Guard) (f : FmtA) (s : State) : Result := issue (.vfabs g f) g s .ok (doVfabs f)
def doVfneg (f : FmtA) (s : State) : State :=
  putLanes 2 f (fun c w i => signedOf (fmtOf f.fmt) true (c.ln f.opa w i)) s
def execVfneg (g : Guard) (f : FmtA) (s : State) : Result := issue (.vfneg g f) g s .ok (doVfneg f)

/-- CCYC of the last divide of a context in a V slot, and the unit of that slot. -/
def Ctx.lastDiv (c : Ctx) (slot : Nat) : Option Nat := if slot == 0 then c.div0 else c.div1
def Core.divBusy (k : Core) (slot : Nat) : Nat × Nat := if slot == 0 then k.divBusy0 else k.divBusy1
/-- The divide interval by bubbles, then the shared unit by a stall (R154). Log 24, DEDUCED. -/
def checkDivide (slot : Nat) (s : State) : Verdict :=
  let c := s.me
  let k := s.core s.cur.core
  if (c.lastDiv slot).any (fun t => c.ccyc < t + 4) then .bubble
  else if k.cyc < (k.divBusy slot).1 && (k.divBusy slot).2 != s.cur.ctx then .stall
  else .ok
/-- The interval and the occupation of the unit start. -/
def State.startDivide (s : State) (slot : Nat) : State :=
  let s := s.setMe fun c => if slot == 0 then { c with div0 := some c.ccyc } else { c with div1 := some c.ccyc }
  s.modCore s.cur.core fun k =>
    if slot == 0 then { k with divBusy0 := (k.cyc + 4, s.cur.ctx) } else { k with divBusy1 := (k.cyc + 4, s.cur.ctx) }

def doVfdiv (f : FmtA) (s : State) : State := (putReal 12 f .div [f.opa, f.opb] s).startDivide s.iss.slot
def execVfdiv (g : Guard) (f : FmtA) (s : State) : Result :=
  issue (.vfdiv g f) g s (checkDivide s.iss.slot s) (doVfdiv f)
def doVfsqrt (f : FmtA) (s : State) : State := (putReal 12 f .sqrt [f.opa] s).startDivide s.iss.slot
def execVfsqrt (g : Guard) (f : FmtA) (s : State) : Result :=
  issue (.vfsqrt g f) g s (checkDivide s.iss.slot s) (doVfsqrt f)

/-! ### Conversion (R155) -/

/-- The source lane that target lane d takes, if part SUB holds it. -/
def cvtSource (ws wt part d : Nat) : Option Nat :=
  if wt ≤ ws then
    let ls := 1024 / ws
    if ls * part ≤ d && d < ls * part + ls then some (d - ls * part) else none
  else some (1024 / wt * part + d)
def doVcvt (f : FmtA) (s : State) : State :=
  let ws := fmtWidth f.aux
  let wt := fmtWidth f.fmt
  let c := s.me
  putWhere 3 wt f.dst.toNat (fun d => c.on f wt d && (cvtSource ws wt f.sub.toNat d).isSome)
    (fun d =>
      convertVal (fmtOf f.fmt) (decodeVal (fmtOf f.aux) (c.ln f.opa ws ((cvtSource ws wt f.sub.toNat d).getD 0)))) s
def execVcvt (g : Guard) (f : FmtA) (s : State) : Result := issue (.vcvt g f) g s .ok (doVcvt f)

/-! ### Reductions (R156) -/

/-- The enabled lanes of v[OPA] in increasing order. -/
def Ctx.lanesOn (c : Ctx) (f : FmtA) : List Nat :=
  let w := fmtWidth f.fmt
  ((List.range (1024 / w)).filter (c.on f w)).map fun i => c.ln f.opa w i
/-- The least and greatest words of a format. -/
def formatEnd (nf : NumFmt) (hi : Bool) : Nat :=
  match nf with
  | .tap n _ => if hi then 2 ^ (n - 1) - 1 else 2 ^ (n - 1) + 1
  | .int w signed => wrapNat w (if hi then intMax w signed else intMin w signed)
  | nf => (roundVal nf (.inf (!hi))).1
/-- An encoding of a format as a register word: sign-extended for i and tapered formats (R156, R178). -/
def extendWord (fmt : BitVec 6) (u : Nat) : Word :=
  if isSignedInt fmt || isTap fmt then sextWord (fmtWidth fmt) u else BitVec.ofNat 64 u
/-- A reduction's value to lane 0 of v[DST] with zeros elsewhere, or to x[DST]. -/
def putReduced (lat : Nat) (f : FmtA) (r : Nat × Flags) (s : State) : State :=
  if f.sub == 0 then s.put lat (.v f.dst.toNat (BitVec.ofNat 1024 r.1) (BitVec.allOnes 128)) r.2
  else s.put lat (.x f.dst.toNat (extendWord f.fmt r.1)) r.2

/-- The extreme of two words in any format. -/
def extremeAny (fmt : BitVec 6) (hi : Bool) (a b : Nat) : Nat × Flags :=
  if isInt fmt then
    (if laneInt fmt a < laneInt fmt b then (if hi then b else a) else (if hi then a else b), Flags.none)
  else extremeOf (fmtOf fmt) hi a b
/-- A single lane as it starts the fold: a NaN becomes canonical, NaR and signalling NaN set their flags. -/
def foldStart (fmt : BitVec 6) (a : Nat) : Nat × Flags :=
  if isInt fmt then (a, Flags.none)
  else
    let x := decodeVal (fmtOf fmt) a
    if x.isNan then (canonOf (fmtOf fmt), flagIf x.isSignalling Flags.nv) else (a, flagIf x.isNar Flags.narf)
def reduceExtreme (fmt : BitVec 6) (hi : Bool) : List Nat → Nat × Flags
  | [] => (formatEnd (fmtOf fmt) (!hi), Flags.none)
  | a :: as => as.foldl (fun r b => let t := extremeAny fmt hi r.1 b; (t.1, r.2 ||| t.2)) (foldStart fmt a)
/-- A sum; a signalling NaN lane also sets NV (R34). Log 57, DEDUCED. -/
def reduceSum (fmt : BitVec 6) (xs : List Nat) : Nat × Flags :=
  if isInt fmt then roundVal (fmtOf fmt) (.real (Q.ofInt (xs.map (laneInt fmt)).sum))
  else
    let vs := xs.map (decodeVal (fmtOf fmt))
    let q := quireAddAll Quire.zero vs
    let r := readQuire (fmtOf fmt) q.1
    (r.1, q.2 ||| r.2 ||| flagIf (vs.any Val.isSignalling) Flags.nv)

def doVrmax (f : FmtA) (s : State) : State := putReduced 4 f (reduceExtreme f.fmt true (s.me.lanesOn f)) s
def execVrmax (g : Guard) (f : FmtA) (s : State) : Result := issue (.vrmax g f) g s .ok (doVrmax f)
def doVrmin (f : FmtA) (s : State) : State := putReduced 4 f (reduceExtreme f.fmt false (s.me.lanesOn f)) s
def execVrmin (g : Guard) (f : FmtA) (s : State) : Result := issue (.vrmin g f) g s .ok (doVrmin f)
def doVradd (f : FmtA) (s : State) : State := putReduced 6 f (reduceSum f.fmt (s.me.lanesOn f)) s
def execVradd (g : Guard) (f : FmtA) (s : State) : Result := issue (.vradd g f) g s .ok (doVradd f)

/-! ### Sampling (R157, R158) -/

/-- The weight of a score, with the flags of R45 where an operand is special. -/
def weightOf (smax kappa sc : Val) : Nat × Flags :=
  match sc.real?, smax.real?, kappa.real? with
  | some x, some m, some k => (expE ((x.sub m).mul k), Flags.none)
  | _, _, _ => ((roundVal t32e2 .nar).1, orFlags (([sc, smax, kappa].filter Val.isSpecial).map fun v => (convertVal t32e2 v).2))
/-- The exact total of weights; NaR stays NaR. -/
def totalOf (ws : List Nat) : Val :=
  ws.foldl (fun t u => match t.real?, (decodeVal t32e2 u).real? with
    | some a, some b => .real (a.add b)
    | _, _ => .nar) (.real Q.zero)

def doVswt (f : FmtA) (s : State) : State :=
  let c := s.me
  let nf := fmtOf f.fmt
  let smax := decodeVal nf (c.ln f.opb 32 0)
  let kappa := decodeVal nf (c.ln f.opb 32 1)
  let rs := (List.range 32).map fun i =>
    if c.on f 32 i then weightOf smax kappa (decodeVal nf (c.ln f.opa 32 i)) else (0, Flags.none)
  let q := quireAdd (c.qr f.aux.toNat) (totalOf (rs.map Prod.fst))
  (s.put 6 (.v f.dst.toNat (ofLanes 32 (rs.map Prod.fst)) (BitVec.allOnes 128)) (orFlags (rs.map Prod.snd))).put 6
    (.q f.aux.toNat q.1) q.2
def execVswt (g : Guard) (f : FmtA) (s : State) : Result := issue (.vswt g f) g s .ok (doVswt f)

/-- A quire times a natural number, exact, NaR and QOV where the range is left. -/
def Quire.times (q : Quire) (n : Nat) : Quire × Flags :=
  if q.nar then (q, Flags.none)
  else match quireOfUnits (q.val.toInt * n) with
    | some r => (r, Flags.none)
    | none => (Quire.narState, Flags.qov)
/-- Whether a quire outside the NaR state is below zero. -/
def Quire.isNeg (q : Quire) : Bool := !q.nar && q.val.getLsbD 511

def doVspickStart (f : FmtA) (s : State) : State :=
  let r := (s.me.qr f.aux.toNat).times (s.me.ln f.opb 32 0)
  s.put 6 (.q f.aux.toNat r.1) r.2
def execVspickStart (g : Guard) (f : FmtA) (s : State) : Result := issue (.vspickStart g f) g s .ok (doVspickStart f)

/-- The scan over the lanes left: the quire, the lane found, and the flags. -/
def pickScan (w : Nat → Nat) (on : Nat → Bool) (q : Quire) (fl : Flags) : List Nat → Quire × Option Nat × Flags
  | [] => (q, none, fl)
  | i :: is =>
    if !on i then pickScan w on q fl is
    else
      let x := match (decodeVal t32e2 (w i)).real? with
        | some t => Val.real (t.scale 32).neg
        | none => .nar
      let r := quireAdd q x
      if r.1.nar then (r.1, none, fl ||| r.2)
      else if r.1.isNeg then (r.1, some i, fl ||| r.2)
      else pickScan w on r.1 (fl ||| r.2) is
/-- A scan of one chunk; a quire that is NaR or below zero at entry is left as it is. Log 55, DEDUCED. -/
def doPick (f : FmtA) (final : Bool) (s : State) : State :=
  let c := s.me
  let q := c.qr f.aux.toNat
  let (q', found, fl) :=
    if q.nar || q.isNeg then (q, none, Flags.none)
    else pickScan (c.ln f.opa 32) (c.on f 32) q Flags.none (List.range 32)
  let s := s.put 6 (.q f.aux.toNat q') fl
  match found with
  | some i => s.put 6 (.x f.dst.toNat (BitVec.ofNat 64 (c.ln f.opb 32 1 + i))) Flags.none
  | none =>
    if final && !q'.isNeg then s.put 6 (.x f.dst.toNat (BitVec.allOnes 64)) Flags.gnone else s
def doVspickScan (f : FmtA) (s : State) : State := doPick f false s
/-- Log 55, DEDUCED. -/
def execVspickScan (g : Guard) (f : FmtA) (s : State) : Result := issue (.vspickScan g f) g s .ok (doVspickScan f)
def doVspickFinal (f : FmtA) (s : State) : State := doPick f true s
def execVspickFinal (g : Guard) (f : FmtA) (s : State) : Result := issue (.vspickFinal g f) g s .ok (doVspickFinal f)

end Sys2Proof.Machine
end

