-- ==== Sys2Proof/Machine/QuireFamily.lean ====
section
/-! DEFINITION. Class Q: the quire file, its images, and the instructions of the Q slot (R160 to R181). -/
namespace Sys2Proof.Machine

/-! ### Images (R162, R163) -/

/-- VAL, STATUS and the reserved bytes of a quire image. -/
def Quire.image (q : Quire) : List Byte :=
  natBytes 64 q.val.toNat ++ [if q.nar then 1 else 0] ++ List.replicate 63 0
/-- The quire that a VAL field and a NARS bit give. -/
def quireOf (nar : Bool) (bs : List Byte) : Quire := if nar then Quire.narState else ⟨false, BitVec.ofNat 512 (leNat bs)⟩
/-- The quire of an image. -/
def quireOfImage (bs : List Byte) : Quire := quireOf (byteAt bs 64 % 2 == 1) (bs.take 64)

/-- The image of tile t of a core: cells, NARMAP, zeros. -/
def Core.tileImage (k : Core) (t : Nat) : List Byte :=
  ((List.range 256).flatMap fun c => natBytes 64 (k.cell t c).val.toNat)
    ++ natBytes 32 ((List.range 256).foldl (fun n c => if (k.cell t c).nar then n + 2 ^ c else n) 0)
    ++ List.replicate 96 0
/-- The cells of a tile image, without those that are zero. -/
def cellsOfImage (bs : List Byte) : Sparse Quire :=
  (List.range 256).filterMap fun c =>
    let q := quireOf (byteAt bs (16384 + c / 8) / 2 ^ (c % 8) % 2 == 1) ((bs.drop (64 * c)).take 64)
    if q = Quire.zero then none else some (c, q)

/-! ### Ownership (R167, R187) -/

def checkTile (t : Nat) (s : State) : Verdict :=
  trapIf ((s.here.tileOwner t).owner != some s.cur.ctx) causeACCF (BitVec.ofNat 64 (0x100 + t))
def checkSlot (n : Nat) (s : State) : Verdict :=
  trapIf ((s.here.slotOwner n).owner != some s.cur.ctx) causeACCF (BitVec.ofNat 64 (0x200 + n))

/-! ### Clearing and negating (R171) -/

/-- A result in a quire, with its flags. -/
def putQ (lat : Nat) (d : BitVec 6) (r : Quire × Flags) (s : State) : State := s.put lat (.q d.toNat r.1) r.2

def doQclr (f : FmtA) (s : State) : State := putQ 1 f.dst (Quire.zero, Flags.none) s
def execQclr (g : Guard) (f : FmtA) (s : State) : Result := issue (.qclr g f) g s .ok (doQclr f)
/-- The negation of a quire; that of −2^271 leaves the range. -/
def Quire.negate (q : Quire) : Quire × Flags :=
  if q.nar then (q, Flags.none)
  else match quireOfUnits (-q.val.toInt) with
    | some r => (r, Flags.none)
    | none => (Quire.narState, Flags.qov)
def doQneg (f : FmtA) (s : State) : State := putQ 4 f.dst (s.me.qr f.dst.toNat).negate s
def execQneg (g : Guard) (f : FmtA) (s : State) : Result := issue (.qneg g f) g s .ok (doQneg f)

/-! ### Sums of products (R172, R173) -/

/-- The addend −v when SUB is 1. -/
def signed (f : FmtA) (v : Val) : Val := if f.sub == 1 then v.neg else v
/-- One product of a pair of words. -/
def prodOf (f : FmtA) (a b : Nat) : Val × Flags :=
  let el (u : Bool) (n : Nat) : Val := elemVal f.fmt u n
  let p := prodVal f.prof.toNat (isIeee f.fmt) (el f.sga a) (el f.sgb b)
  (signed f p.1, p.2)
/-- Products added to the destination by the profile. -/
def sumProducts (lat : Nat) (f : FmtA) (ps : List (Val × Flags)) (s : State) : State :=
  let r := profileSum f.prof.toNat (s.me.qr f.dst.toNat) (ps.map Prod.fst)
  putQ lat f.dst (r.1, r.2 ||| orFlags (ps.map Prod.snd)) s

def doQdot (f : FmtA) (s : State) : State :=
  let c := s.me
  let w := fmtWidth f.fmt
  sumProducts 6 f (((List.range (1024 / w)).filter (c.on f w)).map fun i => prodOf f (c.ln f.opa w i) (c.ln f.opb w i)) s
def execQdot (g : Guard) (f : FmtA) (s : State) : Result := issue (.qdot g f) g s .ok (doQdot f)
def doQfma (f : FmtA) (s : State) : State :=
  let w := fmtWidth f.fmt
  sumProducts 4 f [prodOf f ((s.me.x f.opa.toNat).toNat % 2 ^ w) ((s.me.x f.opb.toNat).toNat % 2 ^ w)] s
def execQfma (g : Guard) (f : FmtA) (s : State) : Result := issue (.qfma g f) g s .ok (doQfma f)

/-! ### Single values (R175 to R177) -/

def doQadd (f : FmtA) (s : State) : State :=
  let v := decodeVal (fmtOf f.fmt) ((s.me.x f.opa.toNat).toNat % 2 ^ fmtWidth f.fmt)
  let r := quireAdd (s.me.qr f.dst.toNat) (signed f v)
  putQ 4 f.dst (r.1, r.2 ||| flagIf v.isSignalling Flags.nv) s
def execQadd (g : Guard) (f : FmtA) (s : State) : Result := issue (.qadd g f) g s .ok (doQadd f)
def doQaddq (f : FmtA) (s : State) : State :=
  putQ 4 f.dst (quireAdd (s.me.qr f.dst.toNat) (signed f (s.me.qr f.opa.toNat).value)) s
def execQaddq (g : Guard) (f : FmtA) (s : State) : Result := issue (.qaddq g f) g s .ok (doQaddq f)

/-- The cell of IMM8. -/
def cellOf (f : FmtA) (s : State) : Quire := s.here.cell f.opa.toNat (imm8 f).toNat
def doQfrom (f : FmtA) (s : State) : State :=
  putQ 4 f.dst (quireAdd (s.me.qr f.dst.toNat) (signed f (cellOf f s).value)) s
def execQfrom (g : Guard) (f : FmtA) (s : State) : Result :=
  issue (.qfrom g f) g s (checkTile f.opa.toNat s) (doQfrom f)

/-! ### Reading out (R178, R179) -/

def doQrnd (f : FmtA) (s : State) : State :=
  let r := readQuire (fmtOf f.fmt) (s.me.qr f.opa.toNat)
  s.put 4 (.x f.dst.toNat (extendWord f.fmt r.1)) r.2
def execQrnd (g : Guard) (f : FmtA) (s : State) : Result := issue (.qrnd g f) g s .ok (doQrnd f)

/-- A condition on a quire against zero; the NaR state orders below every real. -/
def quireCond (code : Nat) (q : Quire) : Bool :=
  condOrd code (q.nar || q.isNeg) (!q.nar && q.val == 0) false
def doQtst (f : FmtA) (s : State) : State :=
  s.put 2 (.p f.dst.toNat (quireCond f.sub.toNat (s.me.qr f.opa.toNat))) Flags.none
def execQtst (g : Guard) (f : FmtA) (s : State) : Result := issue (.qtst g f) g s .ok (doQtst f)
def doQtstNar (f : FmtA) (s : State) : State :=
  s.put 2 (.p f.dst.toNat (s.me.qr f.opa.toNat).nar) Flags.none
def execQtstNar (g : Guard) (f : FmtA) (s : State) : Result := issue (.qtstNar g f) g s .ok (doQtstNar f)

/-! ### Spilling (R180) -/

/-- ALIGN, ACCF and the region check on an image of n bytes, then the gates of class L. -/
def checkImage (n : Nat) (f : FmtL) (s : State) : Verdict :=
  let a := s.me.addrL f
  (trapIf (a.toNat % 128 != 0) causeALIGN a).andThen <|
  (trapIf (!inScratch a.toNat n) causeACCF a).andThen <|
  (s.here.regionCheck s.cur.ctx [(a.toNat, n)]).andThen (s.gateL s.cur [(a.toNat, n)])

def doQsave (f : FmtL) (s : State) : State :=
  s.put 8 (.store (s.me.addrL f).toNat (s.me.qr f.dt.toNat).image) Flags.none
def execQsave (g : Guard) (f : FmtL) (s : State) : Result := issue (.qsave g f) g s (checkImage 128 f s) (doQsave f)
def doQload (f : FmtL) (s : State) : State :=
  s.put 8 (.q f.dt.toNat (quireOfImage (s.here.read (s.me.addrL f).toNat 128))) Flags.none
def execQload (g : Guard) (f : FmtL) (s : State) : Result := issue (.qload g f) g s (checkImage 128 f s) (doQload f)

end Sys2Proof.Machine
end

