-- ==== Sys2Proof/Machine/Matrix.lean ====
section
/-! DEFINITION. Classes M and D: operand slots, claims and releases, the matrix array, tile images and the update slot
(R183 to R208), and the clearing of tiles and slots. -/
namespace Sys2Proof.Machine

/-! ### Claiming and releasing (R189, R190) -/

def claimLimit (f : FmtA) : Nat := if f.sub.getLsbD 0 then 8 else 64
def Core.ownerOf (k : Core) (tile : Bool) (n : Nat) : Own := if tile then k.tileOwner n else k.slotOwner n
def Core.setOwnerOf (k : Core) (tile : Bool) (n : Nat) (o : Own) : Core :=
  if tile then k.setTileOwner n o else k.setSlotOwner n o
/-- No owner, not being cleared, no pending release. -/
def Own.isFree (o : Own) : Bool := o.owner.isNone && !o.clearing && o.release.isNone
/-- What a claim grants now; 0 when it grants nothing. -/
def claimGrant (f : FmtA) (s : State) : Word :=
  let k := s.here
  let tile := f.sub.getLsbD 0
  let limit := claimLimit f
  let want := s.me.x f.opa.toNat
  let bit (n : Nat) : Word := BitVec.ofNat 64 (2 ^ n)
  if !f.sub.getLsbD 1 then
    if tile && 256 ≤ want.toNat then 0
    else if want != 0 && (List.range limit).all (fun n =>
        let o := k.ownerOf tile n
        !want.getLsbD n || o.isFree || (o.owner == some s.cur.ctx && o.release.isNone)) then want
    else 0
  else
    let n := want.toNat
    let free := (List.range limit).filter fun i => (k.ownerOf tile i).isFree
    if n == 0 || limit < n || free.length < n then 0 else (free.take n).foldl (fun w i => w ||| bit i) 0
/-- Whether a request can ever be granted. -/
def claimPossible (f : FmtA) (s : State) : Bool :=
  let want := (s.me.x f.opa.toNat).toNat
  if !f.sub.getLsbD 1 then want != 0 && !(f.sub.getLsbD 0 && 256 ≤ want) else want != 0 && want ≤ claimLimit f
def checkMclaim (f : FmtA) (s : State) : Verdict :=
  blockIf (claimGrant f s == 0 && f.sub.getLsbD 2 && claimPossible f s)
def doMclaim (f : FmtA) (s : State) : State :=
  let grant := claimGrant f s
  let tile := f.sub.getLsbD 0
  let own : Own := { owner := some s.cur.ctx, clearing := false, ends := 0, release := none }
  let s := s.modCore s.cur.core fun k =>
    (List.range (claimLimit f)).foldl (fun k n => if grant.getLsbD n then k.setOwnerOf tile n own else k) k
  s.put 1 (.x f.dst.toNat grant) Flags.none
def execMclaim (g : Guard) (f : FmtA) (s : State) : Result := issue (.mclaim g f) g s (checkMclaim f s) (doMclaim f)

/-- Every named resource that the context owns has a pending release from now on. -/
def doMrel (f : FmtA) (s : State) : State :=
  let tile := f.sub.getLsbD 0
  let named := s.me.x f.opa.toNat
  s.modCore s.cur.core fun k =>
    (List.range (claimLimit f)).foldl (fun k n =>
      let o := k.ownerOf tile n
      if named.getLsbD n && o.owner == some s.cur.ctx && o.release.isNone then
        k.setOwnerOf tile n { o with release := some (s.me.ccyc + 1) }
      else k) k
def execMrel (g : Guard) (f : FmtA) (s : State) : Result := issue (.mrel g f) g s .ok (doMrel f)

/-- A result in flight is due to a slot or tile. -/
def Effect.dueTo (tile : Bool) (n : Nat) : Effect → Bool
  | .tile t _ _ => tile && t == n
  | .slot k _ => !tile && k == n
  | .array w _ _ => tile && (match decodeWord w with
      | .ok i => arrayTile i == n
      | _ => false)
  | _ => false
/-- The pending release of a slot or tile may be performed: its cycle has come and no result is due there. -/
def State.releaseReady (s : State) (core : Nat) (tile : Bool) (n : Nat) : Bool :=
  let o := (s.core core).ownerOf tile n
  match o.owner, o.release with
  | some c, some t =>
    let x := s.ctx ⟨core, c⟩
    t ≤ x.ccyc && !(x.line.any fun p => p.eff.dueTo tile n)
  | _, _ => false
def execPendingRelease (core : Nat) (tile : Bool) (n : Nat) (s : State) : Result :=
  whenever (s.releaseReady core tile n) s fun s => s.modCore core fun k => k.setOwnerOf tile n (s.lost core tile)

/-! ### Clearing (R166, R185, R214) -/

/-- Every cell of a tile zero, with NARS 0. -/
def Core.clearTile (k : Core) (t : Nat) : Core :=
  { k with tiles := k.tiles.filter fun e => !(256 * t ≤ e.1 && e.1 < 256 * t + 256) }
def execTileClearDone (core n : Nat) (s : State) : Result :=
  whenever ((s.core core).tileOwner n).clearing s fun s =>
    s.modCore core fun k => (k.clearTile n).setTileOwner n { (k.tileOwner n) with clearing := false, ends := 0 }
def execSlotClearDone (core n : Nat) (s : State) : Result :=
  whenever ((s.core core).slotOwner n).clearing s fun s =>
    s.modCore core fun k =>
      { k.setSlotOwner n { (k.slotOwner n) with clearing := false, ends := 0 } with slots := Sparse.set 0 k.slots n 0 }
/-- Bytes of region n. -/
def regionBytes (n : Nat) : Nat × Nat := (0x20000 * n, min (0x20000 * n + 0x20000) scratchEnd)
/-- The zeroing of a region ends: its bytes are zero and its blocks RAW. Every byte is written as it ends, so that a remote
write or a copy performed in the region while ZEROn is 1 is lost. Log 19, DESIGN CHOICE. -/
def execRegionZeroDone (core n : Nat) (s : State) : Result :=
  whenever ((s.core core).region n).zeroing s fun s =>
    s.modCore core fun k =>
      let (lo, hi) := regionBytes n
      { k.setRegion n { k.region n with zeroing := false, ends := 0 } with
        scratch := k.scratch.clear lo hi
        relief := k.relief.filter fun e => !(lo / 4096 ≤ e.1 && e.1 < (hi + 4095) / 4096) }

/-! ### Loading slots (R191, R192) -/

def mldaStr (f : FmtL) : Bool := f.lx.getLsbD 0
def mldaBase (f : FmtL) (c : Ctx) : Word := if mldaStr f then c.addrBase f else c.addrL f
def mldaStride (f : FmtL) (c : Ctx) : Word := if mldaStr f then c.x f.idx.toNat else 96
/-- Addresses and lengths of the 16 rows, then the side band when it is read. -/
def mldaPieces (f : FmtL) (c : Ctx) : List (Nat × Nat) :=
  let a := mldaBase f c
  ((List.range 16).map fun r => ((a + BitVec.ofNat 64 r * mldaStride f c).toNat, 96))
    ++ (if f.lx.getLsbD 1 then [((a + 16 * mldaStride f c).toNat, 64)] else [])
/-- The lowest byte of some pieces outside scratchpad data. -/
def lowestOutside (ps : List (Nat × Nat)) : Option Nat :=
  (ps.filter fun p => !inScratch p.1 p.2).foldl (fun m p =>
    let b := max p.1 scratchEnd
    some (match m with
      | none => b
      | some a => min a b)) none
def checkMlda (f : FmtL) (s : State) : Verdict :=
  let c := s.me
  let a := mldaBase f c
  (checkSlot f.dt.toNat s).andThen <|
  (trapIf (a.toNat % 16 != 0) causeALIGN a).andThen <|
  (trapIf ((mldaStride f c).toNat % 16 != 0) causeALIGN (mldaStride f c)).andThen <|
  (match lowestOutside (mldaPieces f c) with
    | some b => Verdict.trap (Trap.plain causeACCF (BitVec.ofNat 64 b))
    | none => .ok).andThen <|
  (s.here.regionCheck s.cur.ctx (mldaPieces f c)).andThen (s.gateL s.cur (mldaPieces f c))
def doMlda (f : FmtL) (s : State) : State :=
  let bs := (mldaPieces f s.me).flatMap fun p => s.here.read p.1 p.2
  s.put 10 (.slot f.dt.toNat (BitVec.ofNat 12800 (leNat bs))) Flags.none
def execMlda (g : Guard) (f : FmtL) (s : State) : Result := issue (.mlda g f) g s (checkMlda f s) (doMlda f)

/-! ### The array (R193 to R200) -/

/-- Interval of an array instruction (R199). -/
def arrayInterval : Instr → Nat
  | .mlut _ _ => 1
  | .mma _ f | .mmai _ f => if fmtWidth f.fmta == 32 || fmtWidth f.fmtb == 32 then 4 else 2
  | _ => 0
/-- Ownership, the interval by bubble groups, then the shared array by a stall. Log 24, DEDUCED. -/
def checkArray (f : FmtM) (s : State) : Verdict :=
  let k := s.here
  (checkTile f.tile.toNat s).andThen <| (checkSlot f.osa.toNat s).andThen <| (checkSlot f.osb.toNat s).andThen <|
  if s.me.ccyc < s.me.arrNext then .bubble
  else if k.cyc < k.arrBusy.1 && k.arrBusy.2 != s.cur.ctx then .stall
  else .ok
/-- The instruction enters the array with the two slot images it reads; its sums land 12 cycles later. -/
def doArray (i : Instr) (f : FmtM) (s : State) : State :=
  let k := s.here
  let n := arrayInterval i
  let s := s.put 12 (.array (s.wordOf i) (k.slotImg f.osa.toNat) (k.slotImg f.osb.toNat)) Flags.none
  let s := s.setMe fun c => { c with arrNext := c.ccyc + n }
  s.modCore s.cur.core fun k => { k with arrBusy := (k.cyc + n, s.cur.ctx) }
def execMma (g : Guard) (f : FmtM) (s : State) : Result :=
  issue (.mma g f) g s (checkArray f s) (doArray (.mma g f) f)
def execMmai (g : Guard) (f : FmtM) (s : State) : Result :=
  issue (.mmai g f) g s (checkArray f s) (doArray (.mmai g f) f)
def execMlut (g : Guard) (f : FmtM) (s : State) : Result :=
  issue (.mlut g f) g s (checkArray f s) (doArray (.mlut g f) f)

/-! ### Tiles (R201, R202, R207) -/

def allRows : BitVec 16 := BitVec.allOnes 16
def doMzero (f : FmtM) (s : State) : State := s.put 2 (.tile f.tile.toNat allRows []) Flags.none
def execMzero (g : Guard) (f : FmtM) (s : State) : Result :=
  issue (.mzero g f) g s (checkTile f.tile.toNat s) (doMzero f)
/-- Rows first to first + count − 1. -/
def rowsOf (first count : Nat) : BitVec 16 := BitVec.ofNat 16 ((2 ^ count - 1) * 2 ^ first)
def doDclr (f : FmtM) (s : State) : State :=
  s.put 2 (.tile f.tile.toNat (rowsOf f.mx.toNat (f.klen.toNat + 1)) []) Flags.none
def execDclr (g : Guard) (f : FmtM) (s : State) : Result :=
  issue (.dclr g f) g s (checkTile f.tile.toNat s) (doDclr f)

def tileImageBytes : Nat := 16512
def checkTileImage (f : FmtL) (s : State) : Verdict :=
  (checkTile f.dt.toNat s).andThen (checkImage tileImageBytes f s)
def doMsave (f : FmtL) (s : State) : State :=
  s.put 132 (.store (s.me.addrL f).toNat (s.here.tileImage f.dt.toNat)) Flags.none
def execMsave (g : Guard) (f : FmtL) (s : State) : Result := issue (.msave g f) g s (checkTileImage f s) (doMsave f)
def doMload (f : FmtL) (s : State) : State :=
  s.put 132 (.tile f.dt.toNat allRows (cellsOfImage (s.here.read (s.me.addrL f).toNat tileImageBytes))) Flags.none
def execMload (g : Guard) (f : FmtL) (s : State) : Result := issue (.mload g f) g s (checkTileImage f s) (doMload f)

/-! ### The update slot (R203 to R205) -/

def updTile (f : FmtA) : Nat := (f.aux.extractLsb' 0 3).toNat
def updPart (f : FmtA) : Nat := (f.aux.extractLsb' 3 3).toNat
/-- Lanes 16s to 16s + 15 under the mask, each from its cell of the row that SUB names. -/
def putRow (lat : Nat) (f : FmtA) (r : Nat → Quire → Nat × Flags) (s : State) : State :=
  let w := fmtWidth f.fmt
  let lo := 16 * updPart f
  putWhere lat w f.dst.toNat (fun d => decide (lo ≤ d) && decide (d < lo + 16) && s.me.on f w d)
    (fun d => r d (s.here.cell (updTile f) (16 * f.sub.toNat + (d - lo)))) s
def doDrd (f : FmtA) (s : State) : State := putRow 8 f (fun _ q => readQuire (fmtOf f.fmt) q) s
def execDrd (g : Guard) (f : FmtA) (s : State) : Result := issue (.drd g f) g s (checkTile (updTile f) s) (doDrd f)

/-- One half of x[OPB] as a t32e2 value. -/
def stepWord (f : FmtA) (c : Ctx) (lo : Nat) : Val := decodeVal t32e2 (bits (c.x f.opb.toNat) lo 32)
def doUpdate (f : FmtA) (beta : Val) (s : State) : State :=
  let c := s.me
  let nf := fmtOf f.fmt
  putRow 10 f (fun d q =>
    updateRule nf q.value (stepWord f c 0) beta (decodeVal nf (c.ln f.opa (fmtWidth f.fmt) d))) s
def doDsgd (f : FmtA) (s : State) : State := doUpdate f (.real Q.one) s
def execDsgd (g : Guard) (f : FmtA) (s : State) : Result := issue (.dsgd g f) g s (checkTile (updTile f) s) (doDsgd f)
def doDmom (f : FmtA) (s : State) : State := doUpdate f (stepWord f s.me 32) s
def execDmom (g : Guard) (f : FmtA) (s : State) : Result := issue (.dmom g f) g s (checkTile (updTile f) s) (doDmom f)

/-! ### DPUB (R206) -/

def dpubVersion (f : FmtL) (c : Ctx) : Nat := bits (c.x f.dt.toNat) 0 48
/-- R188 lets no instruction of class D block but for the region check, R296 holds this release for the writes bound to its
word, and R304 holds every class M access at a closed gate: the model follows R296 and R304. Log 65, DEDUCED. -/
def checkDpub (f : FmtL) (s : State) : Verdict :=
  let a := s.me.addrL f
  (checkSyncAddr a).andThen <|
  (trapIf (swKind (syncWordAt a s) != 2) causeSYNCP a).andThen <|
  (trapIf (dpubVersion f s.me ≤ swVersion (syncWordAt a s)) causeSYNCP a).andThen <|
  s.checkRelease s.cur (s.syncRef s.cur.core (syncIndex a.toNat)) none
def doDpub (f : FmtL) (s : State) : State :=
  let a := s.me.addrL f
  setSyncAt a (swSetVersion (syncWordAt a s) (dpubVersion f s.me)) s
def execDpub (g : Guard) (f : FmtL) (s : State) : Result := issue (.dpub g f) g s (checkDpub f s) (doDpub f)

end Sys2Proof.Machine
end

