-- ==== Sys2Proof/Machine/Copy.lean ====
section
/-! DEFINITION. How engine commands touch memory (R245, R246, R249, R261, R262, R319), the layouts of transposition and
bt4 requantisation (R253 to R255), and the encoding of blocks (R259, R263): shared by the copy channels and the
transform engine. -/
namespace Sys2Proof.Machine

/-! ### Agents and places -/

/-- Who moves data for a command: its channel, or a unit of a near-memory complex. -/
inductive Agent
  | chan
  | unit (stack : Nat)
deriving DecidableEq, Repr

/-- Outcome of a step of a command. -/
inductive Try
  /-- It waits. -/
  | wait
  /-- It stops with a cause and an address; writes already performed stay. -/
  | stop (c : StopCause) (addr : Nat) (s : State)
  | go (s : State)
deriving DecidableEq, Repr

/-- Where bytes of one 4 KiB unit lie, and whether the unit is Relief-capable. -/
inductive Placed
  | wait
  | fail (c : StopCause) (addr : Nat) (s : State)
  | at_ (l : Loc) (relief : Bool) (s : State)
deriving DecidableEq, Repr

/-- A cluster window with RELIEF holds the block of a cluster address (R217, R256). -/
def Ctx.windowRelief (c : Ctx) (a : Nat) : Bool :=
  (List.range 4).any fun i =>
    let w := Sparse.get 0 c.cwin i
    w.getLsbD 28 && inWindow w ((a - clusterBase) / 4096 * 4096)
/-- The scratchpad block lies in a Relief-capable range of the context that owns its region. Log 15, PRESUMED. -/
def Core.blockRelief (k : Core) (a : Nat) : Bool :=
  k.reliefCap.any fun r => (k.region (regionOf a)).owner == some r.1 && r.2.1 ≤ a / 4096 && a / 4096 ≤ r.2.2
/-- The Relief-capable ranges of a context replaced. -/
def Core.setReliefCap (k : Core) (ctx : Nat) (ranges : List (Nat × Nat)) : Core :=
  { k with reliefCap := k.reliefCap.filter (·.1 != ctx) ++ ranges.map fun r => (ctx, r.1, r.2) }

/-- Admission of n local bytes to a context (R245): scratchpad data of owned regions, or a cluster window. -/
def State.placeLocal (s : State) (r : CtxRef) (a n : Nat) : Placed :=
  if clusterBase ≤ a then
    if (s.ctx r).inCluster a n then .at_ (.loc r.core a) ((s.ctx r).windowRelief a) s else .fail .accf a s
  else if inScratch a n then
    match (s.core r.core).regionCheck r.ctx [(a, n)] with
    | .ok => .at_ (.loc r.core a) ((s.core r.core).blockRelief a) s
    | .trap t => .fail .accf t.addr.toNat s
    | _ => .wait
  else .fail .accf a s

/-- The I/O die whose transfer engine reaches a physical address: of another module that of the Neatline port on the way,
else the one that owns the host port or the LPDDR controller (R20). -/
def State.boundaryIod (s : State) (pa : Nat) : Option Nat :=
  if paModule pa != s.mod.number then (s.linkTo (paModule pa)).map linkIod
  else match homeOf pa with
    | .lpddr i => some i
    | .host p => some (portIod p)
    | _ => none
/-- Translation for a channel: what lies beyond the package boundary is moved by the engine of the I/O die that owns it,
with that die's cache (R20, R313). Log 48, DEDUCED. -/
def State.translateChan (s : State) (core chan tenant va n : Nat) (write : Bool) : Except Nat Trans × State :=
  match s.translate (.chan core chan) tenant va n write with
  | (.ok t, s) =>
    (match s.boundaryIod t.pa with
      | some i => s.translate (.die (iodDie i)) tenant va n write
      | none => (.ok t, s))
  | e => e

/-- Translation for whoever moves the data of a command: a near-memory unit uses the cache of its stack's die (R313). -/
def State.translateFor (s : State) (ag : Agent) (k : Cmd) (va n : Nat) (write : Bool) : Except Nat Trans × State :=
  match ag with
  | .chan => s.translateChan ((k.ctx.map (·.core)).getD 0) k.chan k.tenant va n write
  | .unit h => s.translate (.die (stackDie h)) k.tenant va n write

/-- The place of n bytes inside one 4 KiB unit for a command (R245, R315, R319). Log 48, DEDUCED. -/
def State.place (s : State) (ag : Agent) (k : Cmd) (isLocal : Bool) (a n : Nat) (write : Bool) : Placed :=
  if isLocal then
    match k.ctx with
    | some r => s.placeLocal r a n
    | none => .fail .accf a s
  else
    match s.translateFor ag k a n write with
    | (.error e, s) => .fail (.trans e) a s
    | (.ok t, s) =>
      match ag with
      | .chan => .at_ (.phys t.pa) t.relief s
      | .unit h =>
        if paModule t.pa == s.mod.number && homeOf t.pa == .hbm h then .at_ (.phys t.pa) t.relief s
        else .fail .accf a s

/-! ### Copies on a reserved flow (R284, R285) -/

/-- The port router at which a write of a core leaves the mesh for a stack of a module; one that comes over Neatline enters
that mesh at the port of the same number. Log 59, DESIGN CHOICE. -/
def State.exitRouter (s : State) (core module h : Nat) : Nat :=
  if module == s.mod.number then stackRouter h core
  else stackRouter h ((s.linkTo module).elim core fun l => iodRouter (linkIod l) core)
/-- The flow that a context's copy to a place takes, and the fabric cycles of its flits: the first declared one from the
issuing core to the port router at which a write to the place's stack leaves the mesh. -/
def State.copyFlow (s : State) (k : Cmd) : Loc → Option (CtxRef × Nat × Nat)
  | .loc _ _ => none
  | .phys pa =>
    match k.ctx, homeOf pa with
    | some r, .hbm h =>
      (s.flowTo r (paModule pa) (s.exitRouter r.core (paModule pa) h)).map fun x => (r, x.1, s.flowCycles x.2)
    | _, _ => none
/-- A flit of the flow that was injected so many cycles ago was in one of its slots, after its last flit and since its
command started: a write whose flit it is arrives in this cycle (R279, R285). -/
def State.flitLands (s : State) (k : Cmd) (r : CtxRef) (i cycles : Nat) : Bool :=
  let f := s.fabric - cycles
  decide (cycles ≤ s.fabric) && decide (max k.since (Sparse.get 0 (s.ctx r).flowAt i) ≤ f)
    && slotFrom (s.injections r i) f == f
/-- The die that admits a copy's best-effort write to the mesh: its core's, where the place lies beyond the core. -/
def Cmd.sendingDie (k : Cmd) : Loc → Option Nat
  | .loc _ _ => none
  | .phys _ => k.ctx.map fun r => dieOf r.core
/-- A unit of a copy may be written at a place now, as far as its flow goes, or the arbiter's delay of best-effort traffic
(R284, R398); a unit of several flits is written with its first. Log 59, DESIGN CHOICE. -/
def State.slotOpen (s : State) (ag : Agent) (k : Cmd) (l : Loc) : Bool :=
  match ag, s.copyFlow k l with
  | .chan, some (r, i, n) => s.flitLands k r i n
  | .chan, none => !((k.sendingDie l).any fun d => (s.die d).slow && decide (s.now < (s.die d).admitAt))
  | .unit _, _ => true
/-- The next best-effort unit of a die whose admission is delayed. Log 13, DESIGN CHOICE. -/
def State.delayAdmit (s : State) (d : Nat) : State :=
  if (s.die d).slow then
    { s with freeCtr := s.freeCtr + 1 }.setDie d { s.die d with admitAt := s.after (Config.admitDelay s.freeCtr) }
  else s
/-- The flits of a unit of n bytes have been sent on the flow of their place, or on best effort. -/
def State.sendCopy (s : State) (ag : Agent) (k : Cmd) (l : Loc) (n : Nat) : State :=
  match ag, s.copyFlow k l with
  | .chan, some (r, i, cycles) =>
    s.modCtx r fun c => c.sendFlit (some (i, flitsFrom (s.injections r i) ((n + 127) / 128) (s.fabric - cycles)))
  | .chan, none => (k.sendingDie l).elim s s.delayAdmit
  | .unit _, _ => s

/-- The dictionary table that a command decodes with (R260). -/
def State.tableOf (s : State) (ag : Agent) (k : Cmd) : Sparse DictSlot :=
  match ag with
  | .chan => (s.core ((k.ctx.map (·.core)).getD 0)).dict
  | .unit h => (s.stack h).dict

def isEncoded (st : Nat) : Bool := st == 1 || st == 3
def isSealed (st : Nat) : Bool := st == 2 || st == 3

/-! ### Stalls on a dictionary switch (R260) -/

def ktabSlot (f : FmtK) : Nat := (kxBits f 0 2).toNat
/-- The stack of a KTAB for a near-memory table. -/
def ktabStack (f : FmtK) : Option Nat := if f.kx.getLsbD 2 then some (kxBits f 3 4).toNat else none
/-- A KTAB that has reached its table and not yet switched its slot: the core's table as it is issued, a near-memory one
as it starts. Log 30, DEDUCED. -/
def Cmd.switching (k : Cmd) : Option (Option Nat × Nat) :=
  match k.instr with
  | some (.ktab _ f) =>
    if k.state = .finished || (f.kx.getLsbD 2 && k.aux == 0) then none else some (ktabStack f, ktabSlot f)
  | _ => none
/-- A command was accepted after a KTAB reached its table: as issued on its core, or by the complex. -/
def Cmd.after (k : Cmd) (ag : Agent) (t : Cmd) (st : Option Nat) : Bool :=
  match ag with
  | .chan => st.isNone && t.ctx.map (·.core) == k.ctx.map (·.core) && t.id < k.id
  | .unit h => st == some h && t.aux < k.aux
/-- A switch of a slot of the command's table was asked for before the command. -/
def State.slotStalled (s : State) (ag : Agent) (k : Cmd) (slot : Nat) : Bool :=
  s.cmds.any fun t => match t.switching with
    | some (st, n) => n == slot && k.after ag t st
    | none => false
/-- A demotion decodes with the table where its block lives, and stalls on a switch asked for there before the
command. -/
def State.demotionStalled (s : State) (ag : Agent) (k : Cmd) (l : Loc) : Bool :=
  let slot := byteAt (s.readAt l.block 2) 1 % 4
  match l, ag with
  | .phys pa, .chan =>
    (match homeOf pa with
      | .hbm h => s.cmds.any fun t => t.switching == some (some h, slot) && t.id < k.id
      | _ => false)
  | _, ag => s.slotStalled ag k slot

/-! ### Reading and writing (R249, R261, R262) -/

/-- Outcome of reading a range. -/
inductive Fetched
  | wait
  | fail (c : StopCause) (addr : Nat) (s : State)
  | bytes (bs : List Byte) (s : State)
deriving DecidableEq, Repr

/-- The bytes of one piece, expanded where its block is encoded. -/
def State.fetchPiece (s : State) (ag : Agent) (k : Cmd) (isLocal : Bool) (a n : Nat) : Fetched :=
  match s.place ag k isLocal (a % 2 ^ 64) n false with
  | .wait => .wait
  | .fail c x s => .fail c x s
  | .at_ l _ s =>
    if isEncoded (s.reliefAt l) && s.slotStalled ag k (byteAt (s.readAt l.block 2) 1 % 4) then .wait
    else match s.readData (s.tableOf ag k) l n with
      | some bs => .bytes bs s
      | none => .fail .rdict (a % 2 ^ 64) s
def State.fetchPieces (s : State) (ag : Agent) (k : Cmd) (isLocal : Bool) : List (Nat × Nat) → Fetched
  | [] => .bytes [] s
  | (a, n) :: ps =>
    match s.fetchPiece ag k isLocal a n with
    | .bytes bs s =>
      (match s.fetchPieces ag k isLocal ps with
        | .bytes rest s => .bytes (bs ++ rest) s
        | other => other)
    | other => other
def State.fetchRange (s : State) (ag : Agent) (k : Cmd) (isLocal : Bool) (a n : Nat) : Fetched :=
  s.fetchPieces ag k isLocal (splitRange a n)

/-- Bytes of one unit written at their place: host memory takes them as a device write (R392). -/
def State.deliver (s : State) (k : Cmd) (l : Loc) (bs : List Byte) : Except StopCause State :=
  match l with
  | .phys pa =>
    match homeOf pa with
    | .host _ => .ok (s.deviceStore pa bs (some k.id))
    | _ => s.writeData l bs
  | .loc _ _ => s.writeData l bs

/-- The places of every piece of a destination, each checked for a SEALED block and for a demotion that cannot
decode (R262). -/
def State.placePieces (s : State) (ag : Agent) (k : Cmd) (isLocal : Bool) :
    List (Nat × Nat) → Except Placed (List (Loc × Nat) × State)
  | [] => .ok ([], s)
  | (a, n) :: ps =>
    match s.place ag k isLocal (a % 2 ^ 64) n true with
    | .at_ l _ s =>
      if isSealed (s.reliefAt l) then .error (.fail .accf (a % 2 ^ 64) s)
      else if s.reliefAt l == 1 && n < 4096 && s.demotionStalled ag k l then .error .wait
      else if s.reliefAt l == 1 && n < 4096 && (expandBlock (s.tableAt l) (s.readAt l.block 4096)).isNone then
        .error (.fail .rdict (a % 2 ^ 64) s)
      else match s.placePieces ag k isLocal ps with
        | .ok (ls, s) => .ok ((l, n) :: ls, s)
        | .error e => .error e
    | other => .error other
/-- Bytes written to placed pieces in order. -/
def State.deliverAll (s : State) (k : Cmd) (a : Nat) : List (Loc × Nat) → List Byte → Try
  | [], _ => .go s
  | (l, n) :: ls, bs =>
    match s.deliver k l (bs.take n) with
    | .error c => .stop c a s
    | .ok s => s.deliverAll k (a + n) ls (bs.drop n)
/-- A range written as one unit: every piece is placed, and its flits have come, before any byte is stored. -/
def State.putRange (s : State) (ag : Agent) (k : Cmd) (isLocal : Bool) (a : Nat) (bs : List Byte) : Try :=
  match s.placePieces ag k isLocal (splitRange a bs.length) with
  | .error (.fail c x s) => .stop c x s
  | .error _ => .wait
  | .ok (ls, s) =>
    if ls.all fun x => s.slotOpen ag k x.1 then
      (ls.foldl (fun s x => s.sendCopy ag k x.1 x.2) s).deliverAll k (a % 2 ^ 64) ls bs
    else .wait

/-! ### Layouts (R253, R254) -/

def layDims (bs : List Byte) : Nat := byteAt bs 1 % 8
def layShape (bs : List Byte) : Nat := byteAt bs 2 % 16
/-- A format code that R42 assigns. -/
def isFormat (f : BitVec 6) : Bool :=
  isLaneFmt f || ((0x20#6).ule f && f.ule 0x24#6)
/-- The layout record is well formed (R253). -/
def layoutOk (bs : List Byte) : Bool :=
  let n := byteAt bs 1
  byteAt bs 0 < 64 && isFormat (layFmt bs) && 1 ≤ n && n ≤ 6
    && (if layFmt bs == 0x21#6 then byteAt bs 2 ≤ 8 else byteAt bs 2 == 0) && zeroAt bs 3 5
    && (List.range 6).all fun d =>
      let e := fieldAt bs (8 + 4 * d) 4
      if d < n then 1 ≤ e && e ≤ 65536 else e == 0
/-- The further conditions of a transposition (R254, R255). -/
def transposeOk (bs : List Byte) (outb : Nat) : Bool :=
  let c := layCols bs
  let r := layRows bs
  layoutOk bs && layDims bs == 2
    && (if layFmt bs == 0x21#6 then
          c % 2 ^ layShape bs == 0 && r % 2 ^ (8 - layShape bs) == 0 && r % 2 ^ outb == 0 && c % 2 ^ (8 - outb) == 0
        else fmtWidth (layFmt bs) * c % 8 == 0 && fmtWidth (layFmt bs) * r % 8 == 0)

/-- The transposed bytes of a tensor of elements of width w, C columns by R rows. -/
def transposeBits (w c r : Nat) (bs : List Byte) : List Byte :=
  let src := leNat bs
  let els := (List.range c).flatMap fun j => (List.range r).map fun i => src / 2 ^ (w * (i * c + j)) % 2 ^ w
  natBytes (w * c * r / 8) (els.foldr (fun x acc => acc * 2 ^ w + x) 0)

/-! ### bt4 requantisation (R255) -/

/-- Value of element e of a superblock (R37, R39). -/
def superElem (sb : List Byte) (e : Nat) : Val :=
  let b := e / 64
  let nib := byteAt sb (16 + e / 2) / (if e % 2 == 0 then 1 else 16) % 16
  btElem (fieldAt sb 0 4) (byteAt sb (4 + b)) (byteAt sb 8 / 4 ^ b % 4) nib
/-- Value of (row, column) of a bt4 tensor of C columns under shape b (R253). -/
def tensorElem (bs : List Byte) (c b row col : Nat) : Val :=
  let tr := 2 ^ (8 - b)
  let tc := 2 ^ b
  let tile := row / tr * (c / tc) + col / tc
  superElem ((bs.drop (144 * tile)).take 144) (row % tr * tc + col % tc)

/-- The greatest magnitude among the reals of a list. -/
def maxAbs (vs : List Val) : Q :=
  vs.foldl (fun m v => match v.real? with
    | some q => if m.lt q.abs then q.abs else m
    | none => m) Q.zero
/-- Tag and greatest level of a target. -/
def targetTag (t : Nat) : Nat := t
def targetMax (t : Nat) : Nat := if t == 0 then 1 else if t == 1 then 4 else 7
/-- A code's distance from v is less than another's; ties to the smaller level, then to the positive one. -/
def betterLevel (v s a b : Q) : Bool :=
  let da := (v.sub (s.mul a)).abs
  let db := (v.sub (s.mul b)).abs
  da.lt db || (da.eqv db && (a.abs.lt b.abs || (a.abs.eqv b.abs && b.lt a)))
/-- The code whose level is nearest. -/
def nearestCode (t : Nat) (s v : Q) : Nat :=
  ((List.range 16).foldl (fun best c =>
    match (btLevel (targetTag t) c).real? with
    | none => best
    | some l =>
      (match best with
        | none => some (c, l)
        | some (d, m) => if betterLevel v s l m then some (c, l) else some (d, m))) (none : Option (Nat × Q))).elim 0 Prod.fst

/-- The greatest finite f32 word. -/
def f32Max : Nat := 0x7F7FFFFF
/-- The bytes of one block: BSCALE, TAG and 32 payload bytes. -/
def encodeBtBlock (t : Nat) (sscale : Q) (vs : List Val) : Nat × Nat × List Byte :=
  if vs.any Val.isNar then (0x80, targetTag t, List.replicate 32 0)
  else
    let m := maxAbs vs
    if m.isZero then (0, 3, List.replicate 32 0)
    else
      -- a superscale that has rounded to zero leaves the quotient without a value (log 16)
      let bw := if sscale.isZero then (Config.scaleByZero m.num.natAbs m.den).toNat
        else roundTap 8 1 (m.div (sscale.mul (Q.ofInt (targetMax t))))
      let s := sscale.mul (((decodeVal t8e1 bw).real?).getD Q.one)
      let code (e : Nat) : Nat := nearestCode t s (((vs.getD e (.real Q.zero)).real?).getD Q.zero)
      (bw, targetTag t, (List.range 32).map fun i => BitVec.ofNat 8 (code (2 * i) + 16 * code (2 * i + 1)))
/-- A superblock of 256 values. -/
def encodeSuper (t : Nat) (vs : List Val) : List Byte :=
  let m := maxAbs vs
  let sw := if m.isZero then 0x3F800000 else min (roundVal f32 (.real m)).1 f32Max
  let ss := ((decodeVal f32 sw).real?).getD Q.one
  let bl := (List.range 4).map fun b => encodeBtBlock t ss ((vs.drop (64 * b)).take 64)
  natBytes 4 sw ++ bl.map (fun x => BitVec.ofNat 8 x.1)
    ++ [BitVec.ofNat 8 ((List.range 4).foldl (fun a b => a + (bl.getD b (0, 0, [])).2.1 * 4 ^ b) 0)]
    ++ List.replicate 7 0 ++ bl.flatMap (fun x => x.2.2)

/-- The transposed tensor of a layout record (R254, R255). -/
def transposed (rec_ : List Byte) (ttag outb : Nat) (bs : List Byte) : List Byte :=
  let c := layCols rec_
  let r := layRows rec_
  if layFmt rec_ == 0x21#6 then
    let tr := 2 ^ (8 - outb)
    let tc := 2 ^ outb
    -- the destination has c rows of r columns
    (List.range (c / tr)).flatMap fun i => (List.range (r / tc)).flatMap fun j =>
      encodeSuper ttag ((List.range 256).map fun e =>
        tensorElem bs c (layShape rec_) (j * tc + e % tc) (i * tr + e / tc))
  else transposeBits (fmtWidth (layFmt rec_)) c r bs

/-! ### Writing a prepared destination (R419) -/

/-- The number of bytes to the end of the aligned 64-byte unit, at most n. -/
def unitLen (a n : Nat) : Nat := min n (64 - a % 64)
/-- Destination bytes from DONE on, unit by unit; the fuel is their number. -/
def State.writeFrom (s : State) (ag : Agent) (k : Cmd) (isLocal : Bool) (dst : Nat) (bs : List Byte) : Nat → Try
  | 0 => .go (s.setCmd { k with state := .finished })
  | n + 1 =>
    if bs.length ≤ k.done then .go (s.setCmd { k with state := .finished })
    else
      let a := (dst + k.done) % 2 ^ 64
      let m := unitLen a (bs.length - k.done)
      match s.putRange ag k isLocal a ((bs.drop k.done).take m) with
      | .wait => .go (s.setCmd k)
      | .stop c x s => .stop c x (s.setCmd k)
      | .go s => s.writeFrom ag { k with done := k.done + m } isLocal dst bs n

/-! ### The parts of a source that a destination depends on (R419) -/

/-- Some parts of a source of n bytes from position pos on, each by offset and length; the bytes between are not read and
stand as zero. -/
def State.fetchParts (s : State) (ag : Agent) (k : Cmd) (isLocal : Bool) (base n : Nat) : Nat → List (Nat × Nat) → Fetched
  | pos, [] => .bytes (List.replicate (n - pos) 0) s
  | pos, (o, m) :: ps =>
    let lo := max pos o
    match s.fetchRange ag k isLocal ((base + lo) % 2 ^ 64) (o + m - lo) with
    | .bytes bs s =>
      (match s.fetchParts ag k isLocal base n (max lo (o + m)) ps with
        | .bytes rest s => .bytes (List.replicate (lo - pos) 0 ++ bs ++ rest) s
        | other => other)
    | other => other
/-- The parts of a tensor on which the bytes of its transposition from a position on depend. -/
def transposeParts (rec_ : List Byte) (outb pos : Nat) : List (Nat × Nat) :=
  let c := layCols rec_
  let r := layRows rec_
  if pos == 0 then [(0, layBytes rec_)]
  else if layFmt rec_ == 0x21#6 then
    let b := layShape rec_
    ((List.range (c * r / 256)).filter fun t =>
      let row := (t / (c / 2 ^ b) + 1) * 2 ^ (8 - b) - 1
      let col := (t % (c / 2 ^ b) + 1) * 2 ^ b - 1
      pos / 144 ≤ col / 2 ^ (8 - outb) * (r / 2 ^ outb) + row / 2 ^ outb).map fun t => (144 * t, 144)
  else
    let w := fmtWidth (layFmt rec_)
    let i := pos * 8 / w
    (List.range r).filterMap fun row =>
      let col := if row < i % r then i / r + 1 else i / r
      if col < c then
        let lo := (row * c + col) * w / 8
        some (lo, ((row + 1) * c * w + 7) / 8 - lo)
      else none
/-- The parts of superblock j on which the bytes of an operand image from a position on depend. -/
def superParts (half j pos : Nat) : List (Nat × Nat) :=
  (if pos < 96 * j + 68 || pos < 1536 + 4 * j + 4 then [(0, 9)] else [])
    ++ if pos < 96 * j + 64 then [(16 + 64 * half, 64)] else []

/-! ### Blocks (R259, R263) -/

/-- A block of data stored with a slot's dictionary where a place may hold it. -/
def State.putBlock (s : State) (ag : Agent) (k : Cmd) (slot : Nat) (l : Loc) (bs : List Byte) (sealIt : Bool) : State :=
  let s := s.sendCopy ag k l 4096
  match encodeBlock (Sparse.get DictSlot.reset (s.tableOf ag k) slot) slot bs with
  | some (_, stored) => s.putEncoded l stored (if sealIt then 3 else 1)
  | none => (s.storeAt l bs).setReliefAt l (if sealIt then 2 else 0)

/-- KENC of one block: raw data from a source, those held in TBUF first, to a Relief-capable destination. -/
def State.encodeOne (s : State) (ag : Agent) (k : Cmd) (slot : Nat) (sl dl : Bool) (src dst : Nat) : Try :=
  if s.slotStalled ag k slot then .wait
  else match s.fetchRange ag k sl (src + k.tbuf.length) (4096 - k.tbuf.length) with
    | .wait => .wait
    | .fail c x s => .stop c x s
    | .bytes rest s =>
      let bs := k.tbuf ++ rest
      match s.place ag k dl (dst % 2 ^ 64) 4096 true with
      | .wait => .wait
      | .fail c x s => .stop c x s
      | .at_ l relief s =>
        if !relief then .stop .refused k.lrec s
        else if isSealed (s.reliefAt l) then .stop .accf (dst % 2 ^ 64) s
        else if !s.slotOpen ag k l then .wait
        else .go (s.putBlock ag k slot l bs false)

/-- What an in-place command does to a block. -/
inductive BlockOp
  | recompress
  | close
  | reopen
deriving DecidableEq, Repr

/-- KREC, KSEAL and KSEAL.unseal of one block. -/
def State.reblock (s : State) (ag : Agent) (k : Cmd) (op : BlockOp) (slot : Nat) (isLocal : Bool) (a : Nat) : Try :=
  if s.slotStalled ag k slot then .wait
  else match s.place ag k isLocal (a % 2 ^ 64) 4096 true with
    | .wait => .wait
    | .fail c x s => .stop c x s
    | .at_ l relief s =>
      let st := s.reliefAt l
      if !relief then .stop .refused k.lrec s
      else if !s.slotOpen ag k l then .wait
      else match op with
        | .recompress =>
          if isSealed st then .stop .accf (a % 2 ^ 64) s
          else if st == 1 && s.slotStalled ag k (byteAt (s.readAt l 2) 1 % 4) then .wait
          else match s.readData (s.tableOf ag k) l 4096 with
            | none => .stop .rdict (a % 2 ^ 64) s
            | some bs => .go (s.putBlock ag k slot l bs false)
        | .close =>
          if st == 0 then .go (s.putBlock ag k slot l (s.readAt l 4096) true)
          else if st == 1 then .go (s.setReliefAt l 3)
          else .go s
        | .reopen => .go (if st == 3 then s.setReliefAt l 1 else if st == 2 then s.setReliefAt l 0 else s)

/-- A command moves on by one block of the count given. -/
def State.stepBlock (s : State) (k : Cmd) (total : Nat) (t : Try) : Try :=
  match t with
  | .go s =>
    let n := k.done + 4096
    .go (s.setCmd { k with done := n, tbuf := [], state := if 4096 * total ≤ n then .finished else .running })
  | .stop .refused _ _ => .stop .refused k.lrec s
  | other => other

end Sys2Proof.Machine
end

