-- ==== Sys2Proof/Machine/Channel.lean ====
section
/-! DEFINITION. The copy channels: the issue of K-slot commands (R239 to R244), refusals (R245), the units of a copy
(R249 to R254), dictionary switches (R260), KDRAIN, KRES (R316) and completion (R242). -/
namespace Sys2Proof.Machine

/-! ### Issue (R239, R241) -/

def shareOf (c : Ctx) (f : FmtK) : Nat := Sparse.get 0 c.shares f.ch.toNat
def checkShare (f : FmtK) (s : State) : Verdict :=
  trapIf (shareOf s.me f == 0) causeACCF (BitVec.ofNat 64 (0x300 + f.ch.toNat))
/-- Steps 2 to 6 of R241, for a command that takes a record of n bytes (0: none). -/
def checkK (n : Nat) (f : FmtK) (s : State) : Verdict :=
  let c := s.me
  let ks := s.chanCmds s.cur f.ch.toNat
  let a := c.a f.lrec.toNat
  (checkShare f s).andThen <|
  (cpyfOf ks).andThen <|
  (if n == 0 then .ok
   else
    (trapIf (a.toNat % 32 != 0) causeALIGN a).andThen <|
    (trapIf (!inScratch a.toNat n) causeACCF a).andThen (s.here.regionCheck s.cur.ctx [(a.toNat, n)])).andThen <|
  (if shareOf c f ≤ ks.length then (s.heldCpyf s.cur ks).andThen (.block false) else .ok)

/-- The command enters its channel's queue with everything it holds from issue on. -/
def issueCmd (i : Instr) (n : Nat) (f : FmtK) (nest : List Word) (s : State) : State :=
  let c := s.me
  let a := (c.a f.lrec.toNat).toNat
  let rec_ := if n == 0 then [] else s.here.read a n
  let word := s.wordOf i
  let tenant := s.tenantOf s.cur
  let (id, s) := s.fresh
  let k : Cmd :=
    { id := id, ctx := some s.cur, node := 0, tenant := tenant, chan := f.ch.toNat, word := word
      tgt := (c.a f.tgt.toNat).toNat, frm := (c.a f.frm.toNat).toNat, cnt := (c.x f.cnt.toNat).toNat, lrec := a
      record := rec_, nest := nest, state := .queued, done := 0, acquired := false, accepted := false
      released := false, tbuf := [], source := [], owed := [], prior := [], held := [], out := [], flags := Flags.none, lambda := c.mlambda.toNat, aux := 0, since := 0 }
  { s with cmds := s.cmds ++ [k] }
/-- The ten address registers from a[F] upward (R251, R381). -/
def nestRegs (f : FmtK) (c : Ctx) : List Word := (List.range 10).map fun i => c.a ((kxBits f 0 5).toNat + i)

def execKcp (g : Guard) (f : FmtK) (s : State) : Result :=
  issue (.kcp g f) g s (checkK 0 f s) (issueCmd (.kcp g f) 0 f [])
def execKcpOpimg (g : Guard) (f : FmtK) (s : State) : Result :=
  issue (.kcpOpimg g f) g s (checkK 0 f s) (issueCmd (.kcpOpimg g f) 0 f [])
def execKcpn (g : Guard) (f : FmtK) (s : State) : Result :=
  issue (.kcpn g f) g s (checkK 0 f s) (issueCmd (.kcpn g f) 0 f (nestRegs f s.me))
def execKcpv (g : Guard) (f : FmtK) (s : State) : Result :=
  issue (.kcpv g f) g s (checkK 32 f s) (issueCmd (.kcpv g f) 32 f [])
def execKtr (g : Guard) (f : FmtK) (s : State) : Result :=
  issue (.ktr g f) g s (checkK 32 f s) (issueCmd (.ktr g f) 32 f [])
def execKenc (g : Guard) (f : FmtK) (s : State) : Result :=
  issue (.kenc g f) g s (checkK 0 f s) (issueCmd (.kenc g f) 0 f [])
def execKrec (g : Guard) (f : FmtK) (s : State) : Result :=
  issue (.krec g f) g s (checkK 0 f s) (issueCmd (.krec g f) 0 f [])
def execKseal (g : Guard) (f : FmtK) (s : State) : Result :=
  issue (.kseal g f) g s (checkK 0 f s) (issueCmd (.kseal g f) 0 f [])
def execKsealUnseal (g : Guard) (f : FmtK) (s : State) : Result :=
  issue (.ksealUnseal g f) g s (checkK 0 f s) (issueCmd (.ksealUnseal g f) 0 f [])
def execKtab (g : Guard) (f : FmtK) (s : State) : Result :=
  issue (.ktab g f) g s (checkK 0 f s) (issueCmd (.ktab g f) 0 f [])
def execKnmc (g : Guard) (f : FmtK) (s : State) : Result :=
  issue (.knmc g f) g s (checkK 128 f s) (issueCmd (.knmc g f) 128 f [])
/-- The cells of a run of bytes. -/
def cellsOf (a : Nat) (bs : List Byte) : List (Nat × Byte) := bs.zipIdx.map fun x => (a + x.2, x.1)
/-- The cells that a remote or timed write changes. -/
def RemoteWrite.cells (w : RemoteWrite) : List (Nat × Byte) :=
  (w.bytes.zipIdx.filter fun x => w.we.getLsbD x.2).map fun x => (w.addr + x.2, x.1)
/-- A timed write put in its place among writes in increasing T, one that was issued later after one of the same T. -/
def insertTimed (w : RemoteWrite) : List RemoteWrite → List RemoteWrite
  | [] => [w]
  | v :: vs => if w.time.getD 0 < v.time.getD 0 then w :: v :: vs else v :: insertTimed w vs
/-- The local stores of a context that are still to be performed, each with its bytes: those of STVA in increasing T, then
those of QSAVE and MSAVE in order. -/
def Ctx.storesDue (c : Ctx) : List (GateMember × List (Nat × Byte)) :=
  (c.stva.foldl (fun l w => insertTimed w l) []).map (fun w => (.write w.id, w.cells))
    ++ c.port2.map (fun p => (.store c.clock p.2.1 p.2.2.length, cellsOf p.2.1 p.2.2))
    ++ c.line.filterMap fun p => match p.eff with
      | .store a bs => some (.store p.due a bs.length, cellsOf a bs)
      | _ => none
/-- Bytes that some stores write over a range of a local space. -/
def overlay (a : Nat) (bs : List Byte) (st : Nat × List Byte) : List Byte :=
  bs.zipIdx.map fun x => if st.1 ≤ a + x.2 && a + x.2 < st.1 + st.2.length then st.2.getD (a + x.2 - st.1) 0 else x.1
/-- A KCOL takes those of the earlier stores of its context that have been performed since it was issued (R335). Log 61,
DEDUCED. -/
def State.takePrior (s : State) (k : Cmd) : Cmd :=
  let left (m : GateMember) : Bool := k.ctx.any fun r => s.memberPending r m
  { k with
    prior := k.prior.filter fun m => left m.1
    source := ((k.prior.filter fun m => !left m.1).flatMap Prod.snd).foldl (fun bs x => overlay k.frm bs (x.1, [x.2])) k.source }
/-- The commands of a core's contexts take them at the end of each of its cycles. -/
def State.takePriors (s : State) (core : Nat) : State :=
  if s.cmds.all (·.prior.isEmpty) then s
  else { s with cmds := s.cmds.map fun k => if k.ctx.any (·.core == core) then s.takePrior k else k }
/-- A producer's source as it stands (R335). Log 61, DEDUCED. -/
def State.collSource (s : State) (k : Cmd) : List Byte :=
  match k.instr with
  | some (.kcol _ f) =>
    if f.kx.getLsbD 0 then
      (match s.fetchRange .chan k true k.frm (collSrcBytes k.record) with
        | .bytes bs _ => bs
        | _ => [])
    else []
  | _ => []
/-- The local ranges that a member of a gate has still to write. -/
def State.memberWrites (s : State) (r : CtxRef) (m : GateMember) : List (Nat × Nat) :=
  if !s.memberPending r m then [] else
  match m with
  | .store _ a n => [(a, n)]
  | .write id =>
    ((((s.ctx r).rwq ++ (s.ctx r).stva ++ (s.core r.core).incoming).filter fun w =>
      w.id == id && w.module == s.mod.number && w.core == r.core).map fun w => (w.addr, w.bytes.length))
  | .cmd id => (((s.findCmd id).map Cmd.ranges).getD []).filterMap fun x =>
      if x.write && !x.glob then some (x.addr, x.len) else none
  | .run id => (((s.ctx r).saeClosed.flatMap SaeWindow.runs).filter (·.1.id == id)).map fun e => (e.1.addr, szBytes e.1.sz)
/-- The writes that the gates holding a command order before it. -/
def State.gateWrites (s : State) (r : CtxRef) (k : Cmd) : List (Nat × Nat) :=
  (s.cmdGates r k).flatMap fun g => g.members.flatMap (s.memberWrites r)
/-- Once no gate holds it, a KCOL takes the bytes that the gates ordered before it as they have been left (R304, R335). Log
61, DEDUCED. -/
def State.payOwed (s : State) (k : Cmd) : Cmd :=
  if k.owed.isEmpty || s.cmdHeld k then k
  else
    let again (src : List Byte) (o : Nat × Nat) : List Byte :=
      let lo := max o.1 k.frm
      let hi := min (o.1 + o.2) (k.frm + src.length)
      if lo < hi then
        match s.fetchRange .chan k true lo (hi - lo) with
        | .bytes bs _ => overlay k.frm src (lo, bs)
        | _ => src
      else src
    { k with owed := [], source := k.owed.foldl again k.source }
/-- KCOL holds its source as it is issued, the ranges of it that closed gates keep open, and its context's earlier stores
still to be performed. -/
def doKcol (g : Guard) (f : FmtK) (s : State) : State :=
  let t := issueCmd (.kcol g f) 128 f [] s
  { t with cmds := t.cmds.map fun k =>
      if k.id == s.nextId then { k with source := t.collSource k, owed := t.gateWrites s.cur k, prior := t.me.storesDue } else k }
def execKcol (g : Guard) (f : FmtK) (s : State) : Result :=
  issue (.kcol g f) g s (checkK 128 f s) (doKcol g f)
def execKcan (g : Guard) (f : FmtK) (s : State) : Result :=
  issue (.kcan g f) g s (checkK 0 f s) (issueCmd (.kcan g f) 0 f [])
def execKtsk (g : Guard) (f : FmtK) (s : State) : Result :=
  issue (.ktsk g f) g s (checkK 0 f s) (issueCmd (.ktsk g f) 0 f [])
def execGstep (g : Guard) (f : FmtK) (s : State) : Result :=
  issue (.gstep g f) g s (checkK 32 f s) (issueCmd (.gstep g f) 32 f [])
def execGmask (g : Guard) (f : FmtK) (s : State) : Result :=
  issue (.gmask g f) g s (checkK 32 f s) (issueCmd (.gmask g f) 32 f [])

/-! ### KDRAIN (R247) -/

def checkKdrain (f : FmtK) (s : State) : Verdict :=
  let ks := s.chanCmds s.cur f.ch.toNat
  (checkShare f s).andThen <| (cpyfOf ks).andThen <|
  (if ks.isEmpty then .ok else (s.heldCpyf s.cur ks).andThen (.block false))
def execKdrain (g : Guard) (f : FmtK) (s : State) : Result := issue (.kdrain g f) g s (checkKdrain f s) id

/-! ### Stops and KRES (R246, R316) -/

/-- The commands that move units here. -/
def isCopy : Instr → Bool
  | .kcp .. | .kcpOpimg .. | .kcpn .. | .kcpv .. | .ktr .. | .kenc .. | .krec .. | .kseal .. | .ksealUnseal .. => true
  | _ => false
/-- What a command holds when it stops: a grammar command its walker; one that moves data reads again the source whose
destination bytes are not written (R249, R329). -/
def Cmd.heldAtStop (k : Cmd) : List Byte := if k.instr.any isGrammar then k.tbuf else []
/-- A command stops; one that a near-memory unit or the grammar engine had accepted leaves it (log 17, DEDUCED). -/
def State.stopCmd (s : State) (k : Cmd) (c : StopCause) (addr : Nat) : State :=
  let s := s.setCmd { k with state := .stopped c addr, accepted := false, tbuf := k.heldAtStop, held := [], out := [] }
  { s with complexes := s.complexes.map fun (h, t) => (h, { t with units := t.units.map fun (u, q) => (u, q.filter (· != k.id)) }) }
/-- TADDR of a refusal (R246): a[LREC] for a command with a record or block, else 0. Log 32, DEDUCED. -/
def Cmd.refusedAddr (k : Cmd) : Nat :=
  match k.instr with
  | some (.kcpv _ _) | some (.ktr _ _) | some (.knmc _ _) | some (.kcol _ _) | some (.gstep _ _) | some (.gmask _ _) => k.lrec
  | _ => 0
def State.refuseCmd (s : State) (k : Cmd) : State := s.stopCmd k .refused k.refusedAddr

/-- The outcome of a step of a command taken up: a refusal carries the address of R246. Log 32, DEDUCED. -/
def State.settle (s : State) (k : Cmd) (t : Try) : State :=
  match t with
  | .wait => s
  | .go s => s
  | .stop .refused _ s => s.refuseCmd ((s.findCmd k.id).getD k)
  | .stop c a s => s.stopCmd ((s.findCmd k.id).getD k) c a

/-- A command continues: a refused one, or one that has moved nothing, checks its conditions again; a KTSK posts its
remaining nodes again. Log 17, DEDUCED. -/
def State.resumeCmd (s : State) (k : Cmd) : State :=
  match k.state, k.instr with
  | .stopped .refused _, _ => s.setCmd { k with state := .queued }
  | _, some (.kenc _ _) | _, some (.krec _ _) | _, some (.kseal _ _) | _, some (.ksealUnseal _ _) | _, some (.knmc _ _) =>
    s.setCmd { k with state := if k.done == 0 then .queued else .running }
  | _, some (.ktsk _ _) => s.setCmd { k with state := .queued }
  | _, _ => s.setCmd { k with state := .running, since := s.fabric }

/-- A stopped command completes with no further effect; a KNMC's flags are kept, and a party that leaves a formed
collective cancels it (R316, R344). -/
def State.discardCmd (s : State) (k : Cmd) : State :=
  let s := match k.instr, k.ctx with
    | some (.knmc _ _), some r => s.raise r k.flags
    | _, _ => s
  (s.leaveColl k).dropCmd k.id

def doKres (f : FmtK) (s : State) : State :=
  match s.stoppedCmd s.cur f.ch.toNat with
  | some k => s.resumeCmd k
  | none => s
def execKres (g : Guard) (f : FmtK) (s : State) : Result := issue (.kres g f) g s (checkShare f s) (doKres f)
def doKresDrop (f : FmtK) (s : State) : State :=
  match s.stoppedCmd s.cur f.ch.toNat with
  | some k => s.discardCmd k
  | none => s
def execKresDrop (g : Guard) (f : FmtK) (s : State) : Result := issue (.kresDrop g f) g s (checkShare f s) (doKresDrop f)

/-! ### Refusals of copies (R245, R252, R254) -/

def maxBytes : Nat := 2 ^ 40 - 1
def maxBlocks : Nat := 2 ^ 28
/-- The version record of KCPV (R252). -/
def versionRecordOk (s : State) (bs : List Byte) : Bool :=
  refOk s (fieldAt bs 0 8) && fieldAt bs 8 8 / 2 ^ 48 == 0 && zeroAt bs 16 16
/-- The bounding ranges of source and destination share a byte of one space. -/
def Cmd.overlaps (k : Cmd) : Bool :=
  (k.ranges.filter (!·.write)).any fun a => (k.ranges.filter (·.write)).any fun b =>
    a.glob == b.glob && rangesMeet a.addr a.len b.addr b.len
/-- The test of a range of blocks before the command moves anything, block by block: each must be reached and lie in
Relief-capable memory. A block whose region is still to come makes the command wait, one that faults stops it (R245). Log
31, DEDUCED. -/
def State.blocksTry (s : State) (ag : Agent) (k : Cmd) (isLocal : Bool) (a : Nat) : Nat → Try
  | 0 => .go s
  | n + 1 =>
    match s.place ag k isLocal (a % 2 ^ 64) 4096 true with
    | .wait => .wait
    | .fail c x s => .stop c x s
    | .at_ _ relief s => if relief then s.blocksTry ag k isLocal (a + 4096) n else .stop .refused 0 s
def Try.isWait : Try → Bool
  | .wait => true
  | _ => false
def Try.isRefused : Try → Bool
  | .stop .refused _ _ => true
  | _ => false
/-- A block range that is not made of whole aligned blocks of Relief-capable memory. -/
def State.blocksRefused (s : State) (ag : Agent) (k : Cmd) (isLocal : Bool) (a n : Nat) : Bool :=
  (s.blocksTry ag k isLocal a n).isRefused
/-- The blocks that a Relief command of a channel writes: their space, first address and number. -/
def Cmd.blocks (k : Cmd) : Instr → Option (Bool × Nat × Nat)
  | .kenc _ f => some (f.kx.getLsbD 11, k.tgt, k.cnt)
  | .krec _ f | .kseal _ f | .ksealUnseal _ f => some (f.kx.getLsbD 10, k.frm, k.cnt)
  | _ => none
/-- A copy command starts, once the blocks that it would write have been tested. -/
def State.startCopy (s : State) (k : Cmd) (i : Instr) : Try :=
  match k.blocks i with
  | some (isLocal, a, n) =>
    (match s.blocksTry .chan k isLocal a n with
      | .go s => .go (s.setCmd { k with state := .running, since := s.fabric })
      | t => t)
  | none => .go (s.setCmd { k with state := .running, since := s.fabric })

/-- A copy command is refused before it moves anything; a count of 0 moves nothing (R245). Log 31, DEDUCED. -/
def State.copyRefused (s : State) (k : Cmd) : Instr → Bool
  | .kcp _ _ => maxBytes < k.cnt
  | .kcpv _ _ => maxBytes < k.cnt || !versionRecordOk s k.record || k.overlaps
  | .kcpn _ _ => maxBytes < k.cnt || k.overlaps
  | .ktr _ f => !transposeOk k.record (kxBits f 2 4).toNat || k.overlaps
  | .kenc _ f =>
    maxBlocks < k.cnt || k.overlaps || (k.cnt != 0 && (k.frm % 64 != 0 || k.tgt % 4096 != 0))
      || s.blocksRefused .chan k (f.kx.getLsbD 11) k.tgt k.cnt
  | .krec _ f | .kseal _ f | .ksealUnseal _ f =>
    maxBlocks < k.cnt || (k.cnt != 0 && k.frm % 4096 != 0) || s.blocksRefused .chan k (f.kx.getLsbD 10) k.frm k.cnt
  | _ => false

/-! ### Units of a contiguous run (R249, R261) -/

/-- The length of the unit at an address among e bytes left, upward or downward. -/
def stepLen (g a e : Nat) (down : Bool) : Nat := if down then min e (a % g + 1) else min e (g - a % g)
/-- An encoded block forwarded with its state to a whole Relief-capable block. -/
def State.forwardBlock (s : State) (k : Cmd) (dl : Bool) (b : Nat) (stored : List Byte) : Option Try :=
  match s.place .chan k dl (b % 2 ^ 64) 4096 true with
  | .at_ l relief s =>
    if !relief then none
    else if isSealed (s.reliefAt l) then some (.stop .accf (b % 2 ^ 64) s)
    else if !s.slotOpen .chan k l then some .wait
    else some (.go ((s.sendCopy .chan k l (256 * byteAt stored 4)).putEncoded l (stored.take (256 * byteAt stored 4)) 1))
  | .fail c x s => some (.stop c x s)
  | .wait => some .wait

/-- The destination block is encoded and all of it lies ahead: the unit is the whole block. -/
def State.wholeBlock (s : State) (k : Cmd) (dl : Bool) (b e : Nat) : Bool :=
  b % 4096 == 0 && 4096 ≤ e && (match s.place .chan k dl (b % 2 ^ 64) 4096 true with
    | .at_ l _ s => isEncoded (s.reliefAt l)
    | _ => false)

/-- A contiguous run being copied: its spaces, first source and destination byte, length, bytes written, and whether it
goes downward. -/
structure Run where
  sl : Bool
  dl : Bool
  a : Nat
  b : Nat
  n : Nat
  pos : Nat
  down : Bool
deriving DecidableEq, Repr

/-- Bytes not yet written, those held in TBUF among them, and bytes not yet read. -/
def Run.left (u : Run) : Nat := u.n - u.pos
def Run.unread (u : Run) (k : Cmd) : Nat := u.left - k.tbuf.length
/-- Offset of the next m bytes when e bytes are left. -/
def Run.next (u : Run) (e m : Nat) : Nat := if u.down then e - m else u.n - e
/-- Address of the next source byte. -/
def Run.source (u : Run) (k : Cmd) : Nat := (u.a + u.next (u.unread k) 1) % 2 ^ 64

/-- The next source bytes up to the end of an aligned unit of g bytes read at one instant and held (R249). -/
def State.readUnit (s : State) (ag : Agent) (k : Cmd) (u : Run) (g : Nat) : Try :=
  let e := u.unread k
  let m := stepLen g (u.source k) e u.down
  match s.fetchRange ag k u.sl (u.a + u.next e m) m with
  | .wait => .wait
  | .fail c x s => .stop c x s
  | .bytes bs s => .go (s.setCmd { k with tbuf := if u.down then bs ++ k.tbuf else k.tbuf ++ bs })
/-- The length of the next destination unit: to the end of an aligned 64 bytes, or a whole encoded block (R262, R290). -/
def State.unitOut (s : State) (k : Cmd) (u : Run) : Nat :=
  if s.wholeBlock k u.dl (u.b + u.next u.left 4096) u.left then 4096
  else stepLen 64 ((u.b + u.next u.left 1) % 2 ^ 64) u.left u.down
/-- A destination unit of m bytes written from the bytes held. -/
def State.writeUnit (s : State) (k : Cmd) (u : Run) (m : Nat) : Try :=
  let h := k.tbuf.length
  match s.putRange .chan k u.dl (u.b + u.next u.left m) (if u.down then k.tbuf.drop (h - m) else k.tbuf.take m) with
  | .go s => .go (s.setCmd { k with done := k.done + m, tbuf := if u.down then k.tbuf.take (h - m) else k.tbuf.drop m })
  | .wait => .go (s.setCmd k)
  | other => other
/-- The next source block goes encoded to the next destination block (R261). -/
def State.forwards (s : State) (k : Cmd) (u : Run) (l : Loc) : Bool :=
  let e := u.left
  k.tbuf.isEmpty && isEncoded (s.reliefAt l) && 4096 ≤ e && (u.a + u.next e 4096) % 4096 == 0
    && (u.b + u.next e 4096) % 4096 == 0
/-- A source unit read, and then a destination unit written if the bytes held fill it. -/
def State.readWrite (s : State) (k : Cmd) (u : Run) (g m : Nat) : Try :=
  match s.readUnit .chan k u g with
  | .go s =>
    (match s.findCmd k.id with
      | some k => if m ≤ k.tbuf.length then s.writeUnit k u m else .go s
      | none => .go s)
  | other => other
/-- The next unit of a run: a destination unit written from the bytes held, a block forwarded, or a source unit read, 64
bytes or a whole block of Relief-capable memory, and what it fills written (R249, R261, R290). DONE rises by the bytes
written. Log 33, DEDUCED. -/
def State.runUnit (s : State) (k : Cmd) (u : Run) : Try :=
  let m := s.unitOut k u
  if m ≤ k.tbuf.length then s.writeUnit k u m
  else match s.place .chan k u.sl (u.source k) 1 false with
  | .wait => .wait
  | .fail c x s => .stop c x s
  | .at_ l relief s =>
    if s.forwards k u l then
      let off := u.next u.left 4096
      match s.forwardBlock k u.dl (u.b + off) (s.readAt l.block 4096) with
      | some (.go s) => .go (s.setCmd { k with done := k.done + 4096 })
      | some other => other
      | none => s.readWrite k u 4096 m
    else s.readWrite k u (if relief then 4096 else 64) m

/-- The number of runs of a nest, and the indices of a run (R251). -/
def Cmd.runs (k : Cmd) (n : Nat) : Nat := (List.range (n - 1)).foldl (fun acc i => acc * k.dimCount (i + 1)) 1
def Cmd.runOffset (k : Cmd) (stride : Nat → Int) : Nat → Nat → Nat → Int
  | 0, _, _ => 0
  | left + 1, d, r => (r % k.dimCount d : Nat) * stride d + k.runOffset stride left (d + 1) (r / k.dimCount d)

/-- Total destination bytes of a copy. -/
def Cmd.total (k : Cmd) : Instr → Nat
  | .kcpn _ f => k.cnt * k.runs (nestDims f)
  | .kcpOpimg _ _ => 1600
  | .ktr _ _ => layBytes k.record
  | .kenc _ _ | .krec _ _ | .kseal _ _ | .ksealUnseal _ _ => 4096 * k.cnt
  | _ => k.cnt

/-- The operand image of sixteen superblocks (R250). -/
def operandImage (half : Nat) (sbs : List (List Byte)) : List Byte :=
  (sbs.flatMap fun sb =>
    (sb.drop (16 + 64 * half)).take 64 ++ sb.take 4 ++ List.replicate 28 0)
  ++ sbs.flatMap fun sb =>
    [sb.getD (4 + 2 * half) 0, sb.getD (5 + 2 * half) 0, BitVec.ofNat 8 (byteAt sb 8 / 16 ^ half % 16), 0]

/-- The source bytes of an operand image on which the bytes from DONE on depend, superblock by superblock. -/
def State.fetchSupers (s : State) (k : Cmd) (sl : Bool) (half : Nat) : Nat → Nat → Fetched
  | 0, _ => .bytes [] s
  | n + 1, a =>
    match s.fetchParts .chan k sl a 144 0 (superParts half (15 - n) k.done) with
    | .bytes bs s =>
      (match s.fetchSupers k sl half n (a + k.cnt) with
        | .bytes rest s => .bytes (bs ++ rest) s
        | other => other)
    | other => other

/-- A command whose source is checked and read before any destination unit is written: what it built is held until it is
written, and read again only when the command continues after a stop (R419). -/
def State.viaWhole (s : State) (k : Cmd) (dl : Bool) (src : Fetched) (build : List Byte → List Byte) : Try :=
  let put (s : State) (k : Cmd) : Try := s.writeFrom .chan k dl k.tgt k.tbuf (k.tbuf.length + 1)
  if k.tbuf.isEmpty then
    match src with
    | .wait => .wait
    | .fail c x s => .stop c x s
    | .bytes bs s => put s { k with tbuf := build bs }
  else put s k

/-- The run that a contiguous copy is at, or an encoding of the transform engine; overlapping ranges are copied so that no source byte is overwritten before it is
read (R249). -/
def Cmd.run (k : Cmd) : Instr → Option Run
  | .kcp _ f | .kcpv _ f =>
    let sl := f.kx.getLsbD 10
    let dl := f.kx.getLsbD 11
    some { sl := sl, dl := dl, a := k.frm, b := k.tgt, n := k.cnt, pos := k.done
           down := sl == dl && k.frm < k.tgt && rangesMeet k.frm k.cnt k.tgt k.cnt }
  | .kcpn _ f =>
    let r := k.done / k.cnt
    let n := nestDims f
    some { sl := f.kx.getLsbD 10, dl := f.kx.getLsbD 11, a := wrapNat 64 (k.frm + k.runOffset k.srcStride (n - 1) 1 r)
           b := wrapNat 64 (k.tgt + k.runOffset k.dstStride (n - 1) 1 r), n := k.cnt, pos := k.done % k.cnt, down := false }
  | .kenc _ f =>
    some { sl := f.kx.getLsbD 10, dl := f.kx.getLsbD 11, a := k.frm, b := k.tgt, n := 4096 * k.cnt, pos := k.done, down := false }
  | .knmc _ _ =>
    if byteAt k.record 0 == 2 && byteAt k.record 40 == 0 then
      some { sl := false, dl := false, a := fieldAt k.record 48 8, b := fieldAt k.record 56 8, n := 4096 * blkCount k.record
             pos := 4096 * k.done, down := false }
    else none
  | _ => none

/-- One unit of a running copy. Log 33, DEDUCED. -/
def State.copyStep (s : State) (k : Cmd) (i : Instr) : Try :=
  match i with
  | .kcp _ _ | .kcpv _ _ | .kcpn _ _ =>
    (match k.run i with
      | some u => s.runUnit k u
      | none => .wait)
  | .kcpOpimg _ f =>
    if k.tgt % 16 != 0 then .stop .accf k.tgt s
    else if k.cnt % 16 != 0 then .stop .accf k.frm s
    else s.viaWhole k true (s.fetchSupers k (f.kx.getLsbD 10) (kxBits f 4 1).toNat 16 k.frm)
      fun bs => operandImage (kxBits f 4 1).toNat ((List.range 16).map fun j => (bs.drop (144 * j)).take 144)
  | .ktr _ f =>
    s.viaWhole k (f.kx.getLsbD 11)
      (s.fetchParts .chan k (f.kx.getLsbD 10) k.frm (layBytes k.record) 0
        (transposeParts k.record (kxBits f 2 4).toNat k.done))
      (transposed k.record (kxBits f 0 2).toNat (kxBits f 2 4).toNat)
  | .kenc _ f =>
    s.stepBlock k k.cnt (s.encodeOne .chan k (kxBits f 0 2).toNat (f.kx.getLsbD 10) (f.kx.getLsbD 11)
      (k.frm + k.done) (k.tgt + k.done))
  | .krec _ f =>
    s.stepBlock k k.cnt (s.reblock .chan k .recompress (kxBits f 0 2).toNat (f.kx.getLsbD 10) (k.frm + k.done))
  | .kseal _ f =>
    s.stepBlock k k.cnt (s.reblock .chan k .close (kxBits f 1 2).toNat (f.kx.getLsbD 10) (k.frm + k.done))
  | .ksealUnseal _ f =>
    s.stepBlock k k.cnt (s.reblock .chan k .reopen (kxBits f 1 2).toNat (f.kx.getLsbD 10) (k.frm + k.done))
  | _ => .wait

/-- Whether a copy waits for its version before it reads. -/
def Cmd.awaitsVersion (k : Cmd) : Bool :=
  match k.instr with
  | some (.kcpv _ _) => !k.acquired
  | _ => false
/-- A command is at a core: its context's, or a node's command at any. -/
def Cmd.atCore (k : Cmd) (core : Nat) : Bool := (k.ctx.map (·.core)).getD core == core

/-- A running copy that may move units at a core. -/
def Cmd.moves (k : Cmd) (core : Nat) (i : Instr) : Bool :=
  k.state = .running && isCopy i && k.atCore core && !k.awaitsVersion

/-- The outcome of the next unit of a command. -/
def State.copyTry (s : State) (core id : Nat) : Try :=
  match s.findCmd id with
  | none => .wait
  | some k =>
    match k.instr with
    | some i =>
      if k.moves core i then
        if k.total i ≤ k.done then .go (s.setCmd { k with state := .finished }) else s.copyStep k i
      else .wait
    | none => .wait
/-- The I/O die whose transfer engine moves the data of a copy across the package boundary (R20). -/
def State.engineIod (s : State) (k : Cmd) : Option Nat :=
  ((k.ranges.filter (·.glob)).filterMap fun x =>
    match (s.translateFor .chan k x.addr 1 false).1 with
    | .ok t => s.boundaryIod t.pa
    | .error _ => none).head?
/-- The completion of a copy that an I/O die's engine has moved travels to the core as a control message (R280). Log 6,
DESIGN CHOICE. -/
def State.reportCopy (s : State) (k : Cmd) : State :=
  match k.ctx, s.engineIod k with
  | some r, some i => s.sendMsg (iodSrc i) r.core (.complete k.id)
  | _, _ => s
/-- After the last unit the command has performed every write. -/
def State.finishCopy (s : State) (core id : Nat) : State :=
  match s.findCmd id with
  | some k =>
    (match k.instr with
      | some i =>
        if k.moves core i && k.total i ≤ k.done then (s.setCmd { k with state := .finished }).reportCopy k
        else if isCopy i && k.state = .finished && k.atCore core && (s.carrierOf (.complete id)).isNone then s.reportCopy k
        else s
      | none => s)
  | none => s
/-! ### The version wait of KCPV (R252) -/

/-- The outcome of a test of the awaited word. -/
def State.versionTry (s : State) (core id : Nat) : Try :=
  match s.findCmd id with
  | none => .wait
  | some k =>
    if k.state = .running && k.awaitsVersion && k.atCore core then
      let ref := fieldAt k.record 0 8
      if !s.refLocal ref then .wait
      else
        let w := (s.core (refCore ref)).syncWord (refIdx ref)
        if swKind w != 2 then .stop .syncp (syncAddr (refIdx ref)) s
        else if fieldAt k.record 8 6 ≤ swVersion w then .go (s.setCmd { k with acquired := true, since := s.fabric })
        else .wait
    else .wait
def execKcpvVersionReached (core id : Nat) (s : State) : Result :=
  match s.findCmd id with
  | some k => .next (s.settle k (s.versionTry core id))
  | none => .next s

/-! ### Dictionary switches (R260) -/

/-- The block of a piece of a command's ranges is encoded with a slot. A place that cannot be reached holds none. -/
def State.encodedWith (s : State) (core slot : Nat) (k : Cmd) (x : Range) (p : Nat × Nat) : Bool :=
  let at_ : Option Loc :=
    if x.glob then match (s.translateFor .chan k p.1 p.2 false).1 with
      | .ok t => some (.phys t.pa)
      | .error _ => none
    else some (.loc core p.1)
  at_.any fun l => isEncoded (s.reliefAt l) && byteAt (s.readAt l.block 2) 1 % 4 == slot
/-- The ranges of a command that it has still to read or write: of a contiguous copy what DONE has not passed. -/
def Cmd.ahead (k : Cmd) : List Range :=
  match k.instr with
  | some (.kcp _ _) | some (.kcpv _ _) =>
    if (k.instr.bind k.run).any (·.down) then k.ranges.map fun x => { x with len := x.len - k.done }
    else k.ranges.map fun x => { x with addr := x.addr + k.done, len := x.len - k.done }
  | some (.krec _ _) | some (.kenc _ _) => k.ranges.map fun x => { x with addr := x.addr + k.done, len := x.len - k.done }
  | _ => k.ranges
/-- A range may be encoded by a command: KENC and KREC encode what they write. -/
def Cmd.encodes (k : Cmd) (x : Range) : Bool :=
  (match k.instr with
    | some (.kenc _ _) | some (.krec _ _) => true
    | _ => false) && k.ahead.any fun y => y.write && y.glob == x.glob && rangesMeet y.addr y.len x.addr x.len
/-- A range that a command writes in whole blocks without reading them: the destination of KENC. -/
def Cmd.overwrites (k : Cmd) (x : Range) : Bool :=
  x.write && match k.instr with
    | some (.kenc _ _) => true
    | _ => false
/-- A command of a core will still decode a block with a slot of the core's table (R260): some block that it has still to
read, or to demote, is encoded with that slot, or may come to be so by an earlier command of the core. -/
def State.willDecode (s : State) (core slot : Nat) (k : Cmd) : Bool :=
  (match k.instr with
    | some (.kseal _ _) | some (.ksealUnseal _ _) | some (.knmc _ _) | some (.ktsk _ _) | none => false
    | _ => true)
  && k.state != .finished && (k.ahead.filter (!k.overwrites ·)).any fun x =>
      (splitRange x.addr x.len).any (s.encodedWith core slot k x)
        || s.cmds.any fun t => t.id < k.id && t.ctx.map (·.core) == k.ctx.map (·.core) && t.state != .finished && t.encodes x
/-- A block is in flight at the table that a KTAB replaces: a command of the core issued before it will still decode it with
that slot, or one that its complex accepted before it started has units left. Log 30, DEDUCED. -/
def State.decoding (s : State) (k : Cmd) (f : FmtK) : Bool :=
  match ktabStack f with
  | none => s.cmds.any fun t =>
      t.id < k.id && t.ctx.map (·.core) == k.ctx.map (·.core) && s.willDecode ((k.ctx.map (·.core)).getD 0) (ktabSlot f) t
  | some h => s.cmds.any fun t =>
      t.accepted && t.state = .running && t.aux < k.aux
        && (((s.stack h).units.any fun u => u.2.contains t.id) || (!t.out.isEmpty && byteAt t.record 1 == h))
/-- The outcome of a switch: the 64 bytes read and the slot replaced once no block is in flight. -/
def State.switchTry (s : State) (core id : Nat) : Try :=
  match s.findCmd id with
  | none => .wait
  | some k =>
    match k.instr with
    | some (.ktab _ f) =>
      if k.state != .running || !k.atCore core || s.decoding k f then .wait
      else if k.frm % 64 != 0 then .stop .accf k.frm s
      else match s.fetchPiece .chan k true k.frm 64 with
        | .wait => .wait
        | .fail c x s => .stop c x s
        | .bytes bs s =>
          let d : DictSlot := { gen := k.cnt % 2 ^ 16, vals := (lineWords bs).map (BitVec.ofNat 32) }
          let s := match ktabStack f with
            | none => s.modCore core fun t => { t with dict := Sparse.set DictSlot.reset t.dict (ktabSlot f) d }
            | some h =>
              let t := s.stack h
              s.setStack h { t with dict := Sparse.set DictSlot.reset t.dict (ktabSlot f) d }
          .go (s.setCmd { k with state := .finished })
    | _ => .wait
def execDictSlotSwitch (core id : Nat) (s : State) : Result :=
  match s.findCmd id with
  | some k => .next (s.settle k (s.switchTry core id))
  | none => .next s

/-! ### Completion (R242, R349) -/

/-- SWE and the fields of a command word. -/
def Cmd.fmt (k : Cmd) : Option FmtK :=
  match k.instr with
  | some (.kcp _ f) | some (.kcpOpimg _ f) | some (.kcpn _ f) | some (.kcpv _ f) | some (.ktr _ f) | some (.kenc _ f)
  | some (.krec _ f) | some (.kseal _ f) | some (.ksealUnseal _ f) | some (.ktab _ f) | some (.knmc _ f)
  | some (.kcol _ f) | some (.kcan _ f) | some (.ktsk _ f) | some (.gstep _ f) | some (.gmask _ f) => some f
  | _ => none

/-- The release that a near-memory block names has still to be performed. -/
def Cmd.owesRelease (k : Cmd) : Bool :=
  (match k.instr with
    | some (.knmc _ _) => byteAt k.record 3 / 2 % 2 == 1
    | _ => false) && !k.released
/-- Every write performed, every host write acknowledged, the release performed, no earlier command of the context on the
channel left, the message of an I/O die's engine come (R280), and the L slots of the core's cycle past (R231). -/
def State.completeEnabled (s : State) (k : Cmd) : Bool :=
  (k.ctx.isNone && k.isStopped)
  || (k.state = .finished && !k.owesRelease
      && !s.writesLeft k && (s.carrierOf (.complete k.id)).all s.messageReady
      && (match k.ctx with
          | some r => s.coreDone r.core && !((s.chanCmds r k.chan).any fun t => t.id < k.id)
          | none => true))

/-- The end of a node's command: DONE with the flags gathered, or FAULTED with the fields of R349. Log 42, DEDUCED. -/
def State.completeNodeCmd (s : State) (k : Cmd) : State :=
  let s := s.dropCmd k.id
  match s.nodes.find? (·.id == k.node) with
  | none => s
  | some n =>
    match k.state with
    | .stopped c a => s.completeNode n .faulted (c.code + 256 * c.sub) [a, k.flags.toNat, k.done]
    | _ => s.completeNode n .done 0 [0, k.flags.toNat, 0]
/-- The end of a context's command: flags, the arrival with release at SW, KIPEND. -/
def State.completeCtxCmd (s : State) (k : Cmd) (r : CtxRef) : State :=
  let s := ((s.takeCarrier (.complete k.id)).dropCmd k.id).raise r k.flags
  match k.fmt with
  | none => s
  | some f =>
    let s := if f.swe then s.completeArrival r.core f.sw.toNat else s
    if f.intr then s.modCtx r fun c => { c with kipend := min (c.kipend + 1) 255 } else s
def State.completeCmd (s : State) (k : Cmd) : State :=
  match k.ctx with
  | some r => s.completeCtxCmd k r
  | none => s.completeNodeCmd k
def execCommandComplete (core id : Nat) (s : State) : Result :=
  match s.findCmd id with
  | some k => whenever (k.atCore core && s.completeEnabled k) s (·.completeCmd k)
  | none => .next s

end Sys2Proof.Machine
end

