-- ==== Sys2Proof/Machine/NearMemory.lean ====
section
/-! DEFINITION. The near-memory complexes (R317 to R329): refusals, acceptance, acquire references, the reduction
engine, the update unit, the transform engine, the Gazetteer, and the releases of their blocks. -/
namespace Sys2Proof.Machine

/-! ### Parameter blocks (R318, R319) -/

def nmcUnit (bs : List Byte) : Nat := byteAt bs 0
def nmcStack (bs : List Byte) : Nat := byteAt bs 1
def nmcModule (bs : List Byte) : Nat := byteAt bs 2
def nmcAcq (bs : List Byte) : Bool := (bs.getD 3 0).getLsbD 0
def nmcRel (bs : List Byte) : Bool := (bs.getD 3 0).getLsbD 1
def nmcVa (bs : List Byte) : Bool := (bs.getD 3 0).getLsbD 2
def nmcAcqRef (bs : List Byte) : Nat := fieldAt bs 8 8
def nmcAcqV (bs : List Byte) : Word := wordAt bs 16
def nmcRelRef (bs : List Byte) : Nat := fieldAt bs 24 8
def nmcRelT (bs : List Byte) : Nat := fieldAt bs 32 8

/-- A format byte that satisfies a test. -/
def fmtByte (ok : BitVec 6 → Bool) (bs : List Byte) (k : Nat) : Bool := byteAt bs k < 64 && ok (blkFmt bs k)

/-- Bytes 0 to 39 (R318, R319). -/
def nmcHeadOk (s : State) (bs : List Byte) : Bool :=
  nmcUnit bs ≤ 3 && nmcStack bs ≤ 11 && nmcModule bs ≤ 15 && s.moduleReachable (nmcModule bs)
    && byteAt bs 3 < 8 && bits (nmcAcqV bs) 48 16 == 0
    && (if nmcAcq bs then refOk s (nmcAcqRef bs) else nmcAcqRef bs == 0)
    && (if nmcRel bs then refOk s (nmcRelRef bs) else nmcRelRef bs == 0 && !nmcVa bs)
    && (nmcVa bs || nmcRelT bs == 0)

/-- Formats of the reduction engine (R321). -/
def isReduceFmt (f : BitVec 6) : Bool := isIeee f || ((0x04#6).ule f && f.ule 0x0A#6) || f == 0x14#6
/-- Two ranges of global memory share a byte. -/
def meetsPair (a b : Nat × Nat) : Bool := rangesMeet a.1 a.2 b.1 b.2
/-- No two of some ranges share a byte. -/
def disjoint : List (Nat × Nat) → Bool
  | [] => true
  | r :: rs => !(rs.any (meetsPair r)) && disjoint rs

/-- The result coincides with one buffer, or meets none (R321). -/
def reduceOverlapOk (bs : List Byte) : Bool :=
  let n := blkCount bs
  let dst := (fieldAt bs 64 8, n * blkSize bs 41)
  let bufs := (List.range (byteAt bs 42)).map fun b => (bufferAddr bs b, n * blkSize bs 40)
  match bufs.filter (meetsPair dst) with
  | [] => true
  | [b] => b == dst
  | _ => false
def reduceOk (bs : List Byte) : Bool :=
  fmtByte isReduceFmt bs 40 && fmtByte isReduceFmt bs 41 && 2 ≤ byteAt bs 42 && byteAt bs 42 ≤ 16 && byteAt bs 43 ≤ 1
    && (byteAt bs 43 == 0 || (isIeee (blkFmt bs 40) && blkFmt bs 41 == 0x1A#6))
    && zeroAt bs 44 4 && zeroAt bs 72 56
    && fieldAt bs 48 8 % blkSize bs 40 == 0 && fieldAt bs 56 8 % blkSize bs 40 == 0 && fieldAt bs 64 8 % blkSize bs 41 == 0
    && reduceOverlapOk bs

/-- The update block (R323). -/
def updateOk (bs : List Byte) : Bool :=
  let mode := byteAt bs 43
  fmtByte isReal bs 40 && fmtByte isReal bs 41 && (if mode == 0 then byteAt bs 42 == 0 else fmtByte isReal bs 42)
    && mode ≤ 2 && (mode != 0 || (zeroAt bs 48 4 && zeroAt bs 80 8))
    && (mode == 2 || (zeroAt bs 52 8 && zeroAt bs 88 8)) && zeroAt bs 60 4 && zeroAt bs 96 32
    && disjoint ((updateRanges bs).map fun r => (r.addr, r.len))

/-- Some block of a range lies outside Relief-capable memory. One that cannot be reached yet refuses nothing: the command
translates as it goes (R319). -/
def State.blocksPlain (s : State) (h : Nat) (k : Cmd) (a n : Nat) : Bool :=
  (List.range n).any fun i => match s.place (.unit h) k false ((a + 4096 * i) % 2 ^ 64) 4096 true with
    | .at_ _ relief _ => !relief
    | _ => false
/-- The transform block (R325), with the refusals of R245; a count of 0 moves nothing. -/
def transformOk (s : State) (k : Cmd) : Bool :=
  let bs := k.record
  let top := byteAt bs 40
  let src := fieldAt bs 48 8
  let dst := fieldAt bs 56 8
  let n := blkCount bs
  let h := nmcStack bs
  top ≤ 2 && byteAt bs 41 < 4 && byteAt bs 42 ≤ 2 && byteAt bs 43 ≤ 8 && zeroAt bs 44 4 && zeroAt bs 96 32
    && (if top == 2 then n == 0 && transposeOk ((bs.drop 64).take 32) (byteAt bs 43) && !k.overlaps
        else zeroAt bs 64 32 && n ≤ maxBlocks
          && (if top == 0 then (n == 0 || (src % 64 == 0 && dst % 4096 == 0)) && !k.overlaps && !s.blocksPlain h k dst n
              else dst == 0 && (n == 0 || src % 4096 == 0) && !s.blocksPlain h k src n))

/-- Formats of queries and values (R326). -/
def isT16 (f : BitVec 6) : Bool := (0x04#6).ule f && f.ule 0x07#6
def gazetteerOk (bs : List Byte) : Bool :=
  let n := gazKeys bs
  fmtByte isT16 bs 40 && fmtByte isT16 bs 41 && fmtByte isReal bs 42
    && 1 ≤ gazTop bs && gazTop bs ≤ 32 && gazTop bs ≤ n && 1 ≤ gazHdim bs && gazHdim bs ≤ 512 && 1 ≤ n && n ≤ 4096
    && 1 ≤ gazVdim bs && gazVdim bs ≤ 4096 && zeroAt bs 50 2 && zeroAt bs 112 16
    && 2 * gazVdim bs * n * n ≤ 48 * 2 ^ 30

/-- A near-memory command is refused before it touches a global byte (R319). -/
def State.nmcRefused (s : State) (k : Cmd) : Bool :=
  let bs := k.record
  !(nmcHeadOk s bs && (match nmcUnit bs with
    | 0 => reduceOk bs
    | 1 => updateOk bs
    | 2 => transformOk s k
    | _ => gazetteerOk bs))

/-! ### Acceptance and acquires (R300, R319, R320) -/

def Cmd.isNmc (k : Cmd) : Bool :=
  match k.instr with
  | some (.knmc _ _) => true
  | _ => false
/-- The block of a near-memory command of this module. -/
def State.nmcHere (s : State) (k : Cmd) : Bool := k.isNmc && k.state = .running && nmcModule k.record == s.mod.number
def State.unitQueue (s : State) (h u : Nat) : List Nat := Sparse.get [] (s.stack h).units u
def State.setUnitQueue (s : State) (h u : Nat) (q : List Nat) : State :=
  let t := s.stack h
  s.setStack h { t with units := Sparse.set [] t.units u q }

/-- An earlier near-memory command of the context on the channel has still to be accepted; one that a gate holds delays no
other (R242, R304). -/
def State.acceptsLater (s : State) (k : Cmd) : Bool :=
  s.cmds.any fun t => t.ctx == k.ctx && t.ctx.isSome && t.chan == k.chan && t.id < k.id && s.nmcHere t && !t.accepted
    && !s.cmdHeld t
/-- A running command takes a place of its unit's queue, 64 at most, in the order of its channel and not while a gate
holds it. -/
def State.acceptEnabled (s : State) (k : Cmd) : Bool :=
  s.nmcHere k && !k.accepted && (s.unitQueue (nmcStack k.record) (nmcUnit k.record)).length < 64
    && !s.cmdHeld k && !s.acceptsLater k
/-- Its number of acceptance orders it against the switches of the complex's table (R260). -/
def State.acceptNmc (s : State) (k : Cmd) : State :=
  let h := nmcStack k.record
  let u := nmcUnit k.record
  let (n, s) := s.fresh
  (s.setCmd { k with accepted := true, aux := n }).setUnitQueue h u (s.unitQueue h u ++ [k.id])
def execNmcCommandAccept (id : Nat) (s : State) : Result :=
  match s.findCmd id with
  | some k => whenever (s.acceptEnabled k) s (·.acceptNmc k)
  | none => .next s

/-- The word of the acquire reference satisfies its condition; one of another module is never seen (log 12). -/
def State.acquireEnabled (s : State) (k : Cmd) : Bool :=
  k.isNmc && k.state = .running && !k.acquired && nmcAcq k.record && s.refLocal (nmcAcqRef k.record)
    && swSatisfied ((s.core (refCore (nmcAcqRef k.record))).syncWord (refIdx (nmcAcqRef k.record))) (nmcAcqV k.record)
def execAcquireReferenceSatisfied (id : Nat) (s : State) : Result :=
  match s.findCmd id with
  | some k => whenever (s.acquireEnabled k) s (·.setCmd { k with acquired := true })
  | none => .next s

/-- The command that a unit serves: the head of its queue once its acquire reference is satisfied. -/
def State.served (s : State) (h u : Nat) : Option Cmd :=
  match s.unitQueue h u with
  | id :: _ => (s.findCmd id).filter fun k => k.state = .running && (k.acquired || !nmcAcq k.record)
  | [] => none

/-! ### Releases (R230, R301, R319) -/

/-- A completion release at a word, marked LATE when its counter exceeds RELT + Λ. -/
def State.performRelease (s : State) (ref : Nat) (relt : Option Nat) (lambda : Nat) : State :=
  let core := refCore ref
  let idx := refIdx ref
  let s := s.completeArrival core idx
  match relt with
  | some t => if t + lambda < s.coreTime core then s.modCore core fun k => k.setSync idx (swLate (k.syncWord idx)) else s
  | none => s

/-- The command leaves its unit, which serves the next. -/
def State.leaveUnit (s : State) (k : Cmd) : State :=
  let h := nmcStack k.record
  let u := nmcUnit k.record
  s.setUnitQueue h u ((s.unitQueue h u).filter (· != k.id))
/-- After its last write the command is finished; its release, if not visible-at, is sent. -/
def State.finishNmc (s : State) (k : Cmd) : State :=
  let bs := k.record
  let h := nmcStack bs
  let s := (s.leaveUnit k).setCmd { k with state := .finished }
  if nmcRel bs && !nmcVa bs then s.sendRelease (stackSrc h) (nmcRelRef bs) none k.lambda (some k.id) else s

/-- A visible-at release waits at the complex for RELT at its word's core, and then travels as a message like every other (R280,
R301, R319). Log 71, DESIGN CHOICE. -/
def State.timedReleaseEnabled (s : State) (k : Cmd) : Bool :=
  let ref := nmcRelRef k.record
  k.isNmc && k.state = .finished && nmcVa k.record && !k.released
    && !(s.msgs.any fun m => match m.msg with
      | .release _ _ _ id => id == some k.id
      | _ => false)
    && (!s.refLocal ref || nmcRelT k.record ≤ s.coreTime (refCore ref))
def State.timedRelease (s : State) (k : Cmd) : State :=
  s.sendRelease (stackSrc (nmcStack k.record)) (nmcRelRef k.record) (some (nmcRelT k.record)) k.lambda (some k.id)
def execNmcTimedRelease (id : Nat) (s : State) : Result :=
  match s.findCmd id with
  | some k => whenever (s.timedReleaseEnabled k) s (·.timedRelease k)
  | none => .next s

/-! ### Work units (R329) -/

/-- Ranges written together or not at all: every piece is placed before any byte is stored. -/
def State.placeAll (s : State) (ag : Agent) (k : Cmd) (isLocal : Bool) :
    List (Nat × List Byte) → Except Placed (List (Loc × List Byte) × State)
  | [] => .ok ([], s)
  | (a, bs) :: rest =>
    match s.placePieces ag k isLocal (splitRange a bs.length) with
    | .error e => .error e
    | .ok (ls, s) =>
      match s.placeAll ag k isLocal rest with
      | .error e => .error e
      | .ok (more, s) =>
        .ok ((ls.foldl (fun r l => (r.1 ++ [(l.1, r.2.take l.2)], r.2.drop l.2)) (([] : List (Loc × List Byte)), bs)).1 ++ more, s)
def State.putPlaced (s : State) (k : Cmd) (ls : List (Loc × List Byte)) : State :=
  ls.foldl (fun s l => match s.deliver k l.1 l.2 with
    | .ok t => t
    | .error _ => s) s
/-- They are written after something has been done at their places. -/
def State.putAll (s : State) (ag : Agent) (k : Cmd) (isLocal : Bool) (before : List Loc → State → State)
    (ws : List (Nat × List Byte)) : Try :=
  match s.placeAll ag k isLocal ws with
  | .error (.fail c x s) => .stop c x s
  | .error _ => .wait
  | .ok (ls, s) => .go ((before (ls.map Prod.fst) s).putPlaced k ls)
/-- Several ranges read in turn. -/
def State.fetchAll (s : State) (ag : Agent) (k : Cmd) : List (Nat × Nat) → Except Fetched (List (List Byte) × State)
  | [] => .ok ([], s)
  | (a, n) :: rest =>
    match s.fetchRange ag k false (a % 2 ^ 64) n with
    | .bytes bs s =>
      (match s.fetchAll ag k rest with
        | .ok (more, s) => .ok (bs :: more, s)
        | .error e => .error e)
    | e => .error e
/-- Work units: their ranges read, their results written with the flags they raise, DONE moved on by their number. -/
def State.workUnits (s : State) (ag : Agent) (k : Cmd) (n : Nat) (before : List Loc → State → State)
    (reads : List (Nat × Nat)) (compute : List (List Byte) → List (Nat × List Byte) × Flags) : Try :=
  match s.fetchAll ag k reads with
  | .error (.fail c x s) => .stop c x s
  | .error _ => .wait
  | .ok (bss, s) =>
    let r := compute bss
    match s.putAll ag k false before r.1 with
    | .go s => .go (s.setCmd { k with done := k.done + n, flags := k.flags ||| r.2 })
    | other => other
/-- One work unit. -/
def State.workUnit (s : State) (ag : Agent) (k : Cmd) (reads : List (Nat × Nat))
    (compute : List (List Byte) → List (Nat × List Byte) × Flags) : Try :=
  s.workUnits ag k 1 (fun _ s => s) reads compute

/-- Element i of n bytes of some bytes, in a format. -/
def itemVal (f : NumFmt) (bs : List Byte) (i : Nat) : Val := decodeVal f (fieldAt bs (f.width / 8 * i) (f.width / 8))

/-! ### Reduction engine (R322) -/

/-- The pairwise sum; the fuel is at least the number of values. -/
def pairwise : Nat → List Val → Val × Flags
  | 0, _ => (.real Q.zero, Flags.none)
  | n + 1, xs =>
    match xs with
    | [] => (.real Q.zero, Flags.none)
    | [x] => (x, Flags.none)
    | xs =>
      let h := 2 ^ Nat.log2 (xs.length - 1)
      let a := pairwise n (xs.take h)
      let b := pairwise n (xs.drop h)
      let r := f32Add a.1 b.1
      (r.1, a.2 ||| b.2 ||| r.2)
/-- One element: the values of the buffers reduced to a word of OFMT. -/
def reduceElem (exact : Bool) (ofmt : NumFmt) (xs : List Val) : Nat × Flags :=
  if exact then
    let q := quireAddAll Quire.zero xs
    let r := readQuire ofmt q.1
    (r.1, q.2 ||| r.2 ||| flagIf (xs.any Val.isSignalling) Flags.nv)
  else
    let p := pairwise xs.length xs
    let r := roundVal f32 p.1
    (r.1, p.2 ||| r.2)

/-- First element whose first byte lies in row r of the weight range: an element that straddles a boundary of 4 KiB belongs to
the row of its first byte, which R324 does not say. Log 70, DESIGN CHOICE. -/
def rowFirst (bs : List Byte) (r : Nat) : Nat :=
  let a := fieldAt bs 64 8
  let n := blkSize bs 40
  min (blkCount bs) (((a / 4096 + r) * 4096 - a + n - 1) / n)
/-- Rows that hold elements of the weight range. -/
def updateRows (bs : List Byte) : Nat :=
  if blkCount bs == 0 then 0
  else (fieldAt bs 64 8 + (blkCount bs - 1) * blkSize bs 40) / 4096 - fieldAt bs 64 8 / 4096 + 1

/-- Elements summed, written or not. -/
def Cmd.computed (k : Cmd) : Nat := (k.out.map HeldUnit.n).foldl (· + ·) k.done
/-- What an engine reads once and holds until it is used (R290, R292): the buffers of a reduction, or the gradients of an
update, each with its base, its element size and the elements used. -/
def Cmd.buffers (k : Cmd) : Nat := if nmcUnit k.record == 1 then 1 else byteAt k.record 42
def Cmd.bufferBase (k : Cmd) (b : Nat) : Nat := if nmcUnit k.record == 1 then fieldAt k.record 72 8 else bufferAddr k.record b
def Cmd.bufferSize (k : Cmd) : Nat := blkSize k.record (if nmcUnit k.record == 1 then 41 else 40)
def Cmd.bufferUsed (k : Cmd) : Nat := if nmcUnit k.record == 1 then rowFirst k.record k.done else k.computed
/-- Address of the next byte of buffer b that has not been read, and the end of the buffer. -/
def Cmd.unreadAt (k : Cmd) (b : Nat) : Nat × Nat :=
  let a := k.bufferBase b
  (a + k.bufferSize * k.bufferUsed + (k.held.getD b []).length, a + k.bufferSize * blkCount k.record)
/-- More bytes of buffer b held. -/
def Cmd.hold (k : Cmd) (b : Nat) (bs : List Byte) : Cmd :=
  { k with held := (List.range k.buffers).map fun i => k.held.getD i [] ++ (if i == b then bs else []) }
/-- The next unit of a buffer read at one instant: to the end of an aligned 64 bytes, or of a block of Relief-capable memory
(R249, R290). -/
def State.readBuffer (s : State) (h : Nat) (k : Cmd) (b : Nat) : Except Fetched (Cmd × State) :=
  let a := k.unreadAt b
  match s.place (.unit h) k false (a.1 % 2 ^ 64) 1 false with
  | .wait => .error .wait
  | .fail c x s => .error (.fail c x s)
  | .at_ _ relief s =>
    match s.fetchRange (.unit h) k false (a.1 % 2 ^ 64) (stepLen (if relief then 4096 else 64) a.1 (a.2 - a.1) false) with
    | .bytes bs s => .ok (k.hold b bs, s)
    | e => .error e
/-- Units of a buffer read until n bytes of it are held: the command with what could be read, and what stopped it. The fuel is
at least their number. -/
def State.fillBuffer (s : State) (h : Nat) (k : Cmd) (b n : Nat) : Nat → Cmd × Option Fetched × State
  | 0 => (k, none, s)
  | left + 1 =>
    if n ≤ (k.held.getD b []).length then (k, none, s)
    else match s.readBuffer h k b with
      | .ok (k, s) => s.fillBuffer h k b n left
      | .error e => (k, some e, s)
/-- Every buffer in turn, to the first that cannot be read. -/
def State.fillBuffers (s : State) (h : Nat) (k : Cmd) (n : Nat) : List Nat → Cmd × Option Fetched × State
  | [] => (k, none, s)
  | b :: bs =>
    match s.fillBuffer h k b n (n + 1) with
    | (k, none, s) => s.fillBuffers h k n bs
    | other => other

/-- Elements left that end in the same aligned 64 bytes of the result as the next one (R290). -/
def reduceSpan (k : Cmd) : Nat :=
  let so := blkSize k.record 41
  min (blkCount k.record - k.computed) (unitLen (fieldAt k.record 64 8 + so * k.computed) 64 / so)
/-- The next m elements summed from the bytes held: their results wait to be written. -/
def Cmd.reduceHeld (k : Cmd) (m : Nat) : Cmd :=
  let bs := k.record
  let ifmt := fmtOf (blkFmt bs 40)
  let ofmt := fmtOf (blkFmt bs 41)
  let so := ofmt.width / 8
  let rs := (List.range m).map fun i => reduceElem (byteAt bs 43 == 0) ofmt (k.held.map fun x => itemVal ifmt x i)
  { k with
    held := k.held.map fun x => x.drop (ifmt.width / 8 * m)
    out := k.out ++ [
      { n := m, addr := (fieldAt bs 64 8 + so * k.computed) % 2 ^ 64, bytes := rs.flatMap fun r => natBytes so r.1
        flags := rs.foldl (fun f r => f ||| r.2) Flags.none }] }
/-- The engine reads each unit of its buffers once, sums the elements of an aligned 64 bytes of the result, and holds them
until they are written; where a buffer cannot be read on, it sums the whole elements that it has, and stops when they have
been written (R290, R292, R329). Log 33, DEDUCED. -/
def State.reduceUnit (s : State) (h : Nat) (k : Cmd) : Try :=
  let n := reduceSpan k
  let bufs := List.range (byteAt k.record 42)
  match s.fillBuffers h k (blkSize k.record 40 * n) bufs with
  | (j, e, t) =>
    let m := bufs.foldl (fun m b => min m ((j.held.getD b []).length / blkSize k.record 40)) n
    if m != 0 then .go (t.setCmd (j.reduceHeld m))
    else match e with
      | some (.fail c x t) => if k.out.isEmpty then .stop c x t else .wait
      | _ => .wait
/-- The oldest result not yet written is written, with the flags that it raises; DONE moves on by its elements. -/
def State.writeHeldUnit (s : State) (k : Cmd) : Try :=
  match k.out with
  | [] => .wait
  | w :: ws =>
    match s.putRange (.unit (nmcStack k.record)) k false w.addr w.bytes with
    | .go s => .go (s.setCmd { k with done := k.done + w.n, flags := k.flags ||| w.flags, out := ws })
    | other => other

/-! ### Update unit (R324) -/

/-- The exact a·x + b·y: NaR with NARF when an operand is NaR or NaN, with NV for a signalling one, infinities as
R34. -/
def updateExact (a x b y : Val) : Val × Flags :=
  if [a, x, b, y].any fun v => v.isNar || v.isNan then (.nar, Flags.narf ||| x.signals ||| y.signals)
  else
    let p := ieeeMul a x
    let q := ieeeMul b y
    let r := ieeeAdd p.1 q.1.unsignedZero
    (r.1, p.2 ||| q.2 ||| r.2)
/-- A stored quantity: the exact value rounded once to its format. -/
def storeVal (f : NumFmt) (v : Val × Flags) : Nat × Flags :=
  let r := roundVal f v.1
  (r.1, v.2 ||| r.2)
def Val.one : Val := .real Q.one
/-- 1 − b. -/
def Val.complement (b : Val) : Val :=
  match b.real? with
  | some q => .real (Q.one.sub q)
  | none => .nar

/-- lg of a positive real (R324). -/
def lgOf (x : Q) : Q :=
  let k := x.log2
  let y := x.scale (-k)
  let j := ((List.range 64).filter fun j => (expT j).le y).length - 1
  let part := (y.sub (expT j)).div ((expT (j + 1)).sub (expT j))
  (Q.ofInt k).add (((Q.ofInt j).add part).scale (-6))
/-- The divisor d of the Adam form; none for NaR. -/
def adamDivisor (vv eps : Val) : Option Q :=
  match eps.real? with
  | none => none
  | some e =>
    match vv with
    | .inf false => ((decodeVal t32e2 Config.rootOfInfinity.toNat).real?).map (·.add e)
    | vv =>
      match vv.real? with
      | none => none
      | some q =>
        if q.isNeg then none
        else if q.isZero then some e
        else ((decodeVal t32e2 (expE ((lgOf q).scale (-1)))).real?).map (·.add e)
/-- w + s·m / d of the Adam form. -/
def adamStep (w st m : Val) (d : Option Q) : Val × Flags :=
  match d with
  | none => (.nar, Flags.narf ||| w.signals)
  | some q =>
    if q.isZero || [w, st, m].any (fun v => v.isNar || v.isNan) then (.nar, Flags.narf ||| w.signals)
    else
      let p := ieeeMul st m
      let r := ieeeDiv p.1 (.real q)
      let t := ieeeAdd w r.1.unsignedZero
      (t.1, p.2 ||| r.2 ||| t.2)

/-- The new weight, first state and second state of an element. -/
def updateElem (bs : List Byte) (w g m v : Nat) : Nat × Nat × Nat × Flags :=
  let wf := fmtOf (blkFmt bs 40)
  let sf := fmtOf (blkFmt bs 42)
  let st := decodeVal t32e2 (fieldAt bs 44 4)
  let b1 := decodeVal t32e2 (fieldAt bs 48 4)
  let b2 := decodeVal t32e2 (fieldAt bs 52 4)
  let eps := decodeVal t32e2 (fieldAt bs 56 4)
  let c := convertVal t32e2 (decodeVal (fmtOf (blkFmt bs 41)) g)
  let u := decodeVal t32e2 c.1
  let wv := decodeVal wf w
  let mode := byteAt bs 43
  if mode == 0 then
    let r := storeVal wf (updateExact Val.one wv st u)
    (r.1, 0, 0, c.2 ||| r.2)
  else if mode == 1 then
    let m' := storeVal sf (updateExact b1 (decodeVal sf m) Val.one u)
    let r := storeVal wf (updateExact Val.one wv st (decodeVal sf m'.1))
    (r.1, m'.1, 0, c.2 ||| m'.2 ||| r.2)
  else
    let m' := storeVal sf (updateExact b1 (decodeVal sf m) b1.complement u)
    let uu := match u.real? with
      | some q => Val.real (q.mul q)
      | none => .nar
    let v' := storeVal sf (updateExact b2 (decodeVal sf v) b2.complement uu)
    let r := storeVal wf (adamStep wv st (decodeVal sf m'.1) (adamDivisor (decodeVal sf v'.1) eps))
    (r.1, m'.1, v'.1, c.2 ||| m'.2 ||| v'.2 ||| r.2)

/-- A reduction or an update that has read part of a row of a buffer reads the rest of it, as a copy does. -/
def State.readBufferRow (rows : List Nat) (s : State) (id b : Nat) : State :=
  match s.findCmd id with
  | none => s
  | some k =>
    let a := k.unreadAt b
    let ag : Agent := .unit (nmcStack k.record)
    if k.state = .running && k.bufferBase b < a.1 && a.1 < a.2 && a.1 % 4096 != 0 then
      match s.place ag k false (a.1 % 2 ^ 64) 1 false with
      | .at_ (.phys pa) _ v =>
        if rows.contains (pa / 4096) then
          (match v.fetchRange ag k false (a.1 % 2 ^ 64) (stepLen 4096 a.1 (a.2 - a.1) false) with
            | .bytes bs w => w.setCmd (k.hold b bs)
            | _ => s)
        else s
      | _ => s
    else s
/-- Who moves the data of a command. -/
def Cmd.agent (k : Cmd) : Agent := if k.isNmc then .unit (nmcStack k.record) else .chan
/-- A command that has read part of a row reads the rest of it before the row is locked, and so returns the whole old row
(R307). -/
def State.readRow (rows : List Nat) (s : State) (t : Cmd) : State :=
  match t.instr.bind t.run with
  | none => s
  | some u =>
    let a := u.source t
    if t.state = .running && (t.done != 0 || !t.tbuf.isEmpty) && !u.sl && u.unread t != 0
        && (if u.down then a + 1 else a) % 4096 != 0 then
      match s.place t.agent t false a 1 false with
      | .at_ (.phys pa) _ v =>
        if rows.contains (pa / 4096) then
          (match v.readUnit t.agent t u 4096 with
            | .go w => w
            | _ => s)
        else s
      | _ => s
    else s
/-- Every command that has read part of some rows reads the rest of them. -/
def State.readRows (ls : List Loc) (s : State) : State :=
  let rows := ls.map fun l => l.off / 4096
  let s := s.cmds.foldl (State.readRow rows) s
  (s.cmds.filter fun k => k.isNmc && nmcUnit k.record ≤ 1).foldl (fun s k =>
    (List.range k.buffers).foldl (fun s b => s.readBufferRow rows k.id b) s) s

/-- The rows that an update reads and writes with the weights: the gradients are read apart. -/
def rowArrays (bs : List Byte) : List (Nat × Nat × Bool) := (updateArrays bs).filter (·.2.2)
/-- The outcome of a row from its weights and states and its gradients. -/
def rowResults (bs : List Byte) (lo n : Nat) (grads : List Byte) (bss : List (List Byte)) : List (Nat × List Byte) × Flags :=
  let arrays := rowArrays bs
  let size (j : Nat) : Nat := (arrays.getD j (0, 1, false)).2.1
  let el (j i : Nat) : Nat := fieldAt (bss.getD j []) (size j * i) (size j)
  let g := blkSize bs 41
  let rs := (List.range n).map fun i => updateElem bs (el 0 i) (fieldAt grads (g * i) g) (el 1 i) (el 2 i)
  let out (j : Nat) (pick : Nat × Nat × Nat × Flags → Nat) : Nat × List Byte :=
    (((arrays.getD j (0, 1, false)).1 + size j * lo) % 2 ^ 64, rs.flatMap fun r => natBytes (size j) (pick r))
  ([out 0 (·.1)] ++ (if byteAt bs 43 == 0 then [] else [out 1 (·.2.1)]) ++ (if byteAt bs 43 == 2 then [out 2 (·.2.2.1)] else []),
    rs.foldl (fun f r => f ||| r.2.2.2) Flags.none)
/-- A row: its elements computed and written with their state rows, as one step that no other access divides (R307). The
units of its gradients not yet read are read at the instant of that step, each once, and what a unit holds for the next row
is kept (R290). Log 33, DEDUCED. -/
def State.updateUnit (s : State) (h : Nat) (k : Cmd) : Try :=
  let bs := k.record
  let lo := rowFirst bs k.done
  let n := rowFirst bs (k.done + 1) - lo
  let need := blkSize bs 41 * n
  match s.fillBuffer h k 0 need (need + 1) with
  | (j, none, s) =>
    let grads := j.held.getD 0 []
    s.workUnits (.unit h) { j with held := [grads.drop need] } 1 State.readRows
      ((rowArrays bs).map fun a => (a.1 + a.2.1 * lo, a.2.1 * n)) (rowResults bs lo n (grads.take need))
  | (_, some (.fail c x s), _) => .stop c x s
  | (_, some _, _) => .wait

/-! ### Transform engine (R325) -/

/-- The pieces of a transposition's destination, each inside one 4 KiB block. -/
def transposePieces (bs : List Byte) : List (Nat × Nat) := splitRange (fieldAt bs 56 8) (layBytes ((bs.drop 64).take 32))
def State.transformUnit (s : State) (h : Nat) (k : Cmd) : Try :=
  let bs := k.record
  let ag : Agent := .unit h
  let slot := byteAt bs 41
  let src := fieldAt bs 48 8
  let dst := fieldAt bs 56 8
  let step (t : Try) : Try :=
    match t with
    | .go s => .go (s.setCmd { k with done := k.done + 1, tbuf := [] })
    | other => other
  match byteAt bs 40 with
  | 0 => step (s.encodeOne ag k slot false false (src + 4096 * k.done) (dst + 4096 * k.done))
  | 1 => step (s.reblock ag k .recompress slot false (src + 4096 * k.done))
  | _ =>
    let lay := (bs.drop 64).take 32
    let p := (transposePieces bs).getD k.done (dst, 0)
    -- the source is read once, continued only where bytes not yet written need it (R419), and its transposition held
    let put (s : State) (all : List Byte) : Try :=
      match s.putRange ag k false p.1 ((all.drop (p.1 - dst)).take p.2) with
      | .go s => .go (s.setCmd { k with done := k.done + 1, tbuf := all })
      | other => other
    if !k.tbuf.isEmpty then put s k.tbuf
    else match s.fetchParts ag k false src (layBytes lay) 0 (transposeParts lay (byteAt bs 43) (p.1 - dst)) with
    | .wait => .wait
    | .fail c x s => .stop c x s
    | .bytes els s => put s (transposed lay (byteAt bs 42) (byteAt bs 43) els)

/-! ### Gazetteer (R327, R328) -/

/-- The exact sum of products, rounded once to t32e2; NaR when an operand is NaR. -/
def dotScore (xs ys : List Val) : Val :=
  let ps := List.zipWith (fun x y => match x.real?, y.real? with
    | some a, some b => some (a.mul b)
    | _, _ => none) xs ys
  if ps.all Option.isSome then
    decodeVal t32e2 (roundTap 32 2 (ps.foldl (fun a p => a.add (p.getD Q.zero)) Q.zero))
  else .nar
/-- The order of selection: larger value first, then smaller index; NaR lowest. -/
def selectsBefore (x y : Nat × Val) : Bool := valLt y.2 x.2 || (!valLt x.2 y.2 && x.1 < y.1)
def insertSorted (x : Nat × Val) : List (Nat × Val) → List (Nat × Val)
  | [] => [x]
  | y :: ys => if selectsBefore x y then x :: y :: ys else y :: insertSorted x ys
/-- top(k, list). -/
def topK (k : Nat) (xs : List (Nat × Val)) : List (Nat × Val) :=
  xs.foldl (fun best x => (insertSorted x best).take k) []
/-- Values of a run of elements. -/
def itemVals (f : NumFmt) (bs : List Byte) (lo n : Nat) : List Val := (List.range n).map fun i => itemVal f bs (lo + i)

/-- The scores of a query against a half-key table. -/
def keyScores (f : NumFmt) (d n : Nat) (q : List Val) (table : List Byte) : List (Nat × Val) :=
  (List.range n).map fun a => (a, dotScore q (itemVals f table (d * a) d))
def scoreSum (x y : Val) : Val :=
  match x.real?, y.real? with
  | some a, some b => decodeVal t32e2 (roundTap 32 2 (a.add b))
  | _, _ => .nar
/-- The rows selected, in order, and whether any score is NaR. -/
def gazSelect (bs : List Byte) (query k1 k2 : List Byte) : List (Nat × Val) × Bool :=
  let f := fmtOf (blkFmt bs 40)
  let d := gazHdim bs
  let n := gazKeys bs
  let s1 := keyScores f d n (itemVals f query 0 d) k1
  let s2 := keyScores f d n (itemVals f query d d) k2
  let k := gazTop bs
  let c := (topK k s1).flatMap fun a => (topK k s2).map fun b => (a.1 * n + b.1, scoreSum a.2 b.2)
  (topK k c, (s1 ++ s2 ++ c).any fun x => x.2.isNar)
/-- The weight of each selected row; all NaR when a selected score or κ is NaR. -/
def gazWeights (sel : List (Nat × Val)) (kappa : Val) : List Val :=
  let smax := (sel.headD (0, .nar)).2
  if sel.any (fun x => x.2.isNar) then sel.map fun _ => .nar
  else sel.map fun x =>
    match x.2.real?, smax.real?, kappa.real? with
    | some c, some m, some k => decodeVal t32e2 (expE ((c.sub m).mul k))
    | _, _, _ => .nar
/-- The exact sum of some products of reals, or NaR. -/
def exactSum (ps : List (Val × Val)) : Val :=
  if ps.all fun p => p.1.real?.isSome && p.2.real?.isSome then
    .real (ps.foldl (fun a p => a.add (((p.1.real?).getD Q.zero).mul ((p.2.real?).getD Q.zero))) Q.zero)
  else .nar

/-- One lookup's three outputs from its inputs, the value rows in selection order. -/
def gazOutputs (bs : List Byte) (n : Nat) (sel : List (Nat × Val)) (anyNar : Bool) (rows : List (List Byte)) :
    List (Nat × List Byte) × Flags :=
  let vf := fmtOf (blkFmt bs 41)
  let ofm := fmtOf (blkFmt bs 42)
  let dim := gazVdim bs
  let ws := gazWeights sel (decodeVal t32e2 (fieldAt bs 52 4))
  let nums := (List.range dim).map fun t => exactSum (List.zipWith (fun w r => (w, itemVal vf r t)) ws rows)
  let out := nums.map (roundVal ofm)
  let tot := roundVal t32e2 (exactSum (ws.map fun w => (w, Val.one)))
  let wid := ofm.width / 8
  ([((fieldAt bs 88 8 + n * dim * wid) % 2 ^ 64, out.flatMap fun r => natBytes wid r.1),
    ((fieldAt bs 96 8 + 4 * n) % 2 ^ 64, natBytes 4 tot.1),
    ((fieldAt bs 104 8 + 8 * gazTop bs * n) % 2 ^ 64,
      (List.zipWith (fun (x : Nat × Val) w => natBytes 4 x.1 ++ natBytes 4 (roundVal t32e2 w).1) sel ws).flatten)],
    out.foldl (fun f r => f ||| r.2) (flagIf (anyNar || ws.any Val.isNar || nums.any Val.isNar) Flags.narf))

/-- A query: every input is read before any output is written, the query with both key tables at one instant and the selected
value rows at one. Log 33, DEDUCED. -/
def State.gazUnit (s : State) (h : Nat) (k : Cmd) : Try :=
  let bs := k.record
  let d := gazHdim bs
  let n := gazKeys bs
  let dim := gazVdim bs
  match s.fetchAll (.unit h) k
      [(fieldAt bs 56 8 + 4 * d * k.done, 4 * d), (fieldAt bs 64 8, 2 * d * n), (fieldAt bs 72 8, 2 * d * n)] with
  | .error (.fail c x s) => .stop c x s
  | .error _ => .wait
  | .ok (inp, s) =>
    let sel := gazSelect bs (inp.getD 0 []) (inp.getD 1 []) (inp.getD 2 [])
    s.workUnit (.unit h) k (sel.1.map fun r => (fieldAt bs 80 8 + 2 * dim * r.1, 2 * dim))
      fun rows => gazOutputs bs k.done sel.1 sel.2 rows

/-! ### Serving (R320, R329) -/

/-- Work units of a command. -/
def nmcTotal (bs : List Byte) : Nat :=
  match nmcUnit bs with
  | 1 => updateRows bs
  | 2 => if byteAt bs 40 == 2 then (transposePieces bs).length else blkCount bs
  | _ => blkCount bs
/-- The next work unit of the command that a unit serves. -/
def State.nmcUnitTry (s : State) (h : Nat) (k : Cmd) : Try :=
  match nmcUnit k.record with
  | 0 => s.reduceUnit h k
  | 1 => s.updateUnit h k
  | 2 => s.transformUnit h k
  | _ => s.gazUnit h k
/-- A command whose work units are all computed leaves its unit, and is finished once they are all written. -/
def State.closeNmc (s : State) (id : Nat) : State :=
  match s.findCmd id with
  | some k =>
    if k.state = .running && nmcTotal k.record ≤ k.computed then
      (if k.out.isEmpty then s.finishNmc k else s.leaveUnit k)
    else s
  | none => s
/-- One work unit of the command that a unit serves. -/
def State.serveOne (s : State) (h u : Nat) : State :=
  match s.served h u with
  | none => s
  | some k => (if k.computed < nmcTotal k.record then s.settle k (s.nmcUnitTry h k) else s).closeNmc k.id

/-- COPY UNIT: a running copy reads and writes one unit, stops, or waits, after the L slots of the cycle (R210); a reduction
writes a result that it holds. -/
def execCopyUnitTransfer (core id : Nat) (s : State) : Result :=
  match s.findCmd id with
  | some k => .next (
      if k.isNmc then if k.state = .running && k.atCore core then (s.settle k (s.writeHeldUnit k)).closeNmc id else s
      else if s.coreDone core then (s.settle k (s.copyTry core id)).finishCopy core id else s)
  | none => .next s
/-- REDUCTION COMMAND, UPDATE ROW, TRANSFORM COMMAND and GAZETTEER QUERY move the command that the unit serves on by one
step. -/
def execReductionCommand (stack : Nat) (s : State) : Result := .next (s.serveOne stack 0)
def execUpdateRow (stack : Nat) (s : State) : Result := .next (s.serveOne stack 1)
def execTransformCommand (stack : Nat) (s : State) : Result := .next (s.serveOne stack 2)
def execGazetteerQuery (stack : Nat) (s : State) : Result := .next (s.serveOne stack 3)

end Sys2Proof.Machine
end

