-- ==== Sys2Proof/Machine/Contour.lean ====
section
/-! DEFINITION. Contour collectives (R330 to R344): joining, forming, the injection and landing of planes, cancelling. -/
namespace Sys2Proof.Machine

/-! ### The block (R332) -/

def collId (bs : List Byte) : Nat := fieldAt bs 8 4
def collOp (bs : List Byte) : Nat := byteAt bs 0
def collPt0 (bs : List Byte) : Nat := fieldAt bs 16 8
def collPdt (bs : List Byte) : Nat := fieldAt bs 24 4
def collWordUsed (bs : List Byte) : Bool := (bs.getD 29 0).getLsbD 1
def collWord (bs : List Byte) : Nat := fieldAt bs 28 2 % 512
def collFmtOk (op : Nat) (f : BitVec 6) : Bool :=
  if op == 2 then f == 0x24#6 else isTap f || isSignedInt f || f == 0x24#6
def collBlockOk (bs : List Byte) : Bool :=
  let esc := sextInt 16 (fieldAt bs 2 2)
  collOp bs ≤ 2 && fmtByte (collFmtOk (collOp bs)) bs 1
    && (if blkFmt bs 1 == 0x24#6 then decide (-240 ≤ esc) && decide (esc ≤ 208) else zeroAt bs 2 2)
    && 1 ≤ blkCount bs && blkCount bs ≤ 2 ^ 20 && collId bs != 0
    && 1 ≤ collProducers bs && collProducers bs ≤ 12288 && (collOp bs != 0 || collProducers bs == 1)
    && 1 ≤ collConsumers bs && collConsumers bs ≤ 12288
    && (if collPt0 bs == 0 then collPdt bs == 0 else collPdt bs != 0)
    && fieldAt bs 28 2 < 1024 && zeroAt bs 30 98

/-- Bytes of an element in source and destination. -/
def collElem (bs : List Byte) : Nat := collWidth bs / 8
def collDstElem (bs : List Byte) : Nat := if collOp bs == 2 then 8 else collElem bs

def isProducer (f : FmtK) : Bool := f.kx.getLsbD 0
def isConsumer (f : FmtK) : Bool := f.kx.getLsbD 1
/-- Alignment of the local ranges of a party, and that they are apart (R333). -/
def collRangesOk (k : Cmd) (f : FmtK) : Bool :=
  let bs := k.record
  (!isProducer f || k.frm % collElem bs == 0) && (!isConsumer f || (k.tgt % collDstElem bs == 0 && k.cnt % 8 == 0))
    && disjoint ((k.rangesOf (.kcol ⟨0, false⟩ f)).map fun r => (r.addr, r.len))
/-- Verdict on the local ranges of a party: refused, waiting for a region, or admitted (R245). -/
def State.collPlaces (s : State) (r : CtxRef) (ranges : List Range) : Option Bool :=
  ranges.foldl (fun v x =>
    match v, s.placeLocal r x.addr x.len with
    | none, _ => none
    | _, .fail _ _ _ => none
    | _, .wait => some true
    | v, _ => v) (some false)

/-! ### Joining (R334, R343) -/

/-- The role of a joining party fits the numbers not yet reached. -/
def Collective.admits (c : Collective) (f : FmtK) : Bool :=
  (!isProducer f || (c.parties.filter (·.prod)).length < collProducers c.block)
    && (!isConsumer f || (c.parties.filter (·.cons)).length < collConsumers c.block)
def State.partyOf (s : State) (k : Cmd) (r : CtxRef) (f : FmtK) : Party :=
  { core := r.core, ctx := r.ctx, cmd := k.id, task := ((s.ctx r).task.map Task.res).getD 0, table := k.cnt, prod := isProducer f, cons := isConsumer f, read := [], sent := [], flowAt := 0
    landed := [], cancelled := false, killed := false }

/-- A consumer's destination and precision table set to zero at its join. -/
def State.zeroConsumer (s : State) (k : Cmd) (f : FmtK) : Try :=
  if isConsumer f then
    s.putAll .chan k true (fun _ s => s) [(k.tgt, List.replicate (collDstBytes k.record) 0), (k.cnt, List.replicate (collTableBytes k.record) 0)]
  else .go s
def State.setColl (s : State) (c : Collective) : State :=
  { s with colls := s.colls.map fun d => if d.id == c.id then c else d }

/-- A collective of a tenant by COLLID, still to be met by a join. Log 41, DEDUCED. -/
def State.collOf (s : State) (tenant collid : Nat) : Option Collective :=
  s.colls.find? fun c => c.tenant == tenant && collId c.block == collid && (c.live || (c.dead && c.ghost != 0))

/-- A party joins: refused, zeroed and waiting, or complete at once where its collective was cancelled before it
formed. -/
def State.joinColl (s : State) (k : Cmd) (r : CtxRef) (f : FmtK) : Try :=
  let bs := k.record
  let refuse : Try := .stop .refused k.lrec s
  if !collBlockOk bs || !collRangesOk k f then refuse
  else match s.collPlaces r k.ranges with
    | none => refuse
    | some true => .wait
    | some false =>
      let block := bs.take 32
      let p := s.partyOf k r f
      match s.collOf k.tenant (collId bs) with
      | some c =>
        if c.block != block || !c.admits f then refuse
        else if c.dead then
          (match s.zeroConsumer k f with
            | .go s =>
              .go (((s.setColl { c with
                parties := c.parties ++ [{ p with cancelled := true }], ghost := c.ghost - (p.prod.toNat + p.cons.toNat) }).markCanc
                  p).setCmd { k with state := .finished })
            | other => other)
        else (match s.zeroConsumer k f with
            | .go s => .go ((s.setColl { c with parties := c.parties ++ [p] }).setCmd { k with state := .running })
            | other => other)
      | none =>
        (match s.zeroConsumer k f with
          | .go s =>
            let (id, s) := s.fresh
            let c : Collective :=
              { id := id, tenant := k.tenant, block := block, parties := [p], formed := false, cancel := false, ghost := 0
                kcans := [] }
            .go ({ s with colls := s.colls ++ [c] }.setCmd { k with state := .running })
          | other => other)

/-! ### Forming (R334, R341) -/

/-- The tree of a collective: where two nodes name one COLLID, that dispatched first, and one dispatched after the collective
has formed from then on. Log 66, DESIGN CHOICE. -/
def State.treeOf (s : State) (c : Collective) : Option Tree :=
  s.trees.find? fun t => t.tenant == c.tenant && t.collid == collId c.block
/-- A party that the tree does not serve. -/
def Collective.failsTree (c : Collective) (here : Nat) (t : Tree) (p : Party) : Bool :=
  (p.prod && !(t.edges.any fun e => flowSrc e == (p.core, here))
      && !(c.parties.any fun q => q.cons && q.core == p.core))
    || (p.cons && !(t.edges.any fun e => flowDst e == (p.core, here))
      && !(c.parties.any fun q => q.prod && q.core == p.core))

def Collective.ready (c : Collective) : Bool :=
  !c.formed && !c.cancel && (c.parties.filter (·.prod)).length == collProducers c.block
    && (c.parties.filter (·.cons)).length == collConsumers c.block
/-- The collective forms, or is cancelled with its failing parties refused. -/
def State.formColl (s : State) (c : Collective) : State :=
  let failing := match s.treeOf c with
    | some t => c.parties.filter (c.failsTree s.mod.number t)
    | none => []
  if failing.isEmpty then s.setColl { c with formed := true }
  else
    let s := s.cancelUnformed c.id (failing.map (·.cmd))
    failing.foldl (fun s p => match s.findCmd p.cmd with
      | some k => s.refuseCmd k
      | none => s) s
def State.collById (s : State) (i : Nat) : Option Collective := s.colls.find? (·.id == i)
def execCollectiveForm (i : Nat) (s : State) : Result :=
  match s.collById i with
  | some c => whenever c.ready s (·.formColl c)
  | none => .next s

/-! ### Planes (R331, R335, R337, R339) -/

/-- A party put in its place among parties in increasing core index, then context number. -/
def insertParty (p : Party) : List Party → List Party
  | [] => [p]
  | q :: qs => if 4 * p.core + p.ctx ≤ 4 * q.core + q.ctx then p :: q :: qs else q :: insertParty p qs
/-- Producers in the order of R330. -/
def Collective.producers (c : Collective) : List Party := (c.parties.filter (·.prod)).foldl (fun l p => insertParty p l) []
/-- Elements of tile t of a contribution. -/
def tileLen (bs : List Byte) (t : Nat) : Nat := min 1024 (blkCount bs - 1024 * t)
/-- Scheduled time of plane p. -/
def planeTime (bs : List Byte) (p : Nat) : Nat := collPt0 bs + (collWidth bs - 1 - p) * collPdt bs

/-- The collective and the n-th party. -/
def State.partyAt (s : State) (i n : Nat) : Option (Collective × Party × Cmd) :=
  match s.collById i with
  | none => none
  | some c =>
    match c.parties[n]? with
    | none => none
    | some p => (s.findCmd p.cmd).map fun k => (c, p, k)
def Collective.setParty (c : Collective) (n : Nat) (p : Party) : Collective := { c with parties := c.parties.set n p }

/-- After a plane: the party's command finishes with its last, and the collective ends with the last of all, with the KCAN
commands whose cancel has reached no party yet (R343). Log 40, DEDUCED. -/
def State.afterPlane (s : State) (i n : Nat) : State :=
  match s.partyAt i n with
  | none => s
  | some (c, p, _) =>
    let s := if s.partyDone c p then s.finishParty p else s
    if c.parties.all (s.partyDone c) && !c.parties.any (·.cancelled) then s.dropColl c else s

/-- The injection slots of a producer's planes: those of the first edge of the reserved tree that starts at its core, none
where the planes are best-effort or stay on the core (R340, R341). Log 59, DESIGN CHOICE. -/
def State.planeSlots (s : State) (c : Collective) (p : Party) : List Nat :=
  match s.treeOf c with
  | none => []
  | some t =>
    let i := t.edges.findIdx fun e => flowSrc e == (p.core, s.mod.number)
    (s.reserved.filter fun x => x.coll == some (t.collid, t.tenant) && x.flow == i && x.inj).map Slot.slot
/-- A flit of a producer may be injected in this fabric cycle: it shows one of its slots, after that of its last flit. -/
def State.planeSlotOpen (s : State) (c : Collective) (p : Party) : Bool :=
  let slots := s.planeSlots c p
  slots.isEmpty || (decide (p.flowAt ≤ s.fabric) && slots.contains (slotAt s.fabric))
/-- The next instant at which a producer with planes to send meets one of its slots. -/
def State.planeInstants (s : State) (c : Collective) : List Nat :=
  (c.parties.filter fun p => c.formed && p.prod && !p.cancelled && !c.sentAll p).filterMap fun p =>
    let slots := s.planeSlots c p
    if slots.isEmpty then none else some (slotFrom slots (max p.flowAt (s.fabric + 1)) * Config.fabricPeriod)
/-- A producer may inject the next plane of a tile. -/
def State.injectEnabled (s : State) (c : Collective) (p : Party) (k : Cmd) (tile : Nat) : Bool :=
  let w := collWidth c.block
  let n := Sparse.get 0 p.sent tile
  c.formed && p.prod && !p.cancelled && k.state = .running && tile < collTilesEach c.block && n < w
    && (collPt0 c.block == 0 || planeTime c.block (w - 1 - n) ≤ s.coreTime p.core + collPdt c.block)
    && s.planeSlotOpen c p
/-- Lateness of a plane at its producer (R339). -/
def State.latePlane (s : State) (c : Collective) (p : Party) (k : Cmd) (plane : Nat) : State :=
  if collPt0 c.block != 0 && planeTime c.block plane < s.coreTime p.core then
    match k.fmt with
    | none => s
    | some f =>
      let word := if f.kx.getLsbD 2 then some (kxBits f 3 9).toNat else none
      let s := match word with
        | some x => s.modCore p.core fun q => q.setSync x (swLate (q.syncWord x))
        | none => s
      s.modCtx ⟨p.core, p.ctx⟩ fun x => x.countLate (lateInfo word false s.mod.number p.core)
  else s
/-- The elements of a tile of a producer's source: as the KCOL was issued, with its context's earlier stores performed
since, and where they could not be read then, as they stand. Log 61, DEDUCED. -/
def State.readTile (s : State) (k : Cmd) (a n : Nat) : Fetched :=
  if k.source.isEmpty then s.fetchRange .chan k true (k.frm + a) n
  else .bytes (((s.takePrior k).source.drop a).take n) s
/-- One plane of a tile sent; the tile is read as its top plane is. -/
def State.injectPlane (s : State) (c : Collective) (n : Nat) (p : Party) (k : Cmd) (tile : Nat) : Try :=
  let w := collWidth c.block
  let sent := Sparse.get 0 p.sent tile
  let size := collElem c.block
  let go (s : State) (p : Party) (k : Cmd) : Try :=
    let s := (s.setColl (c.setParty n { p with sent := Sparse.set 0 p.sent tile (sent + 1), flowAt := s.fabric + 1 })).setCmd k
    .go ((s.latePlane c p k (w - 1 - sent)).afterPlane c.id n)
  if sent == 0 then
    match s.readTile k (1024 * tile * size) (tileLen c.block tile * size) with
    | .wait => .wait
    | .fail x a s => .stop x a s
    | .bytes bs s =>
      let els := (List.range (tileLen c.block tile)).map fun e => fieldAt bs (size * e) size
      go s { p with read := Sparse.put p.read tile els } { k with done := k.done + 1 }
  else go s p k
def execPlaneInject (i party tile : Nat) (s : State) : Result :=
  match s.partyAt i party with
  | some (c, p, k) =>
    .next (if s.injectEnabled c p k tile then s.settle k (s.injectPlane c party p k tile) else s)
  | none => .next s

/-- The contributors to a tile of the result, and its number within a contribution. -/
def Collective.sources (c : Collective) (tile : Nat) : List Party × Nat :=
  let each := collTilesEach c.block
  if collOp c.block == 1 then ((c.producers.drop (tile / each)).take 1, tile % each) else (c.producers, tile)
/-- The cores that an edge sequence reaches from a core, one entry per sequence; the fuel bounds its length. -/
def edgeEnds (es : List (BitVec 64)) : Nat → Nat × Nat → List (Nat × Nat)
  | 0, _ => []
  | n + 1, a => (es.filter fun e => flowSrc e == a).flatMap fun e => flowDst e :: edgeEnds es n (flowDst e)
/-- The contributors whose planes reach a consumer: every one on best effort, with a reserved tree those on its core and
those from which edges lead to it (R341). -/
def State.sourcesOf (s : State) (c : Collective) (p : Party) (tile : Nat) : List Party × Nat :=
  let src := c.sources tile
  let at_ (q : Party) : Nat × Nat := (q.core, s.mod.number)
  match s.treeOf c with
  | none => src
  | some t => (src.1.filter fun q => q.core == p.core || (edgeEnds t.edges (t.edges.length + 1) (at_ q)).contains (at_ p), src.2)
/-- The next plane of a tile may land at a consumer. -/
def State.landEnabled (s : State) (c : Collective) (p : Party) (k : Cmd) (tile : Nat) : Bool :=
  let w := collWidth c.block
  let n := Sparse.get 0 p.landed tile
  let src := s.sourcesOf c p tile
  c.formed && p.cons && !p.cancelled && k.state = .running && tile < collTiles c.block && n < w
    && !src.1.isEmpty && src.1.all (fun q => n < Sparse.get 0 q.sent src.2)
    && (collPt0 c.block == 0 || planeTime c.block (w - 1 - n) ≤ s.coreTime p.core)
/-- The weight of a plane in an all-reduce. -/
def planeWeight (p : Nat) : Int := if p == 31 then -(2 ^ 31) else 2 ^ p
/-- A destination element after a plane: bit p of one contribution, or the count added. -/
def landElem (reduce : Bool) (size plane : Nat) (old : Nat) (srcs : List Nat) : Nat :=
  let cnt := (srcs.filter fun x => x.testBit plane).length
  if reduce then wrapNat 64 (sextInt 64 old + cnt * planeWeight plane)
  else if cnt == 0 then old &&& (2 ^ (8 * size) - 1 - 2 ^ plane) else old ||| 2 ^ plane

/-- Smallest number of planes landed over the tiles. -/
def Collective.minLanded (c : Collective) (p : Party) : Nat :=
  (List.range (collTiles c.block)).foldl (fun m t => min m (Sparse.get 0 p.landed t)) (collWidth c.block)
/-- A plane lands with its PLt, and MINPL and STAT follow; a rise of MINPL owes an arrival where there is a precision word
(R336, R337). -/
def State.landPlane (s : State) (c : Collective) (n : Nat) (p : Party) (k : Cmd) (tile : Nat) : Try :=
  let bs := c.block
  let plane := collWidth bs - 1 - Sparse.get 0 p.landed tile
  let q := { p with landed := Sparse.set 0 p.landed tile (Sparse.get 0 p.landed tile + 1) }
  let src := s.sourcesOf c p tile
  let size := collDstElem bs
  let len := tileLen bs src.2
  let base := if collOp bs == 1 then tile / collTilesEach bs * blkCount bs else 0
  let at_ := k.tgt + (base + 1024 * src.2) * size
  let els (e : Nat) : List Nat := src.1.map fun x => (Sparse.get [] x.read src.2).getD e 0
  match s.fetchRange .chan k true at_ (len * size) with
  | .wait => .wait
  | .fail x a s => .stop x a s
  | .bytes old s =>
    let out := (List.range len).flatMap fun e =>
      natBytes size (landElem (collOp bs == 2) size plane (fieldAt old (size * e) size) (els e))
    match s.putAll .chan k true (fun _ s => s)
        ([(at_, out), (k.cnt + 8 + tile, natBytes 1 (Sparse.get 0 q.landed tile)), (k.cnt, natBytes 1 (c.minLanded q))]
          ++ (if c.landedAll q then [(k.cnt + 1, natBytes 1 2)] else [])) with
    | .go s =>
      let owes := k.owesArrival || (collWordUsed bs && c.minLanded p < c.minLanded q)
      .go ((s.setColl (c.setParty n q)).setCmd { k with aux := owes.toNat })
    | other => other
/-- The arrival that a consumer owes at its precision word, which stops the command with SYNCP where the word is no flag;
then what follows its planes (R337). -/
def State.arriveColl (s : State) (i n : Nat) : State :=
  match s.partyAt i n with
  | none => s
  | some (c, p, k) =>
    if !k.owesArrival then s.afterPlane i n
    else
      let x := collWord c.block
      let word := (s.core p.core).syncWord x
      if swKind word != 0 then s.stopCmd k .syncp (syncAddr x)
      else ((s.modCore p.core fun q => q.setSync x (swArrive word)).setCmd { k with aux := 0 }).afterPlane i n
/-- Every plane of a tile that may land now; the fuel is the number of planes. -/
def State.landTile (i n tile : Nat) : Nat → State → State
  | 0, s => s
  | fuel + 1, s =>
    match s.partyAt i n with
    | some (c, p, k) =>
      if s.landEnabled c p k tile then
        (match s.landPlane c n p k tile with
          | .go s => State.landTile i n tile fuel s
          | other => s.settle k other)
      else s
    | none => s
/-- Every plane held at a consumer whose time has come, and one arrival where MINPL has increased (R337, R339). -/
def State.landHeld (s : State) (c : Collective) (n : Nat) : State :=
  ((List.range (collTiles c.block)).foldl (fun s t => State.landTile c.id n t (collWidth c.block) s) s).arriveColl c.id n
/-- PLANE LAND: the next plane of a tile, with the arrival that follows it, or every scheduled plane that is due, with one
arrival; a command resumed after SYNCP makes its arrival first (R316, R337). -/
def execPlaneLand (i party tile : Nat) (s : State) : Result :=
  match s.partyAt i party with
  | some (c, p, k) =>
    .next (if k.state = .running && k.owesArrival then s.arriveColl i party
      else if collPt0 c.block != 0 then (if s.landEnabled c p k tile then s.landHeld c party else s)
      else if s.landEnabled c p k tile then
        (match s.landPlane c party p k tile with
          | .go s => s.arriveColl i party
          | other => s.settle k other)
      else s)
  | none => .next s

/-- The scheduled planes that land at a core as a cycle begins, before its accesses, as timed writes do (R274, R339). -/
def State.landDue (s : State) (core : Nat) : State :=
  (s.colls.filter fun c => c.formed && collPt0 c.block != 0).foldl (fun s c =>
    (List.range c.parties.length).foldl (fun s n =>
      match s.partyAt c.id n with
      | some (c, p, k) => if p.core == core && p.cons && k.state = .running && !p.cancelled then s.landHeld c n else s
      | none => s) s) s

/-! ### Cancelling (R342, R343) -/

/-- KCAN: a collective that has not formed is cancelled at once; the cancel of a formed one travels from the issuing core to
its parties, unless it is under way (R342, R343); any other name has no effect, nor has the cancel of a collective whose last
plane has landed everywhere. -/
def State.startCancel (s : State) (k : Cmd) : State :=
  match s.colls.find? fun c => c.tenant == k.tenant && collId c.block == k.cnt % 2 ^ 32 && (c.live || c.over) with
  | none => s.setCmd { k with state := .finished }
  | some c =>
    if c.beyondCancel then s.setCmd { k with state := .finished } else
    let s := s.setCmd { k with state := .running }
    let s := s.setColl { c with cancel := c.cancel || c.formed, kcans := c.kcans ++ [k.id] }
    if !c.formed then s.cancelUnformed c.id []
    else if c.cancel then s
    else s.spreadCancel ((k.ctx.map (·.core)).getD 0) c.id

/-- A cancel that arrives after the last plane has landed everywhere: its KCAN commands finish, and nothing else comes of
it (R343). -/
def State.voidCancel (s : State) (c : Collective) : State :=
  ((s.setColl { c with cancel := false, kcans := [] }).finishKcans c).dropCancels c
/-- The cancel reaches a party: it sends and lands no further plane, and a consumer sets CANC (R342). -/
def State.receiveCancel (s : State) (c : Collective) (n : Nat) : State :=
  match c.parties[n]? with
  | none => s
  | some p =>
    if p.cancelled then s
    else if c.beyondCancel then s.voidCancel c
    else (s.setColl (c.setParty n { p with cancelled := true })).markCanc p
/-- The control message that carries the cancel is taken (R280). -/
def State.takeCancel (s : State) (i n : Nat) : State :=
  match s.carrierOf (.cancel i n) with
  | none => s
  | some m =>
    let s := s.takeMsg m
    match s.collById i with
    | some c => s.receiveCancel c n
    | none => s
def execCancelReceipt (i party : Nat) (s : State) : Result := whenever (s.arrives (.cancel i party)) s (·.takeCancel i party)

/-- A KCOL that the acknowledgement ends has still to complete: of a formed collective every party's, of one cancelled
before it formed those that had joined by then. -/
def State.partyLeft (s : State) (c : Collective) : Bool :=
  c.parties.any fun p => (c.formed || !p.cancelled) && (s.findCmd p.cmd).isSome
/-- A KCOL of a party has not finished, be it stopped. -/
def State.partyRunning (s : State) (c : Collective) : Bool :=
  c.parties.any fun p => (s.findCmd p.cmd).any fun k => k.state != .finished
/-- The acknowledgement: every KCOL of the collective finishes, then the KCAN commands, and the entry ends. -/
def State.ackEnabled (s : State) (c : Collective) : Bool :=
  (c.over && s.partyRunning c) || (c.over && !s.partyLeft c)
    || (c.dead && !s.partyLeft c && (!c.kcans.isEmpty || c.ghost == 0))
def State.ackCancel (s : State) (c : Collective) : State :=
  if c.over && s.partyRunning c then c.parties.foldl State.finishParty s
  else if s.partyLeft c then s
  else if c.dead && c.ghost != 0 then (s.finishKcans c).setColl { c with kcans := [] }
  else s.dropColl c
def execCancelAck (i : Nat) (s : State) : Result :=
  match s.collById i with
  | some c => whenever (s.ackEnabled c) s (·.ackCancel c)
  | none => .next s

end Sys2Proof.Machine
end

