-- ==== Sys2Proof/Machine/Sched.lean ====
section
/-! DEFINITION. The schedulers (R345 to R360): acceptance and dispatch of nodes, launches, newcomer decisions, the end
of a task, time slices and gang slices. -/
namespace Sys2Proof.Machine

/-! ### Refusal codes (R354) -/

def refEntry : Nat := 1
def refShape : Nat := 2
def refGraticule : Nat := 3
def refLambda : Nat := 4
def refBind : Nat := 5
def refPlatb : Nat := 6
def refPrio : Nat := 7
def refFetch : Nat := 8
def refTwice : Nat := 9

/-! ### Acceptance (R345, R346, R361) -/

/-- A record on a boundary of 64 bytes whose home is HBM or LPDDR of this module. -/
def State.deviceRecord (s : State) (w : Walker) (tenant va : Nat) : Bool :=
  va % 64 == 0 && (match (s.translate w tenant va 64 false).1 with
    | .ok t => (homeOf t.pa).isDram && paModule t.pa == s.mod.number
    | .error _ => true)
/-- Physical address of a record; 0 where it cannot be translated. -/
def State.recordPlace (s : State) (w : Walker) (tenant va : Nat) : Nat :=
  match (s.translate w tenant va 64 false).1 with
  | .ok t => t.pa
  | .error _ => 0
/-- The fields of a node record (R345). -/
def nodeOk (s : State) (bs : List Byte) : Bool :=
  byteAt bs 0 ≤ 3 && byteAt bs 1 ≤ 7 && byteAt bs 2 == 0 && fieldAt bs 8 4 ≤ 4096 && zeroAt bs 12 4
    && (fieldAt bs 8 4 != 0 || zeroAt bs 16 8) && (zeroAt bs 32 8 || refOk s (fieldAt bs 32 8)) && zeroAt bs 40 24

/-- The message that carries a post. -/
def State.postCarrier (s : State) (p : Post) : Option Message := p.carrier.bind fun id => s.msgs.find? (·.id == id)
/-- A post has reached its scheduler. -/
def State.postHere (s : State) (p : Post) : Bool := (s.postCarrier p).all s.messageReady
/-- A post that its scheduler takes leaves its queue, with the message that carried it. -/
def State.dropPost (s : State) (p : Post) : State :=
  let s := match s.postCarrier p with
    | some m => s.takeMsg m
    | none => s
  { s with posts := s.posts.erase p }
/-- A node refused at acceptance: only its completion event reports it. -/
def State.refusePost (s : State) (p : Post) (code : Nat) : State :=
  s.emit srcScheduler p.iod evCompletion Status.refused.code code [p.addr] p.port
/-- A KTSK counts a node accepted or refused, and finishes with its last. -/
def State.countPost (s : State) (p : Post) : State :=
  match p.cmd.bind s.findCmd with
  | none => s
  | some k =>
    let n := k.aux + 1
    s.setCmd { k with aux := n, done := n, state := if k.cnt ≤ n then .finished else .running }
/-- A KTSK whose records cannot be read stops, and posts nothing more. -/
def State.stopPosts (s : State) (p : Post) (k : Cmd) (sub va : Nat) : State :=
  let gone := (s.posts.filter (·.cmd == p.cmd)).filterMap Post.carrier
  (({ s with posts := s.posts.filter (·.cmd != p.cmd) }).dropMsgs fun m => gone.contains m.id).stopCmd k (.trans sub) va

/-- The verdict on a readable record. -/
def State.acceptRecord (s : State) (p : Post) (bs : List Byte) : State :=
  let w : Walker := .die (iodDie p.iod)
  if byteAt bs 3 != 0 then s.refusePost p refTwice
  else if !s.deviceRecord w p.tenant p.addr || !nodeOk s bs then s.refusePost p refEntry
  else if p.cmd.isSome && p.prio < byteAt bs 1 then s.refusePost p refPrio
  else match s.writeSmall w p.tenant (p.addr + 3) [1] with
    | (.error _, s) => s.refusePost p refFetch
    | (.ok _, s) =>
      let (id, s) := s.fresh
      let n : Node :=
        { id := id, addr := p.addr, pa := s.recordPlace w p.tenant p.addr, tenant := p.tenant, port := p.port, iod := p.iod, kind := byteAt bs 0
          prio := byteAt bs 1, record := bs, ready := if fieldAt bs 4 4 == 0 then some id else none, dispatched := false
          tokens := 0, decided := [], left := 0, bad := none, lates := 0 }
      { s with nodes := s.nodes ++ [n] }
/-- NODE_ACCEPT of one post. -/
def State.acceptPost (s : State) (p : Post) : State :=
  let s := s.dropPost p
  match s.readGlobal (.die (iodDie p.iod)) p.tenant p.addr 64 with
  | (.error (sub, va), s) =>
    (match p.cmd.bind s.findCmd with
      | some k => s.stopPosts p k sub va
      | none => s.refusePost p refFetch)
  | (.ok bs, s) => (s.acceptRecord p bs).countPost p
/-- BOOTSTAT bit 0: the firmware of every I/O die runs; otherwise only the control window works (R395). Log 47,
DESIGN CHOICE. -/
def State.booted (s : State) : Bool := (s.blockReg 0x018).getLsbD 0
def execNodeAccept (iod : Nat) (s : State) : Result :=
  match s.posts.find? fun p => p.iod == iod && s.postHere p with
  | some p => whenever s.booted s (·.acceptPost p)
  | none => .next s

/-! ### Launch entries (R350 to R352) -/

def entCtx (e : List Byte) : Nat := byteAt e 28
def entCkpt (e : List Byte) : Bool := (e.getD 30 0).getLsbD 0
def entDesc (e : List Byte) : Bool := (e.getD 30 0).getLsbD 1
def entPlocal (e : List Byte) : Nat := fieldAt e 24 4
def entPlen (e : List Byte) : Nat := fieldAt e 20 4
def entLambda (e : List Byte) : Nat := fieldAt e 48 4
def entLdesc (e : List Byte) : Nat := fieldAt e 72 4
def entRegions (e : List Byte) : BitVec 16 := BitVec.ofNat 16 (fieldAt e 76 2)
def entTiles (e : List Byte) : Nat := byteAt e 78
def entSlots (e : List Byte) : Nat := fieldAt e 80 8
def entShare (e : List Byte) (k : Nat) : Nat := fieldAt e 88 2 / 16 ^ k % 16
def entCwin (e : List Byte) (k : Nat) : Word := wordAt e (96 + 8 * k)
def entRwin (e : List Byte) (k : Nat) : Word := wordAt e (128 + 8 * k)
def entNbind (e : List Byte) : Nat := fieldAt e 168 2
def entNsync (e : List Byte) : Nat := fieldAt e 170 2
def entNflow (e : List Byte) : Nat := fieldAt e 172 4

/-- A cluster window word in the layout of R217. -/
def cwinOk (w : Word) : Bool :=
  bits w 0 12 < 2048 && bits w 12 4 == 0 && bits w 16 12 ≤ 2048 && bits w 29 35 == 0 && bits w 0 12 + bits w 16 12 ≤ 2048
/-- A remote window word in the layout of R225, with REL in bit 62. -/
def rwinOk (w : Word) : Bool :=
  bits w 6 2 == 0 && bits w 25 7 == 0 && bits w 42 20 == 0 && (w.getLsbD 62 || bits w 0 6 < 48)
    && (!w.getLsbD 63 || (1 ≤ bits w 32 10 && bits w 32 10 ≤ 511))
/-- The window of a task at a core: relative coordinates resolved; none off the mesh. -/
def resolveRwin (core : Nat) (w : Word) : Option Word :=
  if !w.getLsbD 62 then some w
  else
    let x : Int := coreX core + sextInt 6 (bits w 0 6)
    let y : Int := coreY core + sextInt 4 (bits w 8 4)
    if 0 ≤ x && x < 48 && 0 ≤ y && y < 16 then
      some ((w &&& 0xBFFFFFFFFFFFF0C0#64) ||| field 0 x.toNat ||| field 8 y.toNat)
    else none

/-- The fields of a launch entry (R352). -/
def entryOk (prio : Nat) (e : List Byte) : Bool :=
  let x := byteAt e 32
  let y := byteAt e 33
  let xw := byteAt e 34
  let yh := byteAt e 35
  fieldAt e 0 8 % 8 == 0 && entPlen e % 8 == 0 && entPlen e ≤ 65536 && entPlocal e % 128 == 0 && entCtx e ≤ 3
    && byteAt e 29 == prio && byteAt e 30 < 4 && 1 ≤ xw && x + xw ≤ 48 && 1 ≤ yh && y + yh ≤ 16
    && 1 ≤ fieldAt e 36 4 && fieldAt e 36 4 ≤ 10 ^ 6 && 1 ≤ fieldAt e 40 4 && fieldAt e 40 4 ≤ 10 ^ 6
    && fieldAt e 44 4 != 0 && entLdesc e % 8 == 0 && (entDesc e || entLdesc e == 0) && byteAt e 79 == 0
    && (List.range 4).all (fun k => entShare e k ≤ 8) && zeroAt e 90 6 && (List.range 4).all (fun k => cwinOk (entCwin e k))
    && (List.range 4).all (fun k => rwinOk (entRwin e k)) && entNbind e ≤ 256 && entNsync e ≤ 512 && entNflow e ≤ 4096
    && zeroAt e 192 64

def loopLevels (t : List Byte) : Nat := byteAt t 0 % 8
def loopMark (t : List Byte) (l : Nat) : Nat := byteAt t (15 + 24 * l)
def loopCount (t : List Byte) (l : Nat) : Nat := fieldAt t (8 + 24 * l) 4
/-- The fields of a loop table (R350, in the form of R106). -/
def loopOk (t : List Byte) : Bool :=
  1 ≤ loopLevels t && loopLevels t ≤ 6 && fieldAt t 0 8 < 8 && (List.range (loopLevels t)).all fun l =>
    loopCount t l != 0 && loopMark t l ≤ 2 && (List.range 3).all (fun j => byteAt t (12 + 24 * l + j) / 32 % 4 == 0)
      && zeroAt t (28 + 24 * l) 4
/-- The product of the extents of a kind of level. -/
def extents (t : List Byte) (mark : Nat) : Nat :=
  (List.range (loopLevels t)).foldl (fun n l => if loopMark t l == mark then n * loopCount t l else n) 1
/-- Levels of a kind. -/
def levelsOf (t : List Byte) (mark : Nat) : List Nat := (List.range (loopLevels t)).filter fun l => loopMark t l == mark

/-- The cores of the rectangle on each die that it touches, in increasing order (R351). -/
def coreLists (e : List Byte) : List (List Nat) :=
  let x := byteAt e 32
  let y := byteAt e 33
  let inside (c : Nat) : Bool :=
    x ≤ coreX c && coreX c < x + byteAt e 34 && y ≤ coreY c && coreY c < y + byteAt e 35
  let cores := (List.range 768).filter inside
  ((List.range 24).map fun d => cores.filter fun c => dieOf c == d).filter fun l => !l.isEmpty
/-- SHAPE (R351). -/
def shapeOk (e t : List Byte) : Bool :=
  (coreLists e).length == extents t 2 && (coreLists e).all fun l => l.length == extents t 1
/-- The LSEQ descriptor that a launch writes (R353): the TEMPORAL levels in order, byte 15 zero. -/
def descriptorOf (t : List Byte) : List Byte :=
  let ls := levelsOf t 0
  natBytes 8 ls.length ++ ls.flatMap fun l => patchBytes ((t.drop (8 + 24 * l)).take 24) 7 [0]

/-- A declaration of a sync word. -/
def syncDeclOk (d : BitVec 32) : Bool :=
  (d.extractLsb' 11 5) == 0 && !(d.extractLsb' 9 2 == 1#2 && d.extractLsb' 16 16 == 0)
/-- A binding entry (R295). -/
def bindOk (s : State) (b : Nat × BitVec 32 × BitVec 32) : Bool :=
  b.1 % 128 == 0 && b.2.2.extractLsb' 0 30 != 0 && !b.2.2.getLsbD 31 && refOk s b.2.1.toNat
/-- A local range that a launch writes lies in its regions or in its windows, each 4 KiB of it in one. -/
def launchRangeOk (e : List Byte) (a n : Nat) : Bool :=
  n == 0 || (inScratch a n && (List.range (regionOf (a + n - 1) - regionOf a + 1)).all fun i =>
      (entRegions e).getLsbD (regionOf a + i))
    || (clusterBase ≤ a && a + n ≤ clusterEnd && (splitRange (a - clusterBase) n).all fun p =>
      (List.range 4).any fun k => inWindow (entCwin e k) p.1)

/-- Everything that a PLACE node's launch reads. -/
structure Placement where
  entry : List Byte
  levels : List Byte
  flows : List (BitVec 64)
  syncs : List (BitVec 32)
  binds : List (Nat × BitVec 32 × BitVec 32)
deriving DecidableEq, Repr

/-- The placement of a node with its records, or the code that refuses it. Log 44, DEDUCED. -/
def State.readPlacement (s : State) (n : Node) : Except Nat Placement × State :=
  let w := n.iodWalker
  let body := fieldAt n.record 24 8
  if body % 64 != 0 then (.error refEntry, s)
  else match s.readGlobal w n.tenant body 256 with
  | (.error _, s) => (.error refFetch, s)
  | (.ok e, s) =>
    if !entryOk n.prio e then (.error refEntry, s)
    else match s.readGlobal w n.tenant (fieldAt e 64 8) 152 with
    | (.error _, s) => (.error refFetch, s)
    | (.ok t, s) =>
      match s.readGlobal w n.tenant (fieldAt e 184 8) (8 * entNflow e) with
      | (.error _, s) => (.error refFetch, s)
      | (.ok fs, s) =>
        match s.readGlobal w n.tenant (fieldAt e 176 8) (4 * entNsync e) with
        | (.error _, s) => (.error refFetch, s)
        | (.ok ys, s) =>
          match s.readGlobal w n.tenant (fieldAt e 160 8) (16 * entNbind e) with
          | (.error _, s) => (.error refFetch, s)
          | (.ok bs, s) =>
            (.ok { entry := e, levels := t
                   flows := (List.range (entNflow e)).map fun i => wordAt fs (8 * i)
                   syncs := (List.range (entNsync e)).map fun i => BitVec.ofNat 32 (fieldAt ys (4 * i) 4)
                   binds := (List.range (entNbind e)).map fun i =>
                     (fieldAt bs (16 * i) 8, BitVec.ofNat 32 (fieldAt bs (16 * i + 8) 4), BitVec.ofNat 32 (fieldAt bs (16 * i + 12) 4)) }, s)

/-- Task number and core of each task (R351). -/
def Placement.tasks (p : Placement) : List (Nat × Nat) := (coreLists p.entry).flatten.zipIdx.map fun x => (x.2, x.1)
/-- Some flow or remote window leaves the module. -/
def State.placementCrosses (s : State) (p : Placement) : Bool :=
  p.flows.any flowCrosses || (List.range 4).any fun k => (entRwin p.entry k).getLsbD 63 && bits (entRwin p.entry k) 12 4 != s.mod.number
/-- Every parameter block can be read. -/
def State.blocksReadable (s : State) (n : Node) (p : Placement) : Bool :=
  p.tasks.all fun t => match (s.readGlobal n.iodWalker n.tenant
      ((fieldAt p.entry 8 8 + t.1 * fieldAt p.entry 16 4) % 2 ^ 64) (entPlen p.entry)).1 with
    | .ok _ => true
    | .error _ => false

/-- What the image of a task's code records (R84); an image that no loader has described has no .local total. -/
def State.imageOf (s : State) (tenant : Nat) (e : List Byte) : Image :=
  (s.images.find? fun i => i.tenant == tenant && i.code == fieldAt e 0 8).getD
    { tenant := tenant, code := fieldAt e 0 8, scratch := 0, cluster := 0, relief := [] }
/-- The checks of R350 to R354 after the reads, in the order of the codes: here the flows are tested against the links
alone, and against what other tasks hold when the node's first launch begins (R283, R353). The .local total of the
scratchpad counts from address 0 (R84). A binding entry with a reserved bit or a field out of range gives BIND, as R295 has
it, though it is a record's field too. Log 44, DEDUCED. -/
def State.placementCode (s : State) (n : Node) (p : Placement) : Option Nat :=
  let e := p.entry
  if !loopOk p.levels || !p.flows.all flowOk || !p.syncs.all syncDeclOk
      || !launchRangeOk e (entPlocal e) (entPlen e)
      || (entDesc e && !launchRangeOk e (entLdesc e) (descriptorOf p.levels).length)
      || !launchRangeOk e 0 (s.imageOf n.tenant e).scratch
      || 4096 * bits (entCwin e 0) 16 12 < (s.imageOf n.tenant e).cluster
      || !p.tasks.all (fun t => (List.range 4).all fun k => (resolveRwin t.2 (entRwin e k)).isSome) then some refEntry
  else if !shapeOk e p.levels then some refShape
  else if !p.flows.all s.flowReachable then some refGraticule
  else if (s.takeTasks p.flows (p.tasks.map fun _ => 0) []).isNone then some refGraticule
  else if entLambda e < s.leastLambda p.flows (s.placementCrosses p) then some refLambda
  else if !p.binds.all (bindOk s) then some refBind
  else if fieldAt e 40 4 * 1000 * 235 < fieldAt e 44 4 * 1000 then some refPlatb
  else if !s.blocksReadable n p then some refFetch
  else none

/-! ### Dispatch (R348) -/

def State.setNode (s : State) (n : Node) : State := { s with nodes := s.nodes.map fun m => if m.id == n.id then n else m }
/-- A dispatched node that is refused (R354). -/
def State.refuseNode (s : State) (n : Node) (code : Nat) : State := s.completeNode n .refused code []

/-- A launch for every task of a placement. -/
def State.addLaunches (s : State) (n : Node) (p : Placement) : List (Nat × Nat) → State
  | [] => s
  | (num, core) :: ts =>
    let (id, s) := s.fresh
    let l : Launch :=
      { id := id, node := n.id, tenant := n.tenant, core := core, ctx := entCtx p.entry, num := num, entry := p.entry
        levels := p.levels, binds := p.binds, syncs := p.syncs, flows := p.flows, begun := false, block := [] }
    { s with launches := s.launches ++ [l] }.addLaunches n p ts

def State.dispatchPlace (s : State) (n : Node) : State :=
  match s.readPlacement n with
  | (.error code, s) => s.refuseNode n code
  | (.ok p, s) =>
    match s.placementCode n p with
    | some code => s.refuseNode n code
    | none =>
      let n := { n with dispatched := true, tokens := byteAt p.entry 31, decided := [], left := p.tasks.length }
      ((s.setNode n).markNode n 1).addLaunches n p p.tasks

/-- The word of a near-memory command, with no field. -/
def nmcWord : BitVec 64 := 0xB0C0000000000000#64
/-- The command of an XFORM or NMC node (R349). Log 42, DEDUCED. -/
def State.dispatchNmc (s : State) (n : Node) : State :=
  match s.readGlobal n.iodWalker n.tenant (fieldAt n.record 24 8) 128 with
  | (.error _, s) => s.refuseNode n refFetch
  | (.ok bs, s) =>
    if n.kind == 1 && nmcUnit bs != 2 then s.refuseNode n refEntry
    else
      let n := { n with dispatched := true, left := 1 }
      let s := (s.setNode n).markNode n 1
      let (id, s) := s.fresh
      let skew := if s.refLocal (nmcRelRef bs) then 64 else 640
      let k : Cmd :=
        { id := id, ctx := none, node := n.id, tenant := n.tenant, chan := 0, word := nmcWord, tgt := 0, frm := 0, cnt := 0
          lrec := 0, record := bs, nest := [], state := .running, done := 0, acquired := false, accepted := false
          released := false, tbuf := [], source := [], owed := [], prior := [], held := [], out := [], flags := Flags.none, lambda := 2 * skew, aux := 0, since := 0 }
      let s := { s with cmds := s.cmds ++ [k] }
      if s.nmcRefused k then s.refuseCmd k else s

def noRepeats : List (Nat × Nat) → Bool
  | [] => true
  | a :: as => !as.contains a && noRepeats as
/-- No cycle, and no core reached over two sequences of edges (R341). -/
def treeShapeOk (es : List (BitVec 64)) : Bool :=
  es.all fun e => noRepeats (flowSrc e :: edgeEnds es (es.length + 1) (flowSrc e))
/-- The tree record of a COLL node, or the code that refuses it. -/
def State.readTree (s : State) (n : Node) : Except Nat Tree × State :=
  let w := n.iodWalker
  let va := fieldAt n.record 24 8
  match s.readGlobal w n.tenant va 32 with
  | (.error _, s) => (.error refFetch, s)
  | (.ok h, s) =>
    let m := fieldAt h 4 4
    if !s.deviceRecord w n.tenant va || fieldAt h 0 4 == 0 || m == 0 || 4096 < m || !zeroAt h 8 24 then (.error refEntry, s)
    else match s.readGlobal w n.tenant (va + 32) (8 * m) with
    | (.error _, s) => (.error refFetch, s)
    | (.ok bs, s) =>
      let es := (List.range m).map fun i => wordAt bs (8 * i)
      if !es.all flowOk || !treeShapeOk es then (.error refEntry, s)
      else (.ok { collid := fieldAt h 0 4, tenant := n.tenant, edges := es }, s)
/-- COLL: the tree's slots are reserved, and the node completes. -/
def State.dispatchColl (s : State) (n : Node) : State :=
  match s.readTree n with
  | (.error code, s) => s.refuseNode n code
  | (.ok t, s) =>
    if !t.edges.all s.flowReachable then s.refuseNode n refGraticule
    else match s.takeFlows { owner := 0, coll := some (t.collid, t.tenant), flow := 0 } t.edges s.reserved with
    | none => s.refuseNode n refGraticule
    | some r =>
      let n := { n with dispatched := true }
      let s := ({ s with trees := s.trees ++ [t], reserved := r }.setNode n).markNode n 1
      s.completeNode n .done 0 [0, 0, 0]

/-- A node goes before another: higher PRIO, then earlier ready. -/
def Node.before (a b : Node) : Bool := b.prio < a.prio || (a.prio == b.prio && a.ready.getD 0 < b.ready.getD 0)
/-- The ready node of the module that is dispatched next (R348, R367). -/
def State.bestNode (s : State) : Option Node :=
  (s.nodes.filter fun n => n.ready.isSome && !n.dispatched).foldl (fun best n =>
    match best with
    | none => some n
    | some b => if n.before b then some n else some b) none
/-- It is dispatched by its own scheduler. -/
def State.nextNode (s : State) (iod : Nat) : Option Node := s.bestNode.filter fun n => n.iod == iod
def State.dispatchNode (s : State) (n : Node) : State :=
  if n.kind == 0 then s.dispatchPlace n else if n.kind == 3 then s.dispatchColl n else s.dispatchNmc n
def execNodeDispatch (iod : Nat) (s : State) : Result :=
  match s.nextNode iod with
  | some n => .next (s.dispatchNode n)
  | none => .next s

/-! ### Record pools (R390) -/

def State.poolSlots (s : State) (tenant : Nat) : Nat := bits (s.blockReg (0x1C0 + 8 * tenant)) 0 16
def State.poolSlotBytes (s : State) (tenant : Nat) : Nat := bits (s.blockReg (0x1C0 + 8 * tenant)) 16 16 * 4096
def State.poolBase (s : State) (tenant : Nat) : Nat := (s.blockReg (0x140 + 8 * tenant)).toNat
/-- The lowest free slot of a tenant's pool for a record of a size, which in host memory a firewall window must admit
(R396). -/
def State.poolFree (s : State) (tenant size : Nat) : Option Nat :=
  if s.poolSlotBytes tenant < size then none
  else (List.range (s.poolSlots tenant)).find? fun i =>
    !s.mod.poolUsed.contains (tenant, i) && s.mayStore (s.poolBase tenant + i * s.poolSlotBytes tenant) size

/-- Bytes of the sections of a context's record but its results in flight (R381). -/
def State.recordBase (s : State) (r : CtxRef) : Nat :=
  let k := s.core r.core
  12800 + 16512 * ((List.range 8).filter fun t => (k.tileOwner t).owner == some r.ctx).length
    + 1600 * ((List.range 64).filter fun t => (k.slotOwner t).owner == some r.ctx).length
    + 512 * (s.ctxCmds r).length + 32 * (s.closedGates r).length

/-! ### Launches (R353) -/

/-- The context of a launch. -/
def Launch.ref (l : Launch) : CtxRef := ⟨l.core, l.ctx⟩
/-- Tiles and slots of a launch that are not free and cleared. -/
def Core.unitsBusy (k : Core) (tiles slots : Nat) : Bool :=
  let busy (o : Own) : Bool := o.owner.isSome || o.clearing
  (List.range 8).any (fun t => tiles.testBit t && busy (k.tileOwner t))
    || (List.range 64).any fun t => slots.testBit t && busy (k.slotOwner t)
/-- Shares of a channel that other contexts hold. -/
def Core.sharesOf (k : Core) (ctx ch : Nat) : Nat :=
  ((List.range 4).map fun c => if c == ctx then 0 else Sparse.get 0 (k.ctx c).shares ch).sum
/-- A region of the launch that has both an owner and a next owner. -/
def Core.regionTaken (k : Core) (regions : BitVec 16) : Bool :=
  (List.range 16).any fun g => regions.getLsbD g && (k.region g).owner.isSome && (k.region g).next.isSome
/-- The four conditions of R353. -/
def State.launchFree (s : State) (l : Launch) : Bool :=
  let k := s.core l.core
  !(k.ctx l.ctx).loaded && !k.unitsBusy (entTiles l.entry) (entSlots l.entry)
    && (List.range 4).all (fun ch => k.sharesOf l.ctx ch + entShare l.entry ch ≤ 8)
    && !k.regionTaken (entRegions l.entry)

/-- Every block of a region is RAW (R256). -/
def Core.rawRegion (k : Core) (g : Nat) : Core := { k with relief := k.relief.filter fun e => regionOf (4096 * e.1) != g }
/-- Step 1: a region of the launch is owned at once, its blocks RAW, or becomes the context's by designation (R212, R215,
R256). -/
def Core.grantRegion (k : Core) (ctx tenant ends g : Nat) : Core :=
  let r := k.region g
  match r.owner with
  | none =>
    let r := if r.lastTenant.isSome && r.lastTenant != some tenant then { r with zeroing := true, ends := ends } else r
    (k.rawRegion g).setRegion g { r with owner := some ctx }
  | some o => if o == ctx then k else k.setRegion g { r with next := some ctx }
def Core.grantRegions (k : Core) (ctx tenant ends : Nat) (regions : BitVec 16) : Core :=
  (List.range 16).foldl (fun k g => if regions.getLsbD g then k.grantRegion ctx tenant ends g else k) k
def Core.grantUnits (k : Core) (ctx tiles slots : Nat) : Core :=
  let own : Own := { owner := some ctx, clearing := false, ends := 0, release := none }
  let k := (List.range 8).foldl (fun k t => if tiles.testBit t then k.setTileOwner t own else k) k
  (List.range 64).foldl (fun k t => if slots.testBit t then k.setSlotOwner t own else k) k

/-- The blocks of a launch's windows, Relief-capable or plain, that no other context of the cluster sees as Relief are RAW at
allocation (R256). Log 45, DEDUCED. -/
def State.freshRelief (s : State) (l : Launch) : State :=
  let cl := clusterOf l.core
  let mine (b : Nat) : Bool := (List.range 4).any fun k => inWindow (entCwin l.entry k) (4096 * b)
  let shared (b : Nat) : Bool := s.cores.any fun k => clusterOf k.1 == cl && k.2.ctxs.any fun c =>
    !(k.1 == l.core && c.1 == l.ctx) && c.2.loaded && c.2.windowRelief (clusterBase + 4096 * b)
  let k := s.cluster cl
  s.setCluster cl { k with relief := k.relief.filter fun e => !mine e.1 || shared e.1 }

/-- A table of four words by number. -/
def fourWords (f : Nat → Word) : Sparse Word := (List.range 4).foldl (fun m i => Sparse.set 0 m i (f i)) []
/-- The context as steps 4 and 5 leave it. -/
def Launch.context (l : Launch) (prio : Nat) : Ctx :=
  let e := l.entry
  { Ctx.reset with
    task := some
      { node := l.node, tenant := l.tenant, prio := prio, num := l.num, slice := fieldAt e 36 4 * Config.ticksPerUs
        plat := fieldAt e 40 4 * Config.ticksPerUs, ckpt := entCkpt e, regions := entRegions e, flows := l.flows, res := l.id }
    starting := true
    pc := wordAt e 0
    bank := { Bank.reset with a := Sparse.set 0 [] 0 (BitVec.ofNat 64 (entPlocal e)) }
    pmbound := BitVec.ofNat 64 (fieldAt e 44 4)
    mlambda := BitVec.ofNat 64 (entLambda e)
    testim := wordAt e 56
    pltask := BitVec.ofNat 64 l.num
    cwin := fourWords (entCwin e)
    rwin := fourWords fun k => (resolveRwin l.core (entRwin e k)).getD 0
    shares := (List.range 4).foldl (fun m k => Sparse.set 0 m k (entShare e k)) []
    binds := l.binds }
/-- The parameter block of a launch, read by the scheduler of the core's home I/O die (R20, R353). -/
def State.readBlockOf (s : State) (l : Launch) : Except (Nat × Nat) (List Byte) × State :=
  s.readGlobal (.die (iodDie (homeIod (dieOf l.core)))) l.tenant ((fieldAt l.entry 8 8 + l.num * fieldAt l.entry 16 4) % 2 ^ 64)
    (entPlen l.entry)
/-- The parameter blocks of some launches, each with the launch's number, or the first fault. -/
def State.readBlocks (s : State) : List Launch → Except (Nat × Nat) (List (Nat × List Byte)) × State
  | [] => (.ok [], s)
  | l :: ls =>
    match s.readBlockOf l with
    | (.error e, s) => (.error e, s)
    | (.ok bs, s) =>
      match s.readBlocks ls with
      | (.ok rest, s) => (.ok ((l.id, bs) :: rest), s)
      | (.error e, s) => (.error e, s)
/-- The launches hold the blocks read for them. -/
def State.holdBlocks (s : State) (bs : List (Nat × List Byte)) : State :=
  { s with launches := s.launches.map fun x => { x with block := ((bs.find? (·.1 == x.id)).map Prod.snd).getD x.block } }
/-- The launch begins: the context is taken with everything allotted to it. -/
def State.takeLaunch (s : State) (l : Launch) : State :=
  let s := s.freshRelief l
  let prio := byteAt l.entry 29
  let s := s.modCore l.core fun k =>
    ((((k.setReliefCap l.ctx (s.imageOf l.tenant l.entry).relief).setCtx l.ctx (l.context prio)).grantRegions l.ctx l.tenant (s.cyclesOn l.core zeroCycles) (entRegions l.entry)).grantUnits l.ctx (entTiles l.entry)
      (entSlots l.entry))
  { s with launches := s.launches.map fun x => if x.id == l.id then { x with begun := true } else x }
/-- The launches of a node not yet begun. -/
def State.waitingOf (s : State) (node : Nat) : List Launch := s.launches.filter fun x => x.node == node && !x.begun
/-- Another task of a launch's placement has begun. -/
def State.othersBegun (s : State) (l : Launch) : Bool := (s.waitingOf l.node).length < (coreLists l.entry).flatten.length
/-- A node is refused as the first of its launches would begin: none of them reaches a core (R354). -/
def State.refuseLaunch (s : State) (l : Launch) (code : Nat) : State :=
  let t := { s with launches := s.launches.filter (·.node != l.node) }
  match s.nodes.find? (·.id == l.node) with
  | none => t
  | some n => t.refuseNode n code
/-- The slots of the flows of every task of a launch's node, taken together (R283, R354). -/
def State.launchSlots (s : State) (l : Launch) : Option (List Slot) :=
  s.takeTasks l.flows ((s.waitingOf l.node).map Launch.id) s.reserved
/-- The launch begins. The first of a node takes the slots and reads the blocks of all of them, or the node is refused where a
block cannot be read or the flows do not fit beside those of the running tasks (R283, R353, R354). Log 44, DEDUCED. -/
def State.beginLaunch (s : State) (l : Launch) : State :=
  if s.othersBegun l then s.takeLaunch l
  else match s.readBlocks (s.waitingOf l.node) with
    | (.error _, s) => s.refuseLaunch l refFetch
    | (.ok blocks, s) =>
      match s.launchSlots l with
      | some slots => ({ s with reserved := slots }.holdBlocks blocks).takeLaunch l
      | none => s.refuseLaunch l refGraticule

/-- No owned region of the context is still being zeroed, and the bytes to be written are owned. -/
def State.launchReady (s : State) (l : Launch) : Bool :=
  let k := s.core l.core
  let own (a n : Nat) : Bool := clusterBase ≤ a || n == 0 || (k.regionCheck l.ctx [(a, n)] matches .ok)
  !((List.range 16).any fun g => (k.region g).owner == some l.ctx && (k.region g).zeroing)
    && own (entPlocal l.entry) (entPlen l.entry)
    && (!entDesc l.entry || own (entLdesc l.entry) (descriptorOf l.levels).length)
/-- A declared sync word (R228). -/
def declaredWord (d : BitVec 32) : Word := field 50 (bits d 9 2) ||| field 32 (bits d 16 16)
/-- Steps 2 to 5: the parameter block as it stands (that read as its node began where it can no longer be read), the
descriptor and the sync words are written, and the task starts. -/
def State.startTask (s : State) (l : Launch) : State :=
  let e := l.entry
  let s := { s with launches := s.launches.filter (·.id != l.id) }
  let x := s.readBlockOf l
  let block := match x.1 with
    | .ok bs => bs
    | .error _ => l.block
  let s := x.2.portStore l.core (entPlocal e) block
  let s := if entDesc e then s.portStore l.core (entLdesc e) (descriptorOf l.levels) else s
  let s := s.modCore l.core fun k => l.syncs.foldl (fun k x => k.setSync (bits x 0 9) (declaredWord x)) k
  s.modCtx l.ref fun c => { c with starting := false }

/-! ### Newcomers (R359) -/

/-- The tasks that block a launch: of its context, of its tiles and slots, of shares that do not fit, and next owners
of its regions. Log 43, DEDUCED. -/
def State.blockers (s : State) (l : Launch) : List CtxRef :=
  let k := s.core l.core
  let holds (o : Option Nat) (c : Nat) : Bool := o == some c
  ((List.range 4).filter fun c =>
    (k.ctx c).loaded && (
      c == l.ctx
      || (List.range 8).any (fun t => (entTiles l.entry).testBit t && holds (k.tileOwner t).owner c)
      || (List.range 64).any (fun t => (entSlots l.entry).testBit t && holds (k.slotOwner t).owner c)
      || (List.range 4).any (fun ch => 8 < k.sharesOf l.ctx ch + entShare l.entry ch && Sparse.get 0 (k.ctx c).shares ch != 0)
      || (List.range 16).any (fun g => (entRegions l.entry).getLsbD g && (k.region g).owner.isSome && holds (k.region g).next c))).map
    fun c => ⟨l.core, c⟩
/-- Blockers of a node's launches for which it has made no decision, in increasing core index and context
number. Log 43, DEDUCED. -/
def State.undecided (s : State) (n : Node) : List CtxRef :=
  let all := (s.launches.filter fun l => l.node == n.id && !l.begun).flatMap s.blockers
  (((List.range 768).flatMap fun i => (List.range 4).map fun c => (⟨i, c⟩ : CtxRef)).filter fun r =>
    all.contains r && !((s.ctx r).task.any fun t => n.decided.contains (t.node, t.num)))
/-- A checkpoint of the task can be chosen: CKPT is 1 and its record finds a slot (R390). -/
def State.ckptPossible (s : State) (r : CtxRef) (t : Task) : Bool :=
  t.ckpt && (s.poolFree t.tenant (s.recordBase r)).isSome
/-- One decision. -/
def State.decide (s : State) (n : Node) (waitNs : Nat) (r : CtxRef) : Node × State :=
  let c := s.ctx r
  match c.task with
  | none => (n, s)
  | some t =>
    let n := { n with decided := n.decided ++ [(t.node, t.num)] }
    if n.prio ≤ t.prio then (n, s)
    else if c.testim.toNat ≤ waitNs then (n, s)
    else if s.ckptPossible r t then
      (n, s.setCtx r { c with req := { c.req with ckpt := true, preempt := some (c.req.preempt.getD 0) } })
    else if 0 < n.tokens then ({ n with tokens := n.tokens - 1 }, s.killTask r .killed 2 c.excArgs)
    else (n, s)
/-- NEWCOMER DECISION for every blocker found together. -/
def State.decideAll (s : State) (n : Node) (waitNs : Nat) : State :=
  let x := (s.undecided n).foldl (fun (x : Node × State) r => x.2.decide x.1 waitNs r) (n, s)
  x.2.setNode { ((x.2.nodes.find? (·.id == n.id)).getD x.1) with tokens := x.1.tokens, decided := x.1.decided }

/-- What a launch can do now: 0 nothing, 1 decide, 2 begin, 3 start. -/
def State.launchMove (s : State) (l : Launch) : Nat :=
  if l.begun then (if s.launchReady l then 3 else 0)
  else if s.launchFree l then 2
  else match s.nodes.find? (·.id == l.node) with
    | some n => if (s.undecided n).isEmpty then 0 else 1
    | none => 0
def execTaskLaunch (id : Nat) (s : State) : Result :=
  match s.launches.find? (·.id == id) with
  | none => .next s
  | some l =>
    match s.launchMove l with
    | 3 => .next (s.startTask l)
    | 2 => .next (s.beginLaunch l)
    | 1 => .next (match s.nodes.find? (·.id == l.node) with
        | some n => s.decideAll n (fieldAt l.entry 52 4)
        | none => s)
    | _ => .next s

/-! ### The end of a task (R118) -/

/-- TASK COMPLETE: every result in flight lands, the resources still held are reclaimed, an invalidation that it asked for
goes on without it, and the end is counted at the node. -/
def State.completeTask (s : State) (r : CtxRef) : State :=
  match (s.ctx r).task with
  | none => s
  | some t =>
    let s := (s.landAll r ((s.ctx r).drainTime + 1)).endSuspend r
    let s : State := { s with invals := s.invals.map fun v => if v.ctx == some r then { v with ctx := none } else v }
    let lates := (s.ctx r).lates
    (s.freeContext r).endTask t.node lates .done 0 []
def State.taskEnds (s : State) (r : CtxRef) : Bool :=
  let c := s.ctx r
  c.loaded && c.ending && c.saeClosed.isEmpty
def execTaskComplete (c : CtxRef) (s : State) : Result := whenever (s.taskEnds c) s (·.completeTask c)

/-! ### Slices (R356, R357, R360) -/

/-- A tenant is eligible: gang mode is off, its epoch is still to come, or the current set names it. -/
def State.eligible (s : State) (tenant : Nat) : Bool :=
  match s.gang with
  | none => true
  | some g =>
    if g.at_ == 0 then true
    else (g.sets.getD ((g.at_ - 1) % max g.sets.length 1) 0).getLsbD tenant
def State.holds (s : State) (r : CtxRef) : Bool := (s.core r.core).holder == r.ctx
/-- A context may issue: a started task that has not ended, with its record not being written, of an eligible tenant. The
holder of the stage of an outgoing tenant goes on while its switch request stands (R356, R357, R360). -/
def State.canRun (s : State) (r : CtxRef) : Bool :=
  let c := s.ctx r
  c.loaded && !c.starting && !c.ending && c.saving.isNone
    && (s.eligible (s.tenantOf r) || (s.holds r && c.req.tenant.isSome))
/-- The wait of a TWAIT, LDNB or TEND keeps a place in the list; any other block does not (R88). Log 52, DEDUCED. -/
def State.runnable (s : State) (r : CtxRef) : Bool := s.canRun r && (s.ctx r).blocked != some false
def State.othersRunnable (s : State) (r : CtxRef) : Bool :=
  (List.range 4).any fun c => c != r.ctx && s.runnable ⟨r.core, c⟩

/-- SLICE EXPIRY: the slice has run out and a switch is requested. -/
def State.sliceOut (s : State) (r : CtxRef) : Bool :=
  let c := s.ctx r
  s.holds r && s.canRun r && c.req.slice.isNone && s.othersRunnable r && (c.task.any fun t => t.slice ≤ c.req.sliceUsed)
def execSliceExpiry (c : CtxRef) (s : State) : Result :=
  whenever (s.sliceOut c) s (·.modCtx c fun x => { x with req := { x.req with slice := some 0 } })

/-- PLAT EXPIRY: a request has stood for PLAT, and the task is killed with PLATX. -/
def State.platOut (s : State) (r : CtxRef) : Bool :=
  let c := s.ctx r
  c.task.any fun t => [c.req.slice, c.req.preempt, c.req.tenant].any fun x => x.any (t.plat ≤ ·)
def execPlatExpiry (c : CtxRef) (s : State) : Result :=
  whenever (s.platOut c) s fun s => s.killTask c .killed 1 (s.ctx c).excArgs

/-- Slice boundaries passed at a time. -/
def Gang.passed (g : Gang) (t : Nat) : Nat := if t < g.gt0 then 0 else (t - g.gt0) / max g.glen 1 + 1
/-- GANG SLICE SWITCH: the next set is in force; the running contexts of outgoing tenants, those of the set that ends and
not of the next, are asked to switch. A request that still stands when a set names its tenant again ends. Log 68, DESIGN
CHOICE. -/
def State.switchGang (s : State) (g : Gang) : State :=
  let t := { s with gang := some { g with at_ := g.passed s.reference } }
  let ask (c : Ctx) : Ctx :=
    match c.task with
    | none => c
    | some k =>
      if t.eligible k.tenant then { c with req := { c.req with tenant := none } }
      else if s.eligible k.tenant && !c.starting && !c.ending then { c with req := { c.req with tenant := some (c.req.tenant.getD 0) } }
      else c
  { t with cores := t.cores.map fun (i, k) => (i, { k with ctxs := k.ctxs.map fun (n, c) => (n, ask c) }) }
def execGangSliceSwitch (s : State) : Result :=
  match s.gang with
  | some g => whenever (g.at_ < g.passed s.reference) s (·.switchGang g)
  | none => .next s

end Sys2Proof.Machine
end

