-- ==== Sys2Proof/Machine/Grammar.lean ====
section
/-! DEFINITION. The grammar engine (R362 to R366): descriptors, walker records, the admission of tokens, and the service
of GSTEP and GMASK. -/
namespace Sys2Proof.Machine

/-! ### Descriptors and walker records (R362, R363) -/

def gramOk (d : List Byte) : Bool :=
  1 ≤ gramStates d && gramStates d ≤ 4096 && 1 ≤ gramSyms d && gramSyms d ≤ 256 && 1 ≤ gramClasses d
    && gramClasses d ≤ 256 && zeroAt d 6 2 && 1 ≤ gramTokens d && gramTokens d ≤ 65536 && zeroAt d 12 4

def walkState (w : List Byte) : Nat := fieldAt w 0 2
def walkDepth (w : List Byte) : Nat := byteAt w 2
def walkDead (w : List Byte) : Bool := (w.getD 3 0).getLsbD 0
def walkTop (w : List Byte) : Nat := if walkDepth w == 0 then 0 else byteAt w (127 + walkDepth w)
def walkOk (d w : List Byte) : Bool :=
  walkDepth w ≤ 128 && walkState w < gramStates d && byteAt w 3 < 2 && zeroAt w 8 120

/-- A command is refused before it reads a token or writes anything (R365). -/
def gramRefused (k : Cmd) : Bool :=
  !gramOk k.record || (match k.instr with
    | some (.gstep _ _) => 65536 < k.cnt || k.frm % 4 != 0 || k.tgt % 64 != 0
    | _ => k.frm % 64 != 0 || k.tgt % 128 != 0 || rangesMeet k.frm 256 k.tgt (4 * (32 * ((gramTokens k.record + 31) / 32))))

/-! ### Admission (R364) -/

def actOp (a : Nat) : Nat := a / 2 % 4
def actNext (a : Nat) : Nat := a / 16 % 4096
def actSym (a : Nat) : Nat := a / 65536 % 256
/-- An action admits a token in a walker state. -/
def actionOk (d w : List Byte) (a : Nat) : Bool :=
  let op := actOp a
  a % 2 == 1 && a / 8 % 2 == 0 && a / 2 ^ 24 == 0 && actNext a < gramStates d
    && (op == 0 || op == 2 || (1 ≤ actSym a && actSym a < gramSyms d))
    && (op < 2 || 1 ≤ walkDepth w) && (op != 1 || walkDepth w < 128)

/-- Outcome of a token's test. -/
inductive Admission
  | wait
  | fail (c : StopCause) (addr : Nat) (s : State)
  /-- Admitted by an action, or not. -/
  | known (a : Option Nat) (s : State)
deriving DecidableEq, Repr

/-- A token that no class is read for: the walker is dead, or the token lies past the vocabulary. -/
def unclassed (d w : List Byte) (tok : Nat) : Bool := walkDead w || gramTokens d ≤ tok
/-- The test of a token of a class: its action is read. -/
def State.admitClass (s : State) (k : Cmd) (w : List Byte) (cls : Nat) : Admission :=
  let d := k.record
  if gramClasses d ≤ cls then .known none s
  else
    let at_ := gramActAddr d + 4 * ((walkState w * gramSyms d + walkTop w) * gramClasses d + cls)
    match s.fetchRange .chan k false (at_ % 2 ^ 64) 4 with
    | .wait => .wait
    | .fail c x s => .fail c x s
    | .bytes b s => .known (if actionOk d w (leNat b) then some (leNat b) else none) s
/-- The test of a token: its class is read, then its action. Log 48, DEDUCED. -/
def State.admission (s : State) (k : Cmd) (w : List Byte) (tok : Nat) : Admission :=
  if unclassed k.record w tok then .known none s
  else match s.fetchRange .chan k false ((gramClsAddr k.record + tok) % 2 ^ 64) 1 with
    | .wait => .wait
    | .fail c x s => .fail c x s
    | .bytes b s => s.admitClass k w (byteAt b 0)

/-- The walker record after an admitted token's action, NSTEP risen by one; after any other, DEAD. -/
def applyAction (w : List Byte) (a : Option Nat) : List Byte :=
  match a with
  | none => patchBytes w 3 [BitVec.ofNat 8 (byteAt w 3 ||| 1)]
  | some a =>
    let depth := walkDepth w
    let depth' := match actOp a with
      | 1 => depth + 1
      | 2 => depth - 1
      | _ => depth
    let w := if actOp a == 1 || actOp a == 3 then patchBytes w (127 + depth') [BitVec.ofNat 8 (actSym a)] else w
    patchBytes (patchBytes (patchBytes w 0 (natBytes 2 (actNext a))) 2 (natBytes 1 depth')) 4
      (natBytes 4 (fieldAt w 4 4 + 1))

/-! ### Service (R365, R366) -/

/-- The tokens of a GSTEP from DONE on; the fuel is their number. -/
def State.walkTokens (s : State) (k : Cmd) : Nat → Try
  | 0 => .go (s.setCmd k)
  | n + 1 =>
    if k.cnt ≤ k.done || walkDead k.tbuf then .go (s.setCmd k)
    else match s.fetchRange .chan k true (k.frm + 4 * k.done) 4 with
      | .wait => .wait
      | .fail c x s => .stop c x (s.setCmd k)
      | .bytes b s =>
        match s.admission k k.tbuf (leNat b) with
        | .wait => .wait
        | .fail c x s => .stop c x (s.setCmd k)
        | .known a s => s.walkTokens { k with done := k.done + 1, tbuf := applyAction k.tbuf a } n

/-- A GMASK held with its walker record and the words of the unit that it is at: one restored without them starts the unit
anew. -/
def Cmd.atUnit (k : Cmd) : Cmd :=
  if k.tbuf.length == 256 + 4 * (k.done % 16) || k.tbuf.length == 320 then k
  else { k with done := k.done / 16 * 16, tbuf := k.tbuf.take 256, held := [] }
/-- The classes from a GMASK's next token to the end of an aligned 64 bytes of CLSADDR, read at one instant and held (R290). -/
def State.classesAhead (s : State) (k : Cmd) : Fetched :=
  match k.held with
  | (b :: bs) :: _ => .bytes (b :: bs) s
  | _ =>
    let a := (gramClsAddr k.record + k.done) % 2 ^ 64
    s.fetchRange .chan k false a (min (64 - a % 64) (gramTokens k.record - k.done))
/-- The sixteen words of an aligned 64 bytes of a GMASK's vector, held after the walker record as they become known and
written together (R290); the fuel is above their number. Log 49, DEDUCED. -/
def State.maskUnit (s : State) (k : Cmd) (total : Nat) : Nat → Try
  | 0 => .go (s.setCmd k)
  | n + 1 =>
    if k.tbuf.length == 320 then
      match s.putRange .chan k true (k.tgt + 4 * (k.done - 16)) (k.tbuf.drop 256) with
      | .wait => .go (s.setCmd k)
      | .stop c x s => .stop c x (s.setCmd k)
      | .go s => .go (s.setCmd { k with tbuf := k.tbuf.take 256, state := if total ≤ k.done then .finished else k.state })
    else
      let next (k : Cmd) (a : Option Nat) : Cmd :=
        { k with done := k.done + 1, tbuf := k.tbuf ++ natBytes 4 (if a.isSome then 0xFFFFFFFF else 0) }
      if unclassed k.record k.tbuf k.done then s.maskUnit (next k none) total n
      else match s.classesAhead k with
        | .wait => .go (s.setCmd k)
        | .fail c x s => .stop c x (s.setCmd k)
        | .bytes bs s =>
          let k := { k with held := [bs] }
          match s.admitClass k k.tbuf (byteAt bs 0) with
          | .wait => .go (s.setCmd k)
          | .fail c x s => .stop c x (s.setCmd k)
          | .known a s => s.maskUnit (next { k with held := [bs.drop 1] } a) total n

/-- GSTEP with its record in hand: the tokens, then the record written back. -/
def State.stepGrammar (s : State) (k : Cmd) : Try :=
  match s.walkTokens k (k.cnt + 1) with
  | .go s =>
    (match s.findCmd k.id with
      | none => .go s
      | some k =>
        match s.putRange .chan k true k.tgt k.tbuf with
        | .go s => .go (s.setCmd { k with state := .finished })
        | .wait => .go s
        | other => other)
  | other => other
/-- A command served, a GMASK by one unit of its vector: its walker record is read as it starts, checked, and kept while it runs. Log 49, DEDUCED. -/
def State.grammarTry (s : State) (k : Cmd) : Try :=
  let step := match k.instr with
    | some (.gstep _ _) => true
    | _ => false
  let run (s : State) (k : Cmd) : Try :=
    let n := 32 * ((gramTokens k.record + 31) / 32)
    if step then s.stepGrammar k else s.maskUnit k.atUnit n 17
  if k.tbuf.isEmpty then
    match s.fetchRange .chan k true (if step then k.tgt else k.frm) 256 with
    | .wait => .wait
    | .fail c x s => .stop c x s
    | .bytes w s => if walkOk k.record w then run s { k with tbuf := w } else .stop .refused k.lrec s
  else run s k

/-- The command that an engine serves: the first of its queue that runs and whose context has no earlier grammar
command left. -/
def State.grammarNext (s : State) (die : Nat) : Option Cmd :=
  ((s.die die).grammar.filterMap s.findCmd).find? fun k =>
    k.state = .running && !(s.cmds.any fun t => t.ctx == k.ctx && t.id < k.id && t.instr.any isGrammar)
def execGrammarCommand (die : Nat) (s : State) : Result :=
  match s.grammarNext die with
  | some k => .next (s.settle k (s.grammarTry k))
  | none => .next s

end Sys2Proof.Machine
end

