-- ==== Sys2Proof/Machine/Deps.lean ====
section
/-! DEFINITION. The registers that an instruction word reads and writes, for the dependences of R61 and the premature
reads of R94, with the register encoding of R370. -/
namespace Sys2Proof.Machine

/-- A register as file and number: 0 x, 1 a, 2 p, 3 v, 4 m, 5 q, 6 b, 7 system register (R370). -/
abbrev Reg := Nat × Nat
def regX {w : Nat} (n : BitVec w) : Reg := (0, n.toNat)
def regA {w : Nat} (n : BitVec w) : Reg := (1, n.toNat)
def regP {w : Nat} (n : BitVec w) : Reg := (2, n.toNat)
def regV {w : Nat} (n : BitVec w) : Reg := (3, n.toNat)
def regM {w : Nat} (n : BitVec w) : Reg := (4, n.toNat)
def regQ {w : Nat} (n : BitVec w) : Reg := (5, n.toNat)
def regB {w : Nat} (n : BitVec w) : Reg := (6, n.toNat)
def regS (n : Nat) : Reg := (7, n)
/-- x0, p0 and m0 take part in nothing (R61). -/
def Reg.counts (r : Reg) : Bool := r != (0, 0) && r != (2, 0) && r != (4, 0)

/-! ### Operand groups, in field order (R370) -/

def readA (f : FmtA) : Reg := if f.msk.getLsbD 1 then regA f.opa else regX f.opa
def readB (f : FmtA) : Reg := if f.msk.getLsbD 0 then regA f.opb else regX f.opb
def writeI (f : FmtA) : Reg := if f.msk.getLsbD 2 then regA f.dst else regX f.dst
def vecs1 (f : FmtA) : List Reg := [regV f.opa, regM f.msk]
def vecs2 (f : FmtA) : List Reg := [regV f.opa, regV f.opb, regM f.msk]
def vecs3 (f : FmtA) : List Reg := [regV f.opa, regV f.opb, regV f.aux, regM f.msk]
/-- a[BASE] and x[IDX]. -/
def addrRegs (f : FmtL) : List Reg := [regA f.base, regX f.idx]
/-- The data register of a format-L access at its size. -/
def dataReg (f : FmtL) : Reg :=
  if f.sz == 6 then regV f.dt else if f.sz == 3 && f.lx.getLsbD 1 then regA f.dt else regX f.dt
def sizedReg (f : FmtL) : Reg := if f.sz == 6 then regV f.dt else regX f.dt
def maskReg (f : FmtL) : List Reg := if f.sz == 6 then [regM f.msk] else []
/-- The address registers of a nest (R251). -/
def nestReads (f : FmtK) : List Reg :=
  (List.range (2 * ((f.kx.extractLsb' 5 3).toNat - 1))).map fun i => (1, (f.kx.extractLsb' 0 5).toNat + i)
def sysRegs (n : Nat) : List Reg := regS n :: if 0x028 ≤ n && n ≤ 0x02B then [(6, n - 0x028)] else []

/-- The registers that a word reads, its guard apart. The start of an invalidation by MTS TINVC is counted as no read of
TINVA, which the landed write reads. VSPICK.start, which uses no mask, is counted as reading the m register that it names,
as its siblings do. Log 50, DEDUCED. -/
def readsOf : Instr → List Reg
  | .brc _ f | .lbr _ f => [regX f.ja, regX f.jb]
  | .brm _ f => [regM f.ja]
  | .pbr _ f => if f.ja.getLsbD 5 then [regA f.jb] else []
  | .brt _ f | .ret _ f => [regB f.ja]
  | .jtb _ f => [regX f.ja, regA f.jb]
  | .lseq _ f => [regA f.jb]
  | .tfence _ _ => [regS 0x010]
  | .fence _ f => [regX f.opa, regX f.opb]
  | .twait _ f => [regX f.ja]
  | .add _ f | .sub _ f | .mul _ f | .mulh _ f | .div _ f | .rem _ f | .and _ f | .or _ f | .xor _ f | .andn _ f
  | .shl _ f | .shr _ f | .sra _ f | .rotl _ f | .min _ f | .max _ f | .cmp _ f => [readA f, readB f]
  | .clz _ f | .popc _ f => [readA f]
  | .sel _ f => [readA f, readB f, regP f.aux]
  | .pand _ f | .por _ f | .pxor _ f => [regP f.opa, regP f.opb]
  | .pnot _ f => [regP f.opa]
  | .mfs _ f => sysRegs (sysIndex f)
  | .mts _ f | .mtsSticky _ f | .mtsPend _ f | .regrelWrite _ f | .tinvcStart _ f => [regX f.opa]
  | .lea _ f => [regA f.opa]
  | .moviHi _ f => [regX f.dst]
  | .addi _ f | .andi _ f | .ori _ f | .xori _ f | .shli _ f | .shri _ f | .srai _ f | .cmpi _ f => [regX f.opa]
  | .ldb _ f | .ldh _ f | .ldw _ f | .ldd _ f | .sarr _ f | .srel _ f | .qload _ f | .mlda _ f | .msave _ f
  | .mload _ f => addrRegs f
  | .stb _ f | .sth _ f | .stw _ f | .std _ f => dataReg f :: addrRegs f
  | .vld _ f | .vlds _ f => addrRegs f ++ [regM f.msk]
  | .vst _ f | .vsts _ f => regV f.dt :: addrRegs f ++ [regM f.msk]
  | .cld _ f | .ldnb _ f => addrRegs f ++ maskReg f
  | .cst _ f | .rwr _ f | .rws _ f | .stva _ f | .rwva _ f => sizedReg f :: addrRegs f ++ maskReg f
  | .swait _ f | .sacq _ f | .sset _ f | .saeq _ f | .dpub _ f => regX f.dt :: addrRegs f
  | .vadd _ f | .vsub _ f | .vmul _ f | .vmin _ f | .vmax _ f | .vand _ f | .vor _ f | .vxor _ f | .vfsh _ f
  | .vperm _ f | .vsel _ f | .vcmp _ f | .vfadd _ f | .vfsub _ f | .vfmul _ f | .vfmin _ f | .vfmax _ f
  | .vfdiv _ f => vecs2 f
  | .vlut3 _ f | .vfma _ f => vecs3 f
  | .vshl _ f | .vshr _ f => if f.sub == 0 then vecs2 f else vecs1 f
  | .vpopc _ f | .vclz _ f | .vrot _ f | .vfsqrt _ f | .vfabs _ f | .vfneg _ f | .vcvt _ f | .vrmax _ f | .vrmin _ f
  | .vradd _ f => vecs1 f
  | .vbcast _ f => if f.sub == 2 then [regX f.opa, regM f.msk] else vecs1 f
  | .mand _ f | .mor _ f => [regM f.opa, regM f.opb]
  | .mnot _ f | .mpop _ f => [regM f.opa]
  | .vswt _ f | .vspickScan _ f | .vspickFinal _ f => [regV f.opa, regV f.opb, regQ f.aux, regM f.msk]
  | .vspickStart _ f => [regV f.opb, regQ f.aux, regM f.msk]
  | .qdot _ f => regQ f.dst :: vecs2 f
  | .qfma _ f => [regQ f.dst, regX f.opa, regX f.opb]
  | .qadd _ f => [regQ f.dst, regX f.opa]
  | .qaddq _ f => [regQ f.dst, regQ f.opa]
  | .qneg _ f | .qfrom _ f => [regQ f.dst]
  | .qrnd _ f | .qtst _ f | .qtstNar _ f => [regQ f.opa]
  | .qsave _ f => regQ f.dt :: addrRegs f
  | .mclaim _ f | .mrel _ f => [regX f.opa]
  | .drd _ f => [regM f.msk]
  | .dsgd _ f | .dmom _ f => [regV f.opa, regX f.opb, regM f.msk]
  | .kcp _ f | .kcpOpimg _ f | .kenc _ f => [regA f.tgt, regA f.frm, regX f.cnt]
  | .kcpn _ f => [regA f.tgt, regA f.frm, regX f.cnt] ++ nestReads f
  | .kcpv _ f | .gstep _ f => [regA f.tgt, regA f.frm, regA f.lrec, regX f.cnt]
  | .ktr _ f | .gmask _ f => [regA f.tgt, regA f.frm, regA f.lrec]
  | .krec _ f | .kseal _ f | .ksealUnseal _ f | .ktab _ f | .ktsk _ f => [regA f.frm, regX f.cnt]
  | .knmc _ f => [regA f.lrec]
  | .kcol _ f =>
    (if f.kx.getLsbD 1 then [regA f.tgt] else []) ++ (if f.kx.getLsbD 0 then [regA f.frm] else []) ++ [regA f.lrec]
      ++ (if f.kx.getLsbD 1 then [regX f.cnt] else [])
  | .kcan _ f => [regX f.cnt]
  | _ => []

/-- The registers that a word writes. SAEQ is counted as no write of SAESTAT and SAEADDR, which the refusal of a queued
entry writes; KRES clears a bit of KSHARE (R316). Log 50, DEDUCED. -/
def writesOf : Instr → List Reg
  | .pbr _ f => [(6, (f.ja.extractLsb' 0 2).toNat)]
  | .call _ f => [regB f.ja]
  | .lbr _ f => [regX f.ja, regX f.jb]
  | .pmark _ _ => [regS 0x009]
  | .add _ f | .sub _ f | .mul _ f | .mulh _ f | .div _ f | .rem _ f | .and _ f | .or _ f | .xor _ f | .andn _ f
  | .shl _ f | .shr _ f | .sra _ f | .rotl _ f | .clz _ f | .popc _ f | .min _ f | .max _ f | .sel _ f
  | .time _ f => [writeI f]
  | .cmp _ f | .pand _ f | .por _ f | .pxor _ f | .pnot _ f | .qtst _ f | .qtstNar _ f => [regP f.dst]
  | .cmpi _ f => [regP f.dst]
  | .mts _ f | .mtsSticky _ f | .mtsPend _ f | .regrelWrite _ f | .tinvcStart _ f => [regS (sysIndex f)]
  | .lea _ f => [regA f.dst]
  | .mfs _ f | .addi _ f | .andi _ f | .ori _ f | .xori _ f | .shli _ f | .shri _ f | .srai _ f => [regX f.dst]
  | .movi _ f | .moviHi _ f => [regX f.dst]
  | .ldb _ f | .ldh _ f | .ldw _ f | .ldd _ f => [dataReg f]
  | .vld _ f | .vlds _ f => [regV f.dt]
  | .cld _ f | .ldnb _ f => [sizedReg f]
  | .saef _ f => [regX f.dt, regS 0x110, regS 0x111]
  | .vadd _ f | .vsub _ f | .vmul _ f | .vmin _ f | .vmax _ f | .vand _ f | .vor _ f | .vxor _ f | .vlut3 _ f
  | .vshl _ f | .vshr _ f | .vfsh _ f | .vpopc _ f | .vclz _ f | .vrot _ f | .vperm _ f | .vbcast _ f | .vsel _ f
  | .vfadd _ f | .vfsub _ f | .vfmul _ f | .vfma _ f | .vfmin _ f | .vfmax _ f | .vfdiv _ f | .vfsqrt _ f
  | .vfabs _ f | .vfneg _ f | .vcvt _ f | .drd _ f | .dsgd _ f | .dmom _ f => [regV f.dst]
  | .vcmp _ f | .mand _ f | .mor _ f | .mnot _ f => [regM f.dst]
  | .vrmax _ f | .vrmin _ f | .vradd _ f => [if f.sub == 0 then regV f.dst else regX f.dst]
  | .mpop _ f | .qrnd _ f | .mclaim _ f => [regX f.dst]
  | .vswt _ f => [regV f.dst, regQ f.aux]
  | .vspickStart _ f => [regQ f.aux]
  | .vspickScan _ f | .vspickFinal _ f => [regX f.dst, regQ f.aux]
  | .qclr _ f | .qdot _ f | .qfma _ f | .qadd _ f | .qaddq _ f | .qneg _ f | .qfrom _ f => [regQ f.dst]
  | .qload _ f => [regQ f.dt]
  | .kres _ _ | .kresDrop _ _ => [regS 0x112]
  | _ => []

/-! ### Dependences (R61) -/

/-- Two words of a group depend on each other. -/
def depends (g h : Guard) (a b : Instr) : Bool :=
  let all (i : Instr) (k : Guard) : List Reg := (readsOf i ++ [regP k.pg]).filter Reg.counts
  let meets (xs ys : List Reg) : Bool := xs.any ys.contains
  let wa := (writesOf a).filter Reg.counts
  let wb := (writesOf b).filter Reg.counts
  meets wa (all b h) || meets wb (all a g) || (meets wa wb && !(g.pg == h.pg && g.gn != h.gn))

/-! ### Pending registers (R94, R370) -/

/-- The register that a result in flight writes. -/
def Effect.reg? : Effect → Option Reg
  | .x n _ => some (0, n)
  | .a n _ => some (1, n)
  | .p n _ => some (2, n)
  | .v n _ _ => some (3, n)
  | .m n _ => some (4, n)
  | .q n _ => some (5, n)
  | .b n _ => some (6, n)
  | .sys n _ => some (7, n)
  | .part file n _ _ => some (file, n)
  | _ => none
/-- The registers of a context with a result in flight. -/
def Ctx.pending (c : Ctx) : List Reg := (c.line.filterMap fun p => p.eff.reg?).filter Reg.counts

/-- The first pending register that a word reads: its operands where its guard holds, then its guard. -/
def Ctx.earlyOf (c : Ctx) (g : Guard) (i : Instr) : Option Reg :=
  ((if c.guard g then readsOf i else []) ++ [regP g.pg]).find? c.pending.contains
/-- TADDR of EARLY (R370). -/
def Reg.code (r : Reg) : Word := BitVec.ofNat 64 (4096 * r.1 + r.2)

end Sys2Proof.Machine
end

