-- ==== Sys2Proof/Machine/Start.lean ====
section
/-! DEFINITION. COMMAND START (R242, R245): a command of a channel starts in its context's order, is refused, or is
handed to the engine that serves it. -/
namespace Sys2Proof.Machine

/-- The engine that serves a command has taken it; a copy and a near-memory command need no more than to start. -/
def State.taken (s : State) (k : Cmd) : Bool :=
  match k.instr with
  | some (.kcol _ _) => s.colls.any fun c => c.parties.any (·.cmd == k.id)
  | some (.gstep _ _) | some (.gmask _ _) => s.dies.any fun d => d.2.grammar.contains k.id
  | some (.ktsk _ _) => k.accepted
  | _ => true
/-- A started command of a channel waits: for its version (R252), for a region (R245), for a switch of a slot or for its own
(R260). -/
def State.waits (s : State) (k : Cmd) : Bool :=
  k.state = .running && match k.instr with
    | some (.ktab _ _) => true
    | some i => isCopy i && (s.copyTry ((k.ctx.map (·.core)).getD 0) k.id).isWait
    | none => false
/-- A command holds up the later ones of its context on its channel: it has not started, has stopped, or waits (R242). -/
def State.holdsUp (s : State) (k : Cmd) : Bool := k.state = .queued || k.isStopped || s.waits k
/-- A command may start: no earlier command of its context on its channel holds it up, and no gate holds it where it is of
class K. One of class E that a gate holds starts and is taken by its engine when the gate opens (R304). -/
def State.startEnabled (s : State) (k : Cmd) : Bool :=
  (match k.ctx with
    | some r => (s.ctx r).saving.isNone
        && (k.state != .queued || !((s.chanCmds r k.chan).any fun t => t.id < k.id && s.holdsUp t))
    | none => true)
  && ((k.state = .queued && (k.isE || !s.cmdHeld k)) || (k.state = .running && !s.taken k && !s.cmdHeld k))

/-- One node of a KTSK posted: a control message from the issuing core to its home I/O die (R280, R361). -/
def State.postNode (s : State) (k : Cmd) (r : CtxRef) (i : Nat) : State :=
  let iod := homeIod (dieOf r.core)
  let id := s.nextId
  let p : Post :=
    { iod := iod, tenant := k.tenant, port := none, addr := (k.frm + 64 * i) % 2 ^ 64, cmd := some k.id
      prio := ((s.ctx r).task.map Task.prio).getD 0, carrier := some id }
  let s := s.sendMsg r.core (iodSrc iod) .post
  { s with posts := s.posts ++ [p] }
/-- The nodes of a KTSK from AUX on are posted, in address order (R346, R361). -/
def State.postNodes (s : State) (k : Cmd) (r : CtxRef) : State :=
  (List.range (k.cnt - k.aux)).foldl (fun s i => s.postNode k r (k.aux + i)) (s.setCmd { k with state := .running, accepted := true })

/-- A grammar command enters the queue of its die's engine. -/
def State.joinGrammar (s : State) (k : Cmd) (r : CtxRef) : State :=
  let d := s.die (dieOf r.core)
  (s.setCmd { k with state := .running }).setDie (dieOf r.core)
    { d with grammar := d.grammar.filter (· != k.id) ++ [k.id] }

/-- A command is handed to the engine that serves it, unless a gate holds it: then it has only started. -/
def State.handOut (s : State) (k : Cmd) (t : Try) : Try := if s.cmdHeld k then .go (s.setCmd { k with state := .running }) else t
/-- What a command does as it starts, or as a gate that held it has opened. -/
def State.startTry (s : State) (k : Cmd) (r : CtxRef) : Instr → Try
  | .knmc _ _ => if s.nmcRefused k then .stop .refused 0 s else .go (s.setCmd { k with state := .running })
  | .kcol _ f => s.handOut k (s.joinColl (s.payOwed k) r f)
  | .kcan _ _ => .go (s.startCancel k)
  | .ktsk _ _ => if k.cnt == 0 || 64 < k.cnt then .stop .refused 0 s else s.handOut k (.go (s.postNodes k r))
  | .gstep _ _ | .gmask _ _ => if gramRefused k then .stop .refused 0 s else s.handOut k (.go (s.joinGrammar k r))
  | .ktab _ f =>
    if f.kx.getLsbD 2 then
      let (n, s) := s.fresh
      .go (s.setCmd { k with state := .running, aux := n })
    else .go (s.setCmd { k with state := .running })
  | i => if s.copyRefused k i then .stop .refused 0 s else s.startCopy k i

def execCommandStart (core id : Nat) (s : State) : Result :=
  match s.findCmd id with
  | some k =>
    (match k.ctx, k.instr with
      | some r, some i =>
        .next (if r.core == core && s.startEnabled k then s.settle k (s.startTry k r i) else s)
      | _, _ => .next s)
  | none => .next s

end Sys2Proof.Machine
end

