-- ==== Sys2Proof/Machine/Fence.lean ====
section
/-! DEFINITION. FENCE and its gates (R302 to R305), and TEND (R118). -/
namespace Sys2Proof.Machine

/-! ### Fields (R303) -/

def fenceGlob (f : FmtA) : Bool := (fenceBits f).getLsbD 11
def fencePred (f : FmtA) (cls : Nat) : Bool := (fenceBits f).getLsbD (7 + cls)
def fenceSucc (f : FmtA) : BitVec 4 := (fenceBits f).extractLsb' 3 4
def fenceScope (f : FmtA) : Nat := bits (fenceBits f) 0 3

/-! ### Homes within a scope (R304) -/

/-- A local address as a core sees it: its scratchpad or its cluster's SRAM. -/
def localInScope (scope core target a : Nat) : Bool :=
  if clusterBase ≤ a then 1 ≤ scope
  else match scope with
    | 0 => target == core
    | 1 => clusterOf target == clusterOf core
    | 2 => dieOf target == dieOf core || clusterOf target == clusterOf core
    | _ => true
/-- Some page of a global range has its home within the scope; the fuel is the number of pages that may be met.
Log 53, DEDUCED. -/
def State.pagesInScope (s : State) (tenant : Nat) : Nat → Nat → Nat → Bool
  | 0, _, _ => false
  | k + 1, a, e =>
    if e ≤ a then false
    else
      let leaf := if canonical a then s.walk [] tenant a else .error tNONCANON
      let size := match leaf with
        | .ok (level, _, _) => pageSize level
        | .error _ => pageSize 4
      let here := match leaf with
        | .ok (level, w, _) => (homeOf (leafPa level w a)).isDram && paModule (leafPa level w a) == s.mod.number
        | .error _ => false
      here || s.pagesInScope tenant k (a / size * size + size) e
/-- The bytes of a range that lie in the gate's range. -/
def Gate.clip (g : Gate) (a n : Nat) : Nat × Nat := (max g.base a, min (min (g.base + g.len) (2 ^ 64)) (a + n))
/-- Log 53, DEDUCED. -/
def State.globalInScope (s : State) (tenant scope : Nat) (g : Gate) (a n : Nat) : Bool :=
  let c := g.clip a n
  if 4 ≤ scope then true
  else if scope == 3 then s.pagesInScope tenant ((c.2 - c.1) / pageSize 4 + 2) c.1 c.2
  else false

/-! ### The snapshot (R293, R304) -/

/-- Some byte of a range of the running context lies in the gate's range with its home within the scope. -/
def State.rangeIn (s : State) (r : CtxRef) (scope : Nat) (g : Gate) (x : Range) : Bool :=
  g.meets x.glob x.addr x.len
    && (if x.glob then s.globalInScope (s.tenantOf r) scope g x.addr x.len
        else localInScope scope r.core r.core (g.clip x.addr x.len).1)

/-- Class L not yet performed: the images of QSAVE and MSAVE still to be stored, in flight or at port 2, and the timed stores
of STVA. -/
def State.snapL (s : State) (r : CtxRef) (scope : Nat) (g : Gate) : List GateMember :=
  let c := s.ctx r
  let image (due a : Nat) (bs : List Byte) : Option GateMember :=
    if s.rangeIn r scope g { glob := false, addr := a, len := bs.length, write := true } then some (.store due a bs.length) else none
  c.port2.filterMap (fun p => image c.clock p.2.1 p.2.2)
  ++ c.line.filterMap (fun p => match p.eff with
    | .store a bs => image p.due a bs
    | _ => none)
  ++ (c.stva.filter fun w => g.meetsWrite w && localInScope scope r.core r.core w.addr).map fun w => GateMember.write w.id
/-- Class G: the remote and timed writes not yet performed at their targets. -/
def State.snapG (s : State) (r : CtxRef) (scope : Nat) (g : Gate) : List GateMember :=
  let all := (s.ctx r).rwq ++ s.cores.flatMap fun k => k.2.incoming.filter (·.src == r)
  (all.filter fun w => g.meetsWrite w
    && (if w.module == s.mod.number then localInScope scope r.core w.core w.addr else 4 ≤ scope)).map
    fun w => GateMember.write w.id
/-- The commands of class K, or of class E, not completed. -/
def State.snapCmds (s : State) (r : CtxRef) (scope : Nat) (g : Gate) (isE : Bool) : List GateMember :=
  ((s.ctxCmds r).filter fun k => k.isE == isE && k.ranges.any (s.rangeIn r scope g)).map fun k => GateMember.cmd k.id
/-- The runs of the closed windows of scatter-accumulate entries. -/
def State.snapWindows (s : State) (r : CtxRef) (scope : Nat) (g : Gate) : List GateMember :=
  (((s.ctx r).saeClosed.flatMap SaeWindow.runs).filter fun e =>
    s.rangeIn r scope g { glob := false, addr := e.1.addr, len := szBytes e.1.sz, write := true }).map
    fun e => GateMember.run e.1.id

/-- The gate of a FENCE of a context, not yet numbered. -/
def State.fenceGate (s : State) (r : CtxRef) (g : Guard) (f : FmtA) : Gate :=
  let c := s.ctx r
  let e : Gate :=
    { id := s.nextId, word := s.wordOf (.fence g f), base := (c.x f.opa.toNat).toNat, len := (c.x f.opb.toNat).toNat
      glob := fenceGlob f, succ := fenceSucc f, members := [] }
  let scope := fenceScope f
  { e with members :=
      (if fencePred f succL then s.snapL r scope e else []) ++ (if fencePred f succG then s.snapG r scope e else [])
        ++ (if fencePred f succK then s.snapCmds r scope e false else [])
        ++ (if fencePred f succE then s.snapCmds r scope e true ++ s.snapWindows r scope e else []) }

/-! ### FENCE -/

/-- A fifth closed gate waits for the oldest to open (R304, R305). -/
def checkFence (g : Guard) (f : FmtA) (s : State) : Verdict :=
  let gs := s.closedGates s.cur
  if (s.fenceGate s.cur g f).members.isEmpty || gs.length < 4 then .ok else s.gateVerdict s.cur (gs.take 1)
/-- The gate opens at once when its snapshot is empty. -/
def doFence (g : Guard) (f : FmtA) (s : State) : State :=
  let e := s.fenceGate s.cur g f
  if e.members.isEmpty then s
  else { s with nextId := s.nextId + 1 }.setMe fun c => { c with gates := c.gates ++ [e] }
def execFence (g : Guard) (f : FmtA) (s : State) : Result := issue (.fence g f) g s (checkFence g f s) (doFence g f)

/-- A gate whose snapshot is complete. -/
def State.gateOpens (s : State) (r : CtxRef) (id : Nat) : Bool :=
  (s.ctx r).gates.any fun g => g.id == id && !s.gateClosed r g
/-- A gate is gone; the collectives that it held take the source that it has left them (R335). -/
def State.dropGate (s : State) (c : CtxRef) (id : Nat) : State :=
  let s := s.modCtx c fun x => { x with gates := x.gates.filter (·.id != id) }
  { s with cmds := s.cmds.map fun k => if k.ctx == some c then s.payOwed k else k }
/-- GATE OPEN. -/
def execGateOpen (c : CtxRef) (id : Nat) (s : State) : Result := whenever (s.gateOpens c id) s (·.dropGate c id)

/-! ### TEND (R118) -/

/-- The gates that hold remote writes of a context. -/
def State.queueGates (s : State) (r : CtxRef) : List Gate := (s.ctx r).rwq.flatMap (s.writeGates r)
/-- Copies of a context that are not globally visible: commands, remote and timed writes, and late notices. -/
def State.copiesLeft (s : State) (r : CtxRef) : Bool :=
  let c := s.ctx r
  !(s.ctxCmds r).isEmpty || !c.rwq.isEmpty || !c.stva.isEmpty
    || s.cores.any (fun k => k.2.incoming.any (·.src == r))
    || s.msgs.any fun m => match m.msg with
      | .late d _ => d == r
      | _ => false
def checkTend (s : State) : Verdict :=
  (cpyfOf (s.ctxCmds s.cur)).andThen <|
  if s.copiesLeft s.cur then
    (s.heldCpyf s.cur (s.ctxCmds s.cur)).andThen <| (s.gatesCpyf s.cur (s.queueGates s.cur)).andThen (.block true)
  else .ok
/-- The context issues nothing further and gives up the stage; its last scatter-accumulate window closes. The stores in
flight that closed gates wait for are performed, since no context cycle of theirs is to come. Log 69, DEDUCED. -/
def doTend (s : State) : State :=
  let s := (s.closeSae s.cur).setMe fun c => { c with ending := true }
  (s.storeMembers s.cur (s.closedGates s.cur)).passStage s.cur.core
def execTend (g : Guard) (f : FmtJ) (s : State) : Result := issue (.tend g f) g s (checkTend s) doTend

end Sys2Proof.Machine
end

