-- ==== Sys2Proof/Machine/Records.lean ====
section
/-! DEFINITION. Context records (R378 to R385): the layout written, CONTEXT RECORD WRITE, RESTORE, and the three
returns of TRET (R377). -/
namespace Sys2Proof.Machine

def zeros (n : Nat) : List Byte := List.replicate n 0
/-- A list of bytes made up to n with zeros. -/
def padTo (n : Nat) (bs : List Byte) : List Byte := bs.take n ++ zeros (n - bs.length)
def word8 (w : Word) : List Byte := natBytes 8 w.toNat
/-- Eight bytes each for registers 0 to n − 1. -/
def words8 (n : Nat) (f : Nat → Word) : List Byte := (List.range n).flatMap fun i => word8 (f i)
/-- The next multiple of 32. -/
def round32 (n : Nat) : Nat := (n + 31) / 32 * 32

/-! ### Pending results (R370, R383) -/

/-- TGT: file and number. -/
def tgt (file n : Nat) : Nat := file * 4096 + n
/-- One entry: target, remaining cycles, write enable, payload. -/
def pendEntry (target rem wen : Nat) (payload : List Byte) : List Byte :=
  padTo (32 + round32 payload.length)
    (natBytes 2 target ++ zeros 2 ++ natBytes 4 rem ++ natBytes 4 payload.length ++ zeros 4 ++ natBytes 16 wen ++ payload)
/-- The image of a tile given by its cells. -/
def cellsImage (cells : Sparse Quire) : List Byte := Core.tileImage { Core.reset with tiles := cells } 0
/-- Payload bytes of the files whose registers an enable covers bit by bit, or byte by byte for a quire image. -/
def fileBytes (file : Nat) : Nat := [8, 8, 1, 128, 16, 128, 8, 8].getD file 0
/-- All ones over a width. -/
def ones (n : Nat) : Nat := 2 ^ n - 1
/-- The write enable of an entry that writes the bits given: of a quire image one bit for each byte. -/
def packEnable (file : Nat) (we : BitVec 1024) : Nat :=
  if file == 5 then (List.range 128).foldl (fun m i => if we.getLsbD (8 * i) then m + 2 ^ i else m) 0 else we.toNat % 2 ^ 128
/-- The bits that a write enable names. -/
def spreadEnable (file wen : Nat) : BitVec 1024 :=
  BitVec.ofNat 1024 (if file == 5 then
    (List.range 128).foldl (fun m i => if wen.testBit i then m + 255 * 2 ^ (8 * i) else m) 0
  else wen % 2 ^ (8 * fileBytes file))
/-- The entry of an effect; none for an array instruction or for a result that the layout has no file for. -/
def Effect.entry (rem : Nat) : Effect → Option (List Byte)
  | .x n w => some (pendEntry (tgt 0 n) rem (ones 64) (word8 w))
  | .a n w => some (pendEntry (tgt 1 n) rem (ones 64) (word8 w))
  | .p n set => some (pendEntry (tgt 2 n) rem 1 (natBytes 1 set.toNat))
  | .v n val we => some (pendEntry (tgt 3 n) rem we.toNat (natBytes 128 val.toNat))
  | .m n w => some (pendEntry (tgt 4 n) rem (ones 128) (natBytes 16 w.toNat))
  | .q n w => some (pendEntry (tgt 5 n) rem (ones 128) w.image)
  | .b n w => some (pendEntry (tgt 6 n) rem (ones 64) (word8 w))
  | .sys n w => some (pendEntry (tgt 7 n) rem (ones 64) (word8 w))
  | .tile n rows cells => some (pendEntry (tgt 8 n) rem rows.toNat (cellsImage cells))
  | .part file n val we => some (pendEntry (tgt file n) rem (packEnable file we) (natBytes (fileBytes file) val.toNat))
  | _ => none
/-- The entries of one pending result: its target, then the flags that it sets, enabled as a whole. Log 64, DEDUCED. -/
def Pending.entries (ccyc : Nat) (p : Pending) : List (List Byte) :=
  let rem := p.due - ccyc
  (p.eff.entry rem).toList
    ++ (if p.flags == Flags.none || p.eff.isArray then [] else [pendEntry (tgt 9 0) rem (ones 64) (natBytes 8 p.flags.toNat)])
/-- The entry of an array instruction in flight (R384). -/
def Pending.arrayEntry (ccyc : Nat) (p : Pending) : Option (List Byte) :=
  match p.eff with
  | .array w a b =>
    some (natBytes 8 w.toNat ++ natBytes 4 (p.due - ccyc) ++ zeros 20 ++ natBytes 1600 a.toNat ++ natBytes 1600 b.toNat)
  | _ => none

/-- Results that no file of R383 names: QSAVE and MSAVE stores and slot images of MLDA. They stay in flight beside the
record (log 18, DESIGN CHOICE). -/
def Effect.unfiled : Effect → Bool
  | .store _ _ => true
  | .slot _ _ => true
  | _ => false
/-- The releases of a context that wait for a result (R190): of tiles, then of slots. -/
def Core.pendingReleases (k : Core) (ctx : Nat) : List (Bool × Nat × Nat) :=
  let of (tile : Bool) (limit : Nat) : List (Bool × Nat × Nat) := (List.range limit).filterMap fun n =>
    let o := k.ownerOf tile n
    if o.owner == some ctx then o.release.map fun t => (tile, n, t) else none
  of true 8 ++ of false 64
/-- What of a context's timeline stays beside its record. Log 18, DESIGN CHOICE. -/
def State.keptOf (s : State) (r : CtxRef) (kind : Nat) : Kept :=
  let c := s.ctx r
  { bAt := c.bAt, div0 := c.div0, div1 := c.div1, arrNext := c.arrNext
    pad := if kind != 1 || c.epc == c.pc then c.pad else none
    releases := (s.core r.core).pendingReleases r.ctx, line := c.line.filter fun p => p.eff.unfiled
    port2 := c.port2, saeIds := c.saeOpen.map (·.id), relief := ((s.core r.core).reliefCap.filter (·.1 == r.ctx)).map (·.2) }
/-- The timeline of a record that nothing stands beside. -/
def Kept.none : Kept :=
  { bAt := [], div0 := .none, div1 := .none, arrNext := 0, pad := .none, releases := [], line := [], port2 := [], saeIds := [], relief := [] }

/-! ### Commands and gates (R264, R329, R344, R381) -/

/-- Indices of a KCPN's nest at its progress. -/
def Cmd.indices (k : Cmd) : List Nat :=
  match k.instr with
  | some (.kcpn _ f) =>
    let run := k.done / k.cnt
    (k.done % k.cnt) :: ((List.range 5).map fun i =>
      let d := i + 1
      if d < nestDims f then
        run / ((List.range i).foldl (fun n j => n * k.dimCount (j + 1)) 1) % k.dimCount d
      else 0)
  | _ => List.replicate 6 0
/-- DEC of a block that stands encoded and a byte offset in it: sector and bit position of the line's payload, line, slot,
generation, and decoding active (R257, R264). -/
def decFields (stored : List Byte) (off : Nat) : Nat :=
  let line := off / 64
  let at_ := (List.range line).foldl (fun n l => n + modeLen (byteAt stored (32 + l / 4) / 4 ^ (l % 4) % 4)) 48
  at_ / 256 + 2 ^ 4 * (8 * (at_ % 256)) + 2 ^ 16 * line + 2 ^ 22 * (byteAt stored 1 % 4) + 2 ^ 24 * fieldAt stored 2 2 + 2 ^ 40
/-- DEC of a command (R264): of the encoded source block inside which it has come to a halt, else 0. A command that continues
reads that block again (R249), so that nothing is taken from the field. -/
def State.decOf (s : State) (k : Cmd) : Nat :=
  let k := { k with tbuf := k.heldAtStop }
  match k.instr.bind k.run with
  | none => 0
  | some u =>
    let a := u.source k
    if k.isNmc || u.pos == 0 || u.left == 0 || (if u.down then a + 1 else a) % 4096 == 0 then 0
    else match s.place .chan k u.sl a 1 false with
      | .at_ l _ s => if isEncoded (s.reliefAt l) then decFields (s.readAt l.block 4096) (l.off % 4096) else 0
      | _ => 0
/-- The 512 bytes of a command with its DEC. -/
def Cmd.entry (dec : Nat) (k : Cmd) : List Byte :=
  let held := if k.isNmc then zeros 32 else padTo 32 k.record
  let buf := if k.isNmc then padTo 256 k.record else padTo 256 k.heldAtStop
  natBytes 8 k.word.toNat ++ natBytes 8 k.tgt ++ natBytes 8 k.frm ++ natBytes 8 k.cnt ++ held ++ natBytes 8 k.done
    ++ natBytes 8 dec ++ k.indices.flatMap (natBytes 4) ++ zeros 24 ++ buf ++ padTo 80 (k.nest.flatMap word8) ++ zeros 48
/-- The 32 bytes of a closed gate, given the commands of section 5. -/
def Gate.entry (cmds : List Cmd) (g : Gate) : List Byte :=
  let member (k : Cmd) : Bool := g.members.contains (.cmd k.id)
  let pcmd := (List.range cmds.length).foldl (fun n i => if (cmds[i]?).any member then n + 2 ^ i else n) 0
  natBytes 8 g.word.toNat ++ natBytes 8 g.base ++ natBytes 8 g.len ++ natBytes 4 pcmd ++ zeros 4

/-! ### The record (R381, R382) -/

/-- SYS, in its order. -/
def sysOrder : List Nat :=
  [0x00A, 0x00B, 0x010, 0x116, 0x113, 0x11A, 0x020, 0x119, 0x114, 0x112, 0x108, 0x109, 0x10A, 0x10B, 0x10C, 0x10D, 0x10E,
    0x10F, 0x110, 0x111, 0x117, 0x118]
def SaeEntry.image (e : SaeEntry) : List Byte :=
  natBytes 4 e.addr ++ natBytes 1 e.sz.toNat ++ natBytes 1 e.op.toNat ++ natBytes 1 e.kind.toNat ++ zeros 1 ++ word8 e.val
def bitmap (n : Nat) (f : Nat → Bool) : Nat := (List.range n).foldl (fun m i => if f i then m + 2 ^ i else m) 0
def Bank.image (b : Bank) : List Byte × List Byte × List Byte × List Byte :=
  (words8 64 fun i => if i == 0 then 0 else Sparse.get 0 b.x i, words8 32 fun i => Sparse.get 0 b.a i,
    natBytes 2 (b.p ||| 1).toNat, words8 4 fun i => Sparse.get 0 b.b i)

/-- The record of a context with the kind given. -/
def State.recordOf (s : State) (r : CtxRef) (kind : Nat) : List Byte :=
  let c := s.ctx r
  let k := s.core r.core
  let cmds := s.ctxCmds r
  let gates := s.closedGates r
  let tiles := (List.range 8).filter fun t => (k.tileOwner t).owner == some r.ctx
  let slots := (List.range 64).filter fun t => (k.slotOwner t).owner == some r.ctx
  let pend := c.line.flatMap (·.entries c.ccyc)
  let arrs := c.line.filterMap (·.arrayEntry c.ccyc)
  let var := pend.flatten ++ arrs.flatten ++ tiles.flatMap k.tileImage
    ++ slots.flatMap (fun t => natBytes 1600 (k.slotImg t).toNat) ++ cmds.flatMap (fun k => k.entry (s.decOf k)) ++ gates.flatMap (Gate.entry cmds)
  let pc := if kind == 1 then c.epc else c.pc
  let b := c.bank.image
  let sb := c.sbank.image
  natBytes 4 1 ++ natBytes 4 (12800 + var.length) ++ natBytes 1 r.ctx ++ natBytes 1 kind ++ zeros 2
    ++ natBytes 4 ((s.corexy r.core).toNat % 2 ^ 29) ++ word8 pc ++ natBytes 8 c.ccyc ++ natBytes 8 c.pmcnt ++ word8 c.epc
    ++ word8 c.tcause ++ word8 c.taddr ++ natBytes 1 (bitmap 8 tiles.contains) ++ zeros 7
    ++ natBytes 8 (bitmap 64 slots.contains) ++ natBytes 2 (bitmap 16 fun g => (k.region g).owner == some r.ctx)
    ++ natBytes 2 c.saeOpen.length ++ natBytes 4 pend.length ++ natBytes 4 arrs.length ++ natBytes 4 cmds.length
    ++ natBytes 4 gates.length ++ zeros 28
    ++ b.1 ++ b.2.1 ++ b.2.2.1 ++ zeros 6 ++ b.2.2.2 ++ zeros 24
    ++ padTo 256 (sysOrder.flatMap fun n => word8 (s.sysRead r n))
    ++ sb.1 ++ sb.2.1 ++ sb.2.2.1 ++ zeros 6 ++ sb.2.2.2 ++ zeros 24
    ++ (words8 4 fun i => Sparse.get 0 c.shadow (60 + i)) ++ zeros 96
    ++ padTo 152 c.seq.desc ++ (List.range 6).flatMap (fun i => natBytes 4 (c.seq.index i)) ++ word8 c.seq.base
    ++ natBytes 1 (c.seq.n - 1) ++ natBytes 1 c.seq.g ++ natBytes 1 c.seq.active.toNat ++ zeros 69
    ++ (List.range 64).flatMap (fun i => natBytes 128 (c.vr i).toNat)
    ++ (List.range 8).flatMap (fun i => natBytes 16 (c.mr i).toNat)
    ++ (List.range 8).flatMap (fun i => (c.qr i).image)
    ++ padTo 1024 (c.saeOpen.flatMap SaeEntry.image) ++ var

/-! ### CONTEXT RECORD WRITE (R358, R378, R379, R390) -/

def isMember : GateMember → Bool
  | .cmd _ => false
  | _ => true
/-- A formed collective of which the context's task is a party is in progress, its own command done or not (R343); one that
has not formed does not hold up a checkpoint (R334). -/
def State.inCollective (s : State) (r : CtxRef) : Bool :=
  s.colls.any fun c => c.formed && c.parties.any fun p => s.partyOfTask r p && !p.killed
/-- The parties of a context leave the collectives that have not formed: their wait ends, and a restore joins them anew
(R334). -/
def State.leaveUnformed (s : State) (r : CtxRef) : State :=
  let mine := (s.ctxCmds r).map Cmd.id
  let left := s.colls.map fun c =>
    if c.formed || c.cancel then c else { c with parties := c.parties.filter fun p => !mine.contains p.cmd }
  { s with colls := left.filter fun c => c.formed || c.cancel || !c.parties.isEmpty }
/-- Every condition of R358 and R379 is met. -/
def State.saveReady (s : State) (r : CtxRef) : Bool :=
  let c := s.ctx r
  c.saving.isSome && c.fresh.isEmpty && c.saeClosed.isEmpty && c.stva.isEmpty && c.rwq.isEmpty && !c.tinvc.getLsbD 7
    && !(s.cores.any fun k => k.2.incoming.any (·.src == r))
    && !(s.msgs.any fun m => match m.msg with
      | .late d _ => d == r
      | .release _ _ _ cmd => (cmd.bind s.findCmd).any fun k => k.ctx == some r
      | .complete cmd => (s.findCmd cmd).any fun k => k.ctx == some r
      | _ => false)
    && !(s.closedGates r).any (fun g => g.members.any fun m => isMember m && !(m matches .store _ _ _) && s.memberPending r m)
    && !s.inCollective r && (s.ctxCmds r).all (·.out.isEmpty) && !(s.ports.any fun p => p.2.writes.any fun w => (w.cmd.bind s.findCmd).any fun k => k.ctx == some r)

/-- The I/O die whose scheduler serves a context: the home I/O die of its compute die (R20). -/
def State.schedOf (_ : State) (r : CtxRef) : Nat := homeIod (dieOf r.core)
/-- The context leaves its core: work saved in the record, then every resource handed on. -/
def State.vacate (s : State) (r : CtxRef) : State := ((s.leaveUnformed r).discardWork r).freeContext r

/-- The stores in flight that closed gates wait for are performed first (R304, R379; log 69, DEDUCED). The record is written into the lowest free slot of the tenant's pool and the task leaves its core; a suspension asked
for while a checkpoint is taken is performed by its record. With no slot, a checkpoint is given up, a suspension by
request is refused, and a suspension at a trap kills the task. Log 35, DESIGN CHOICE. Log 36, DEDUCED. -/
def State.writeRecord (s : State) (r : CtxRef) (t : Task) (kind : Nat) : State :=
  let s := s.storeMembers r (s.closedGates r)
  let c := s.ctx r
  let bs := s.recordOf r kind
  let iod := s.schedOf r
  let size := s.poolSlotBytes t.tenant
  match s.poolFree t.tenant bs.length with
  | some slot =>
    let addr := s.poolBase t.tenant + slot * size
    let saved : Saved :=
      { addr := addr, core := r.core, ctx := r.ctx, task := t, pool := (t.tenant, slot), binds := c.binds
        cmds := s.ctxCmds r, gates := (s.closedGates r).map Gate.id, lates := c.lates
        kept := s.keptOf r kind }
    let s := s.deviceStore addr bs none
    let s := { s with
      saved := s.saved.filter (fun (x : Saved) => x.addr != addr) ++ [saved]
      mod := { s.mod with poolUsed := s.mod.poolUsed ++ [(t.tenant, slot)] } }
    let s := s.vacate r
    if kind == 0 && !c.req.suspend then
      let (id, s) := s.fresh
      { s with restores := s.restores ++ [{ id := id, addr := addr, tenant := t.tenant, port := false, begun := false }] }
    else s.suspensionEvent iod 0 (kind == 2 || c.req.suspend) [addr, c.epc.toNat, c.tcause.toNat, c.taddr.toNat]
  | none =>
    if kind == 1 then s.killTask r .trapped 1 [c.epc.toNat, c.tcause.toNat, c.taddr.toNat]
    else
      let s := s.setCtx r { c with saving := none, req := { c.req with ckpt := false, suspend := false, preempt := none } }
      if kind == 2 || c.req.suspend then s.suspensionEvent iod 2 true [s.nodeAddr t.node] else s
/-- CONTEXT RECORD WRITE. Until it may be written, the stores in flight that closed gates wait for are performed: what these
gates hold must go before (R379). Log 69, DEDUCED. -/
def execContextRecordWrite (c : CtxRef) (s : State) : Result :=
  match (s.ctx c).task, (s.ctx c).saving with
  | some t, some kind => .next (if s.saveReady c then s.writeRecord c t kind else s.storeMembers c (s.closedGates c))
  | _, _ => .next s

/-! ### The returns of TRET (R377) -/

/-- A write of TRET has landed and every result of the handler with it. -/
def State.tretReady (s : State) (r : CtxRef) : Option Word :=
  let c := s.ctx r
  if c.mode = .supervisor && c.sline.isEmpty && !c.portWaits .supervisor then c.tret else none
def execTretKill (c : CtxRef) (s : State) : Result :=
  let x := s.ctx c
  whenever ((s.tretReady c).any (·.getLsbD 2)) s fun s =>
    (s.killTask c .trapped 0 [x.epc.toNat, x.tcause.toNat, x.taddr.toNat]).passStage c.core
def execTretSuspend (c : CtxRef) (s : State) : Result :=
  whenever ((s.tretReady c).any fun v => !v.getLsbD 2 && v.getLsbD 1) s fun s =>
    (s.modCtx c fun x => { x with mode := .program, tret := none, blocked := none, entered := false, bubbles := 0, saving := some 1 }).passStage
      c.core
def execTretResume (c : CtxRef) (s : State) : Result :=
  whenever ((s.tretReady c).any fun v => !v.getLsbD 2 && !v.getLsbD 1 && v.getLsbD 0) s fun s => s.modCtx c Ctx.resume

/-! ### Reading a record (R383 to R385) -/

/-- Registers of a file of R370 and R383; the numbers above are reserved bits of TGT. -/
def fileRegs (file : Nat) : Nat := [64, 32, 16, 64, 8, 8, 4, 4096, 8, 1].getD file 0
/-- The effect of an entry of a file whose enable is all ones, or the part that it names (R383). -/
def partOf (file n wen : Nat) (pay : List Byte) : Effect :=
  let we := spreadEnable file wen
  let val := BitVec.ofNat 1024 (leNat pay)
  if we == BitVec.ofNat 1024 (ones (8 * fileBytes file)) || (file == 2 && we.getLsbD 0) then partEffect file n val
  else .part file n val we
/-- The reserved bits of a quire image are zero, as those of every field of a record (R9, R162, R385). -/
def quireImageOk (bs : List Byte) : Bool := byteAt bs 64 < 2 && zeroAt bs 65 63
/-- The effect and flags of a pending-result entry; none where the layout forbids it. -/
def effectOf (target wen : Nat) (pay : List Byte) : Option (Effect × Flags) :=
  let n := target % 4096
  let file := target / 4096
  if fileRegs file ≤ n then none
  else if file == 8 then
    if pay.length == 16512 then some (.tile n (BitVec.ofNat 16 wen) (cellsOfImage pay), Flags.none) else none
  else if file == 9 then
    if pay.length == 8 && leNat pay < 2 ^ 9 then some (.nothing, BitVec.ofNat 9 (leNat pay)) else none
  else if pay.length != fileBytes file || (file == 5 && !quireImageOk pay) then none
  else if file == 3 then some (.v n (BitVec.ofNat 1024 (leNat pay)) (BitVec.ofNat 128 wen), Flags.none)
  else some (partOf file n wen pay, Flags.none)
/-- The pending entries at an offset, with the offset after them. -/
def readPends (bs : List Byte) (ccyc : Nat) : Nat → Nat → Option (List Pending × Nat)
  | 0, o => some ([], o)
  | n + 1, o =>
    let plen := fieldAt bs (o + 8) 4
    let rem := fieldAt bs (o + 4) 4
    let next := o + 32 + round32 plen
    if rem == 0 || bs.length < next || !zeroAt bs (o + 2) 2 || !zeroAt bs (o + 12) 4
        || !zeroAt bs (o + 32 + plen) (round32 plen - plen) then none
    else match effectOf (fieldAt bs o 2) (fieldAt bs (o + 16) 16) ((bs.drop (o + 32)).take plen) with
      | none => none
      | some (e, f) =>
        match readPends bs ccyc n next with
        | some (ps, o) => some ({ due := ccyc + rem, eff := e, flags := f } :: ps, o)
        | none => none
/-- The array entries at an offset. -/
def readArrays (bs : List Byte) (ccyc : Nat) : Nat → Nat → Option (List Pending × Nat)
  | 0, o => some ([], o)
  | n + 1, o =>
    let rem := fieldAt bs (o + 8) 4
    if rem == 0 || bs.length < o + 3232 || !zeroAt bs (o + 12) 20 then none
    else
      let e : Effect := .array (BitVec.ofNat 64 (fieldAt bs o 8)) (BitVec.ofNat 12800 (fieldAt bs (o + 32) 1600))
        (BitVec.ofNat 12800 (fieldAt bs (o + 1632) 1600))
      match readArrays bs ccyc n (o + 3232) with
      | some (ps, o) => some ({ due := ccyc + rem, eff := e, flags := Flags.none } :: ps, o)
      | none => none

/-- Numbers of the bits set in a field. -/
def bitsSet (n v : Nat) : List Nat := (List.range n).filter v.testBit
def recTiles (bs : List Byte) : List Nat := bitsSet 8 (byteAt bs 64)
def recSlots (bs : List Byte) : List Nat := bitsSet 64 (fieldAt bs 72 8)
def recRegions (bs : List Byte) : BitVec 16 := BitVec.ofNat 16 (fieldAt bs 80 2)
def recSys (bs : List Byte) (n : Nat) : Word := wordAt bs (960 + 8 * (sysOrder.findIdx (· == n)))
/-- Gaps of the fixed part that no field names. -/
def recGaps : List (Nat × Nat) :=
  [(10, 2), (65, 7), (100, 28), (898, 6), (936, 24), (1136, 80), (1986, 6), (2024, 24), (2080, 96), (2363, 69)]

/-- A word decodes to an instruction with a property. -/
def wordIs (p : Instr → Bool) (w : BitVec 64) : Bool :=
  match decodeWord w with
  | .ok i => p i
  | _ => false
def isKnmc : Instr → Bool
  | .knmc _ _ => true
  | _ => false
def isKcol : Instr → Bool
  | .kcol _ _ => true
  | _ => false
/-- A command of a record with what its layout has no field for taken from the save. A restore continues it, a stopped one
too (R264, R366, R380). -/
def cmdOfEntry (r : CtxRef) (tenant lambda : Nat) (side : Option Cmd) (bs : List Byte) (id : Nat) : Cmd :=
  let word := BitVec.ofNat 64 (fieldAt bs 0 8)
  let nmc := wordIs isKnmc word
  let coll := wordIs isKcol word
  let chan := (word.extractLsb' 45 2).toNat
  let done := fieldAt bs 64 8
  let was := (side.map Cmd.state).getD .queued
  let state : CmdState :=
    match was with
    | .finished => .finished
    | _ => .queued
  { id := id, ctx := some r, node := 0, tenant := tenant, chan := chan, word := word, tgt := fieldAt bs 8 8
    frm := fieldAt bs 16 8, cnt := fieldAt bs 24 8, lrec := (side.map Cmd.lrec).getD 0
    record := if nmc then (bs.drop 128).take 128 else if coll then padTo 128 ((bs.drop 32).take 32) else (bs.drop 32).take 32
    nest := (List.range 10).map fun i => wordAt bs (384 + 8 * i)
    state := state, done := done
    acquired := (side.map Cmd.acquired).getD false, accepted := false, released := (side.map Cmd.released).getD false
    tbuf := if !wordIs isGrammar word || (zeroAt bs 128 256 && done == 0 && !(side.any fun k => !k.tbuf.isEmpty)) then []
      else (bs.drop 128).take 256
    source := (side.map Cmd.source).getD [], owed := (side.map Cmd.owed).getD [], prior := (side.map Cmd.prior).getD [], held := [], out := []
    flags := (side.map Cmd.flags).getD Flags.none, lambda := lambda, aux := (side.map Cmd.aux).getD 0, since := 0 }
def isNested : Instr → Bool
  | .kcpn _ _ => true
  | _ => false
/-- A command entry passes the refusal checks of its command, a walker record in progress among them (R366), and its reserved
bytes are zero (R329, R385). -/
def State.cmdEntryOk (s : State) (k : Cmd) (bs : List Byte) : Bool :=
  zeroAt bs 104 24 && zeroAt bs 464 48 && ((k.instr.any isNested) || zeroAt bs 384 80) && bits (wordAt bs 72) 41 23 == 0 && !(wordAt bs 72).getLsbD 15
    && (match k.instr with
      | some (.knmc _ _) => zeroAt bs 32 32 && !s.nmcRefused k
      | some (.gstep _ _) | some (.gmask _ _) => !gramRefused k && walkOk k.record ((bs.drop 128).take 256)
      | some (.kcol _ f) =>
        collBlockOk k.record && collRangesOk k f && k.ctx.all fun r => (s.collPlaces r k.ranges).isSome
      | some (.ktsk _ _) => 1 ≤ k.cnt && k.cnt ≤ 64
      | some (.ktab _ _) | some (.kcan _ _) => true
      | some i => isCopy i && !s.copyRefused k i
      | none => false)

/-- The offsets of a record's sections and its results in flight; none where its counts and lengths disagree. -/
structure Parsed where
  pend : List Pending
  tiles : Nat
  slots : Nat
  cmds : Nat
  gates : Nat
deriving DecidableEq, Repr

def parseRecord (bs : List Byte) : Option Parsed :=
  let ccyc := fieldAt bs 24 8
  match readPends bs ccyc (fieldAt bs 84 4) 12800 with
  | none => none
  | some (ps, o) =>
    match readArrays bs ccyc (fieldAt bs 88 4) o with
    | none => none
    | some (qs, t) =>
      let sl := t + 16512 * (recTiles bs).length
      let cm := sl + 1600 * (recSlots bs).length
      let gt := cm + 512 * fieldAt bs 92 4
      if gt + 32 * fieldAt bs 96 4 == bs.length then some { pend := ps ++ qs, tiles := t, slots := sl, cmds := cm, gates := gt }
      else none
def Parsed.cmdBytes (p : Parsed) (bs : List Byte) (i : Nat) : List Byte := (bs.drop (p.cmds + 512 * i)).take 512
def Parsed.gateBytes (p : Parsed) (bs : List Byte) (i : Nat) : List Byte := (bs.drop (p.gates + 32 * i)).take 32

/-- A gate entry that R385 accepts. -/
def gateEntryOk (ncmd : Nat) (g : List Byte) : Bool :=
  fieldAt g 24 4 < 2 ^ ncmd && zeroAt g 28 4 && (match decodeWord (wordAt g 0) with
    | .ok (.fence _ _) => true
    | _ => false)
/-- Entry i of the scatter-accumulate window: the bits above its three-bit fields, and byte 7 (R381). -/
def recSaeOk (bs : List Byte) (i : Nat) : Bool :=
  let o := 11776 + 16 * i
  byteAt bs (o + 4) < 8 && byteAt bs (o + 5) < 8 && byteAt bs (o + 6) < 8 && byteAt bs (o + 7) == 0
/-- The head of a record and its reserved fields (R381, R385). -/
def recFixedOk (bs : List Byte) : Bool :=
  fieldAt bs 0 4 == 1 && byteAt bs 8 < 4 && byteAt bs 9 ≤ 2 && recGaps.all (fun g => zeroAt bs g.1 g.2)
    && fieldAt bs 82 2 ≤ 63 && byteAt bs 2362 < 2 && !lseqReserved ((bs.drop 2176).take 152)
    && (List.range 8).all (fun i => quireImageOk ((bs.drop (10752 + 128 * i)).take 128))
    && (List.range (fieldAt bs 82 2)).all (recSaeOk bs) && zeroAt bs (11776 + 16 * fieldAt bs 82 2) (1024 - 16 * fieldAt bs 82 2)
/-- Reserved bits of the system registers (R124, R369, R382). -/
def recSysOk (bs : List Byte) : Bool :=
  wordAt bs 48 &&& ~~~tcauseMask == 0 && bits (recSys bs 0x020) 12 3 == 0 && bits (recSys bs 0x020) 16 48 == 0
    && bits (recSys bs 0x114) 32 32 == 0 && bits (recSys bs 0x110) 8 8 == 0 && bits (recSys bs 0x110) 35 29 == 0
    && [0x10C, 0x10D, 0x10E, 0x10F].all (fun n => !(recSys bs n).getLsbD 62)
    && bits (recSys bs 0x00A) 32 32 == 0 && bits (recSys bs 0x00B) 1 63 == 0 && bits (recSys bs 0x010) 9 55 == 0
    && recSys bs 0x116 &&& ~~~mdlinfoMask == 0 && bits (recSys bs 0x113) 0 3 == 0 && bits (recSys bs 0x119) 32 32 == 0
    && bits (recSys bs 0x112) 20 4 == 0 && bits (recSys bs 0x112) 32 32 == 0
    && [0x108, 0x109, 0x10A, 0x10B].all (fun n => cwinOk (recSys bs n))
    && [0x10C, 0x10D, 0x10E, 0x10F].all (fun n => rwinOk (recSys bs n)) && bits (recSys bs 0x118) 13 51 == 0
    && !(recSys bs 0x118).getLsbD 6 && !(recSys bs 0x118).getLsbD 7

/-- A saved command's number, so that its order among gates and other commands stands. -/
def Saved.cmdId (v : Saved) (fresh i : Nat) : Nat := ((v.cmds[i]?).map Cmd.id).getD (fresh + i)
/-- The commands of a record. -/
def Saved.cmdsOf (v : Saved) (p : Parsed) (bs : List Byte) (fresh : Nat) : List Cmd :=
  (List.range (fieldAt bs 92 4)).map fun i =>
    cmdOfEntry ⟨v.core, v.ctx⟩ v.task.tenant (recSys bs 0x114).toNat v.cmds[i]? (p.cmdBytes bs i)
      (v.cmdId fresh i)
/-! ### RESTORE (R380) -/

/-- A register file of n words from an offset. -/
def fileAt (bs : List Byte) (o n : Nat) : Sparse Word := (List.range n).foldl (fun m i => Sparse.set 0 m i (wordAt bs (o + 8 * i))) []
def bankAt (bs : List Byte) (x a p b : Nat) : Bank :=
  { x := Sparse.erase (fileAt bs x 64) 0, a := fileAt bs a 32, p := BitVec.ofNat 16 (fieldAt bs p 2) ||| 1, b := fileAt bs b 4 }
def saeAt (bs : List Byte) (i id : Nat) : SaeEntry :=
  let o := 11776 + 16 * i
  { id := id, addr := fieldAt bs o 4, sz := BitVec.ofNat 3 (byteAt bs (o + 4)), op := BitVec.ofNat 3 (byteAt bs (o + 5))
    kind := BitVec.ofNat 3 (byteAt bs (o + 6)), val := wordAt bs (o + 8) }
/-- A gate of a record. -/
def gateAt (cmds : List Cmd) (id : Nat) (g : List Byte) : Gate :=
  let (glob, succ) := match decodeWord (wordAt g 0) with
    | .ok (.fence _ f) => ((fenceBits f).getLsbD 11, (fenceBits f).extractLsb' 3 4)
    | _ => (false, 0)
  { id := id, word := wordAt g 0, base := fieldAt g 8 8, len := fieldAt g 16 8, glob := glob, succ := succ
    members := (bitsSet 32 (fieldAt g 24 4)).filterMap fun i => (cmds[i]?).map fun k => GateMember.cmd k.id }

/-- The context of a record, not yet started. Log 34, DEDUCED. -/
def Saved.context (v : Saved) (res : Nat) (p : Parsed) (cmds : List Cmd) (ids : List Nat) (bs : List Byte) : Ctx :=
  let sys := recSys bs
  { Ctx.reset with
    task := some { v.task with res := res }, starting := true
    bank := bankAt bs 128 640 896 904, sbank := bankAt bs 1216 1728 1984 1992
    shadow := (List.range 4).foldl (fun m i => Sparse.set 0 m (60 + i) (wordAt bs (2048 + 8 * i))) []
    v := (List.range 64).foldl (fun m i => Sparse.set 0 m i (BitVec.ofNat 1024 (fieldAt bs (2432 + 128 * i) 128))) []
    m := (List.range 8).foldl (fun m i => if i == 0 then m else Sparse.set 0 m i (BitVec.ofNat 128 (fieldAt bs (10624 + 16 * i) 16))) []
    q := (List.range 8).foldl (fun m i => Sparse.set Quire.zero m i (quireOfImage ((bs.drop (10752 + 128 * i)).take 128))) []
    pc := if byteAt bs 9 == 1 then wordAt bs 40 else wordAt bs 16
    ccyc := fieldAt bs 24 8, pmcnt := fieldAt bs 32 8, epc := wordAt bs 40, tcause := wordAt bs 48 &&& tcauseMask
    taddr := wordAt bs 56, line := p.pend ++ v.kept.line
    bAt := v.kept.bAt, div0 := v.kept.div0, div1 := v.kept.div1, arrNext := v.kept.arrNext, pad := v.kept.pad, port2 := v.kept.port2
    pmbound := sys 0x00A, pend := (sys 0x00B).getLsbD 0, sticky := (sys 0x010).setWidth 9, mdlinfo := sys 0x116
    kihand := sys 0x113, testim := sys 0x11A, pltask := sys 0x119, mlambda := sys 0x114
    shares := (List.range 4).foldl (fun m k => Sparse.set 0 m k (bits (sys 0x112) (4 * k) 4)) []
    kipend := bits (sys 0x112) 24 8, cwin := fourWords fun k => sys (0x108 + k), rwin := fourWords fun k => sys (0x10C + k)
    saeErr := bits (sys 0x110) 16 16, saeCause := bits (sys 0x110) 32 3, saeAddr := sys 0x111, tinva := sys 0x117
    tinvc := sys 0x118
    saeOpen := (List.range (fieldAt bs 82 2)).map fun i => saeAt bs i (v.kept.saeIds.getD i res)
    seq :=
      { active := byteAt bs 2362 == 1, desc := (bs.drop 2176).take 152
        idx := (List.range 6).foldl (fun m i => Sparse.set 0 m i (fieldAt bs (2328 + 4 * i) 4)) []
        base := wordAt bs 2352, n := byteAt bs 2360 + 1, g := byteAt bs 2361 }
    gates := (List.range (fieldAt bs 96 4)).map fun i => gateAt cmds (ids.getD i 0) (p.gateBytes bs i)
    binds := v.binds, lates := v.lates }

/-- The state in which the commands of a record are judged: the task on its context, with its regions reclaimed. -/
def State.withRecord (s : State) (v : Saved) (p : Parsed) (cmds : List Cmd) (bs : List Byte) : State :=
  let own := v.task.regions ||| recRegions bs
  s.modCore v.core fun k =>
    (List.range 16).foldl
      (fun k g => if own.getLsbD g then k.setRegion g { k.region g with owner := some v.ctx, zeroing := false } else k)
      ((k.setCtx v.ctx (v.context 0 p cmds v.gates bs)).setReliefCap v.ctx v.kept.relief)
/-- A record passes every check of R385 for the task saved in it. -/
def State.recordOk (s : State) (v : Saved) (bs : List Byte) : Option Parsed :=
  match parseRecord bs with
  | none => none
  | some p =>
    let ncmd := fieldAt bs 92 4
    let cmds := v.cmdsOf p bs s.nextId
    if recFixedOk bs && byteAt bs 8 == v.ctx && fieldAt bs 12 4 == (s.corexy v.core).toNat % 2 ^ 29
        && fieldAt bs 88 4 ≤ 12 && fieldAt bs 96 4 ≤ 4 && recSysOk bs
        && (List.range (fieldAt bs 96 4)).all (fun i => gateEntryOk ncmd (p.gateBytes bs i))
        && (List.range ncmd).all (fun i => (cmds[i]?).any fun k => (s.withRecord v p cmds bs).cmdEntryOk k (p.cmdBytes bs i)) then some p
    else none

/-- Core, context and every resource that the record names are free and cleared. -/
def State.restoreFree (s : State) (v : Saved) (bs : List Byte) : Bool :=
  let k := s.core v.core
  !(k.ctx v.ctx).loaded && !k.unitsBusy (byteAt bs 64) (fieldAt bs 72 8)
    && (List.range 4).all (fun ch => k.sharesOf v.ctx ch + bits (recSys bs 0x112) (4 * ch) 4 ≤ 8)
    && (List.range 16).all (fun g => !(recRegions bs).getLsbD g || (k.region g).owner.isNone)
    && !k.regionTaken v.task.regions
/-- Tiles and slots filled from their images. -/
def Core.fillUnits (k : Core) (p : Parsed) (bs : List Byte) : Core :=
  let k := (recTiles bs).zipIdx.foldl (fun k t =>
    k.setRows t.1 allRows (cellsOfImage ((bs.drop (p.tiles + 16512 * t.2)).take 16512))) k
  (recSlots bs).zipIdx.foldl (fun k t =>
    { k with slots := Sparse.set 0 k.slots t.1 (BitVec.ofNat 12800 (fieldAt bs (p.slots + 1600 * t.2) 1600)) }) k
/-- The releases that waited for a result wait again (R190). -/
def Core.renewReleases (k : Core) (rs : List (Bool × Nat × Nat)) : Core :=
  rs.foldl (fun k x => k.setOwnerOf x.1 x.2.1 { k.ownerOf x.1 x.2.1 with release := some x.2.2 }) k
/-- The resources are reclaimed and the context loaded. A restore counts as the allocation of the regions that it reclaims,
whose blocks are RAW with their bytes kept, and not of its cluster windows, whose blocks keep their states (R256). Log 45,
DEDUCED. -/
def State.beginRestore (s : State) (q : RestoreReq) (v : Saved) (p : Parsed) (bs : List Byte) (res : Nat) (slots : List Slot) :
    State :=
  let cmds := v.cmdsOf p bs s.nextId
  let s := { s with nextId := s.nextId + cmds.length }
  let c := v.context res p cmds v.gates bs
  let s := s.modCore v.core fun k =>
    ((((((k.setCtx v.ctx c).setReliefCap v.ctx v.kept.relief).grantRegions v.ctx v.task.tenant (s.cyclesOn v.core zeroCycles) (v.task.regions ||| recRegions bs)).grantUnits v.ctx (byteAt bs 64)
      (fieldAt bs 72 8))).fillUnits p bs).renewReleases v.kept.releases
  { s with
    saved := s.saved.filter (·.addr != v.addr) ++ [{ v with addr := q.addr }]
    cmds := s.cmds ++ cmds, reserved := slots
    restores := s.restores.map fun x => if x.id == q.id then { x with begun := true } else x }

/-- The end of a restore request: its event and BUSY of RSTCTL, when a host asked. -/
def State.endRestore (s : State) (q : RestoreReq) (iod status code : Nat) : State :=
  let s := { s with restores := s.restores.filter (·.id != q.id) }
  if q.port then s.emitFor 0x318 srcScheduler iod evRestore status code [q.addr] else s
/-- The task starts: its record is spent and its pool slot free. -/
def State.finishRestore (s : State) (q : RestoreReq) (v : Saved) : State :=
  let s := s.modCtx ⟨v.core, v.ctx⟩ fun c => { c with starting := false }
  let s := { s with
    saved := s.saved.filter (·.addr != v.addr)
    mod := { s.mod with poolUsed := s.mod.poolUsed.filter (· != v.pool) } }
  s.endRestore q (s.schedOf ⟨v.core, v.ctx⟩) 0 0

/-- No record is longer: the greatest of each section (R381, R383, R384). -/
def recordLimit : Nat := 2 ^ 24
/-- What a restore can do now. -/
inductive RestoreMove
  | wait
  | refuse (code : Nat)
  | begin_ (v : Saved) (p : Parsed) (bs : List Byte) (slots : List Slot)
  | finish (v : Saved)
deriving DecidableEq, Repr

/-- The core that a record names in CORE. -/
def recCore (bs : List Byte) : Nat := coreAt (fieldAt bs 12 4 % 64) (fieldAt bs 12 4 / 256 % 16)
/-- The pool slot at an address; none of a tenant for an address outside the tenant's pool. -/
def State.poolAt (s : State) (tenant addr : Nat) : Nat × Nat :=
  let base := s.poolBase tenant
  let size := s.poolSlotBytes tenant
  if size != 0 && base ≤ addr && (addr - base) % size == 0 then (tenant, (addr - base) / size) else (16, 0)
/-- A task of a record beside which nothing is kept: its regions are those that the record names. Log 35, DESIGN CHOICE. -/
def State.savedFrom (s : State) (addr tenant : Nat) (bs : List Byte) : Saved :=
  { addr := addr, core := recCore bs, ctx := byteAt bs 8
    task :=
      { node := 0, tenant := tenant, prio := 0, num := bits (recSys bs 0x119) 0 32, slice := 10 ^ 6 * Config.ticksPerUs
        plat := 10 ^ 6 * Config.ticksPerUs, ckpt := true, regions := recRegions bs, flows := [], res := 0 }
    pool := s.poolAt tenant addr, binds := [], cmds := [], gates := [], lates := 0, kept := Kept.none }
/-- What is kept of a task beside the record at an address: of that record, else of the record of the same core, context
and tenant, else nothing. Log 35, DESIGN CHOICE. -/
def State.savedAt (s : State) (addr tenant : Nat) (bs : List Byte) : Saved :=
  ((s.saved.find? fun v => v.addr == addr && v.task.tenant == tenant).orElse fun _ =>
    s.saved.find? fun v => v.core == recCore bs && v.ctx == byteAt bs 8 && v.task.tenant == tenant).getD
      (s.savedFrom addr tenant bs)

/-- The code with which R283 refuses a restore, but for the slots of its flows: an end point that is no longer reached, or a
Λ below the bound of R278. -/
def State.restoreCode (s : State) (v : Saved) (bs : List Byte) : Option Nat :=
  let crosses := v.task.flows.any flowCrosses || [0x10C, 0x10D, 0x10E, 0x10F].any fun n =>
    (recSys bs n).getLsbD 63 && bits (recSys bs n) 12 4 != s.mod.number
  if !v.task.flows.all s.flowReachable then some refGraticule
  else if (recSys bs 0x114).toNat < s.leastLambda v.task.flows crosses then some refLambda
  else none
/-- A restore that R283 refuses leaves the record untouched: a host hears of it, and the scheduler makes its own again as
soon as the flows fit (R380). Log 36, DEDUCED. -/
def State.restoreMove (s : State) (q : RestoreReq) : RestoreMove :=
  let bs := s.mem.bytes q.addr (min (s.mem.nat (q.addr + 4) 4) recordLimit)
  let v := s.savedAt q.addr q.tenant bs
  if q.begun then
    if (List.range 16).any fun g => ((s.core v.core).region g).owner == some v.ctx && ((s.core v.core).region g).zeroing then .wait
    else .finish v
  else if s.hostPending q.addr bs.length then .wait
  else if !s.mayStore q.addr bs.length then (if q.port then .refuse refFetch else .wait)
  else match s.recordOk v bs with
    | none => .refuse refEntry
    | some p =>
      if !s.restoreFree v bs || (!q.port && s.launches.any fun l => l.core == v.core && !l.begun) then .wait
      else match s.restoreCode v bs, s.takeTaskFlows q.id v.task.flows s.reserved with
        | none, some r => .begin_ v p bs r
        | code, _ => if q.port then .refuse (code.getD refGraticule) else .wait
/-- One move of a restore. SRC of the event of a refused one names IOD0. Log 74, DESIGN CHOICE. -/
def State.restoreStep (s : State) (q : RestoreReq) : State :=
  match s.restoreMove q with
  | .wait => s
  | .refuse code => s.endRestore q 0 2 code
  | .begin_ v p bs r => s.beginRestore q v p bs q.id r
  | .finish v => s.finishRestore q v
def execRestore (id : Nat) (s : State) : Result :=
  match s.restores.find? (·.id == id) with
  | some q => whenever s.booted s (·.restoreStep q)
  | none => .next s

end Sys2Proof.Machine
end

