-- ==== Sys2Proof/Machine/Issue.lean ====
section
/-! DEFINITION. The issue of a group: its forming and decoding (R56 to R62), the checks of R371, the actions at a
PMARK group (R113, R248, R372), what follows its words (R87 to R96, R107, R117), and the issue stage (R86 to R89,
R356, R357). -/
namespace Sys2Proof.Machine

/-! ### Decoding a group (R57, R62) -/

/-- A decoded word of a group: its stop bit, guard, class, slot within its class, and place in the group. -/
structure Item where
  i : Instr
  st : Bool
  g : Guard
  cl : Nat
  slot : Nat
  pos : Nat
deriving DecidableEq, Repr

/-- The words before a place in a group are those given; this one takes the next slot of its class. -/
def itemOf (before : List Item) (w : BitVec 64) (i : Instr) : Item :=
  let p := Parts.ofWord w
  { i := i, st := p.st, g := p.g, cl := p.cl.toNat, slot := (before.filter fun x => x.cl == p.cl.toNat).length
    pos := before.length }

/-- Step 2 of R62: the items, or the trap at the first word that fails. -/
def decodeItems (m : Mode) : Word → List Item → List (BitVec 64) → Except Trap (List Item)
  | _, done, [] => .ok done
  | at_, done, w :: ws =>
    match decodeWord w with
    | .ilg => .error (Trap.plain causeILG at_)
    | .ill => .error (Trap.plain causeILL at_)
    | .ok i =>
      if acceptedIn m i then decodeItems m (at_ + 8) (done ++ [itemOf done w i]) ws else .error (Trap.plain causeILG at_)

/-- Slots of a class (R57). -/
def slotsOf (cl : Nat) : Nat := if 1 ≤ cl && cl ≤ 3 then 2 else 1
def isStrided : Instr → Bool
  | .vlds _ _ | .vsts _ _ => true
  | _ => false
def isTend : Instr → Bool
  | .tend _ _ => true
  | _ => false
def isLpad : Instr → Bool
  | .lpad _ _ => true
  | _ => false
def isPmark : Instr → Bool
  | .pmark _ _ => true
  | _ => false

/-- A word that breaks the group's shape, given those before it (R57, R98, R223). -/
def badShape (all before : List Item) (x : Item) : Bool :=
  slotsOf x.cl ≤ x.slot
    || (x.cl == 2 && before.any fun y => y.cl == 2 && (isStrided y.i || isStrided x.i))
    || (isLpad x.i && !before.isEmpty)
    || (1 < all.length && all.any (isTend ·.i))
/-- A word that depends on an earlier one (R61). -/
def badDeps (before : List Item) (x : Item) : Bool := before.any fun y => depends y.g x.g y.i x.i
/-- Index of the first word that fails a test against those before it. -/
def firstBad (bad : List Item → Item → Bool) : List Item → List Item → Option Nat
  | _, [] => none
  | before, x :: xs => if bad before x then some before.length else firstBad bad (before ++ [x]) xs

/-- R62 on the words of a group. -/
def decodeGroup (m : Mode) (at_ : Word) (ws : List (BitVec 64)) : Except Trap (List Item) :=
  match decodeItems m at_ [] ws with
  | .error t => .error t
  | .ok xs =>
    match firstBad (badShape xs) [] xs with
    | some n => .error (Trap.plain causeILG (at_ + BitVec.ofNat 64 (8 * n)))
    | none =>
      match firstBad badDeps [] xs with
      | some n => .error (Trap.plain causeILG (at_ + BitVec.ofNat 64 (8 * n)))
      | none => .ok xs

/-- The words of a group in slot order: by class, then by slot (R371). -/
def slotOrder (xs : List Item) : List Item :=
  (List.range 8).flatMap fun c => (List.range 2).flatMap fun n => xs.filter fun x => x.cl == c && x.slot == n

/-! ### The issue checks (R371 steps 6 and 7) -/

/-- The issue check of a word; every other word has none. -/
def checkOf (i : Instr) (s : State) : Verdict :=
  match i with
  | .brm _ f => checkBrm f s
  | .brt _ f | .ret _ f => checkBrt f s
  | .jtb _ f => checkJtb f s
  | .lseq _ f => checkLseq f s
  | .tfence _ f => checkTfence f s
  | .fence g f => checkFence g f s
  | .twait _ f => checkTwait f s
  | .tend _ _ => checkTend s
  | .ldb _ f | .ldh _ f | .ldw _ f | .ldd _ f => checkLd f s
  | .stb _ f | .sth _ f | .stw _ f | .std _ f => checkSt f s
  | .vld _ f => checkVld f s
  | .vst _ f => checkVst f s
  | .vlds _ f => checkStrided true f s
  | .vsts _ f => checkStrided false f s
  | .cld _ f => checkCl true f s
  | .cst _ f => checkCl false f s
  | .rwr _ f => checkRwr f s
  | .rws _ f => checkRws f s
  | .ldnb _ f => checkLdnb f s
  | .stva _ f => checkStva f s
  | .rwva _ f => checkRwva f s
  | .sarr _ f => checkArrive f s
  | .swait _ f => checkSwait f s
  | .sacq _ f => checkSacq f s
  | .srel _ f => checkSrel f s
  | .sset _ f => checkSset f s
  | .saeq _ f => checkSaeq f s
  | .saef _ _ => checkSaef s
  | .vfdiv _ _ | .vfsqrt _ _ => checkDivide s.iss.slot s
  | .qsave _ f | .qload _ f => checkImage 128 f s
  | .qfrom _ f => checkTile f.opa.toNat s
  | .mclaim _ f => checkMclaim f s
  | .mlda _ f => checkMlda f s
  | .mma _ f | .mmai _ f | .mlut _ f => checkArray f s
  | .mzero _ f | .dclr _ f => checkTile f.tile.toNat s
  | .msave _ f | .mload _ f => checkTileImage f s
  | .drd _ f | .dsgd _ f | .dmom _ f => checkTile (updTile f) s
  | .dpub _ f => checkDpub f s
  | .kcp _ f | .kcpOpimg _ f | .kcpn _ f | .kenc _ f | .krec _ f | .kseal _ f | .ksealUnseal _ f | .ktab _ f
  | .kcan _ f | .ktsk _ f => checkK 0 f s
  | .kcpv _ f | .ktr _ f | .gstep _ f | .gmask _ f => checkK 32 f s
  | .knmc _ f | .kcol _ f => checkK 128 f s
  | .kdrain _ f => checkKdrain f s
  | .kres _ f | .kresDrop _ f => checkShare f s
  | _ => .ok

/-- The sync word as a sync instruction of L0 leaves it, with its index (R231). -/
def syncUpdate (i : Instr) (s : State) : Option (Nat × Word) :=
  let at_ (f : FmtL) (u : Word → Word) : Option (Nat × Word) :=
    some (syncIndex (s.me.addrL f).toNat, u (syncWordAt (s.me.addrL f) s))
  match i with
  | .sarr _ f | .srel _ f => at_ f swArrive
  | .sset _ f => at_ f fun _ => swMask (s.me.x f.dt.toNat)
  | .sacq _ f => at_ f fun w => swSetCount w (swCount w - sacqNeed f s.me)
  | _ => none
/-- The word that an L1 wait tests (R231, R232). -/
def testedWord (first : Option Instr) (a : Word) (s : State) : Word :=
  match first.bind (syncUpdate · s) with
  | some (n, w) => if n == syncIndex a.toNat then w else syncWordAt a s
  | none => syncWordAt a s
/-- Two words of class L need two places of one queue. -/
def pairRoom (i j : Instr) (s : State) : Verdict :=
  let remote : Instr → Bool
    | .rwr _ _ | .rws _ _ | .rwva _ _ => true
    | _ => false
  match i, j with
  | .stva _ _, .stva _ _ => blockIf (15 ≤ s.me.stva.length)
  | .saeq _ f, .saeq _ h =>
    if saeRefusal f s == 0 && saeRefusal h s == 0 && 127 ≤ s.me.saeLen then s.waitRuns s.cur ((s.me.nextRun.map Prod.snd).toList)
    else .ok
  | i, j => if remote i && remote j && 15 ≤ s.me.rwq.length then s.fullQueue s.cur else .ok
/-- The check of a word after a word of L0 of its group whose guard holds. -/
def checkAfter (first : Option Instr) (i : Instr) (s : State) : Verdict :=
  match i with
  | .swait _ f => checkSwaitOn f s (testedWord first (s.me.addrL f) s)
  | .sacq _ f => checkSacqOn f s (testedWord first (s.me.addrL f) s)
  | i => (checkOf i s).andThen (match first with
      | some j => pairRoom j i s
      | none => .ok)

def Verdict.isTrap : Verdict → Bool
  | .trap _ => true
  | _ => false
/-- The verdicts of a group in slot order: the first trap, then the bubble groups of an interval, then a stall, and a block
that keeps its place in the list only when every one does (R88, R154, R199, R371). Log 24, DEDUCED. -/
def verdictOf (vs : List Verdict) : Verdict :=
  match vs.find? Verdict.isTrap with
  | some t => t
  | none =>
    if vs.contains .bubble then .bubble
    else if vs.contains .stall then .stall
    else if vs.contains (.block false) then .block false
    else if vs.contains (.block true) then .block true else .ok

/-- The gate that a FENCE among some words would open. -/
def State.ownGate (s : State) (xs : List Item) : List Gate :=
  match (xs.find? fun x => x.cl == 0 && s.me.guard x.g).map Item.i with
  | some (.fence g f) => [s.fenceGate s.cur g f]
  | _ => []
/-- A TFENCE spends the bubble groups of its wait before any check of step 6 (R112, R371). -/
def State.fenceBubble (s : State) (xs : List Item) : Bool :=
  match (xs.find? fun x => x.cl == 0 && s.me.guard x.g).map Item.i with
  | some (.tfence _ f) => checkTfence f s == .bubble
  | _ => false
/-- The checks of every word whose guard holds, in slot order. A FENCE of the group holds the words of class L of its
group as well (R304). -/
def State.issueChecks (s : State) (xs : List Item) : Verdict :=
  let xs := (slotOrder xs).filter fun x => s.me.guard x.g
  let first := (xs.find? fun x => x.cl == 2 && x.slot == 0).map Item.i
  let fenced := match (xs.find? fun x => x.cl == 0).map Item.i with
    | some (.fence g f) => doFence g f s
    | _ => s
  if s.fenceBubble xs then .bubble
  else verdictOf (xs.map fun x =>
    let t := if x.cl == 0 then s else fenced
    let t := { t with iss := { t.iss with st := x.st, slot := x.slot, pos := x.pos } }
    checkAfter (if x.cl == 2 && x.slot == 1 then first else none) x.i t)

/-- The 65th group of a completion handler (R248). -/
def handlerLimit : Nat := 64
/-- PMOVR (R114, R248). -/
def Ctx.pmovr (c : Ctx) (xs : List Item) : Bool :=
  match c.mode with
  | .program => c.pmbound != 0 && !xs.any (isPmark ·.i) && c.pmbound.toNat < c.pmcnt
  | .supervisor => false
  | .completion => handlerLimit ≤ c.kgroups
/-- EARLY (R94): the first pending register read, in slot order. -/
def Ctx.early (c : Ctx) (xs : List Item) : Option Reg :=
  if c.pend && c.mode = .program then (slotOrder xs).findSome? fun x => c.earlyOf x.g x.i else none

/-- Steps 4 to 7 of R371. -/
def State.lateChecks (s : State) (xs : List Item) : Verdict :=
  if s.me.pmovr xs then .trap (Trap.plain causePMOVR (BitVec.ofNat 64 s.me.pmcnt))
  else match s.me.early xs with
    | some r => .trap (Trap.plain causeEARLY (Reg.code r))
    | none => s.issueChecks xs

/-- The items of a group that has been decoded before. -/
def State.itemsOf (s : State) (r : CtxRef) (ws : List (BitVec 64)) : List Item :=
  match decodeGroup (s.ctx r).mode (s.ctx r).at_ ws with
  | .ok xs => xs
  | .error _ => []

/-! ### A PMARK group before its checks (R113, R248, R372, R378) -/

/-- Entry into the completion handler. -/
def Ctx.enterCompletion (c : Ctx) : Ctx :=
  { c with mode := .completion, hpc := c.kihand, kcyc := 0, kgroups := 0, kipend := c.kipend - 1, blocked := none }
/-- A switch is asked for. -/
def Requests.wanted (q : Requests) : Bool := q.slice.isSome || q.preempt.isSome || q.tenant.isSome
/-- The switch is taken: the requests end and the slice restarts. -/
def Requests.taken (q : Requests) : Requests := { q with sliceUsed := 0, slice := none, preempt := none, tenant := none }
/-- What happens at a PMARK group about to issue, when it does: before the group's own checks, its decoding among them, so
that a word of it which is PMARK tells (R372). -/
def State.atMark (s : State) (r : CtxRef) (ws : List (BitVec 64)) : Option State :=
  let c := s.ctx r
  if !(ws.any (wordIs isPmark) && c.mode = .program && c.line.isEmpty) then none
  else if c.kipend != 0 && c.kihand != 0 then some (s.setCtx r c.enterCompletion)
  else if c.req.wanted then
    some ((s.setCtx r
      { c with req := c.req.taken, blocked := none, saving := if c.req.ckpt then some 0 else c.saving }).passStage r.core)
  else if c.req.suspend then some ((s.setCtx r { c with saving := some 2, blocked := none }).passStage r.core)
  else none

/-! ### Group fetch and the blocked group -/

def isFence (x : Item) : Bool :=
  match x.i with
  | .fence _ _ => true
  | _ => false
def isLoadL : Instr → Bool
  | .ldb .. | .ldh .. | .ldw .. | .ldd .. | .vld .. | .vlds .. | .cld .. | .ldnb .. | .saef .. => true
  | _ => false
def isSyncL : Instr → Bool
  | .sarr .. | .swait .. | .sacq .. | .srel .. | .sset .. => true
  | _ => false
def isDpub : Instr → Bool
  | .dpub .. => true
  | _ => false
def isLbr : Instr → Bool
  | .lbr .. => true
  | _ => false
/-- Rank of a word in the order in which a group's words are performed: what reads memory and registers before what
writes them at once (R58, R231). SAEF's closing of the window and its clearing of SAESTAT and SAEADDR come before what an
SAEQ of the group queues or refuses, whichever slot each is in. Log 9, DEDUCED. -/
def rankOf (x : Item) : Nat :=
  if x.cl == 0 then (if isFence x then 0 else if isLbr x.i then 11 else 7)
  else if x.cl == 2 then (if isLoadL x.i then 6 else if isSyncL x.i then 8 else 9)
  else if x.cl == 7 then (if isDpub x.i then 10 else 5)
  else if x.cl == 1 then 1
  else if x.cl == 3 then 2
  else if x.cl == 4 then 3
  else if x.cl == 5 then 4
  else 5
/-- Two timed stores of a group go in increasing T, as those performed in one cycle do (R276). -/
def timedOrder (c : Ctx) (xs : List Item) : List Item :=
  match xs.map Item.i with
  | [.stva _ f, .stva _ h] => if timeOf h c < timeOf f c then xs.reverse else xs
  | _ => xs
/-- Log 9, DEDUCED. -/
def performOrder (c : Ctx) (xs : List Item) : List (Instr × Bool × Nat) :=
  ((List.range 12).flatMap fun n => timedOrder c ((slotOrder xs).filter fun x => rankOf x == n)).map fun x => (x.i, x.st, x.slot)

/-- The group has passed its checks: its words are to be performed. -/
def State.form (s : State) (r : CtxRef) (words : Nat) (xs : List Item) : State :=
  let at_ := (s.ctx r).at_
  { s.modCtx r fun c => { c with blocked := none, group := [], entered := false } with
    iss := { Issue.none with
      checked := true, words := performOrder (s.ctx r) xs, addr := at_, next := at_ + BitVec.ofNat 64 (8 * words) } }

/-- As a group blocks, the stores in flight that closed gates wait for, or the gate that its own FENCE would open, are
performed where the group goes on with them performed, and else those of the gates that hold a command, a remote write or a
run of the context, which the group may be waiting for. Log 69, DEDUCED. -/
def State.freeStores (s : State) (r : CtxRef) (xs : List Item) : State :=
  let t := s.storeMembers r (s.closedGates r ++ s.ownGate xs)
  if (t.lateChecks xs).isBlock then s.storeMembers r ((s.closedGates r).filter (s.gateHolds r)) else t
/-- What a verdict does to a group about to issue: it is formed, blocks, spends a bubble group of its own (after which its
checks go on at step 6 of R371), traps or stalls (log 52, DEDUCED). -/
def State.settleGroup (s : State) (r : CtxRef) (ws : List (BitVec 64)) (xs : List Item) (v : Verdict) : State :=
  match v with
  | .ok => s.form r ws.length xs
  | .block timed =>
    let s := if xs.any fun x => (match x.i with
        | .saef _ _ => (s.ctx r).guard x.g
        | _ => false) then s.closeSae r else s
    let s := s.freeStores r xs
    (s.modCtx r fun c => { c with blocked := some timed, group := ws, entered := false }).passStage r.core
  | .bubble => (s.refuse r .bubble).modCtx r fun c => { c with blocked := none, group := ws, entered := true }
  | .stall => s
  | .trap t => (s.modCtx r fun c => { c with entered := false }).refuse r (.trap t)

/-- The landing pad that a JTB asks for (R105). Log 25, DEDUCED. -/
def padOk (c : Ctx) (xs : List Item) : Bool :=
  match c.pad with
  | none => true
  | some (_, label) =>
    match xs with
    | { i := .lpad _ f, .. } :: _ => c.mode != .program || f.jlo == label
    | _ => c.mode != .program
/-- A group about to issue, from the marks on (R372), with the landing pad when it has just been fetched (step 3 of
R371). Log 51, DEDUCED. -/
def State.attempt (s : State) (r : CtxRef) (fresh : Bool) (ws : List (BitVec 64)) : State :=
  match s.atMark r ws with
  | some t => t
  | none =>
    let c := s.ctx r
    match decodeGroup c.mode c.at_ ws with
    | .error t => s.takeTrap r t c.at_
    | .ok xs =>
      if fresh && !padOk c xs then s.takeTrap r (Trap.plain causeLPADF ((c.pad.getD (0, 0)).1)) c.at_
      else s.settleGroup r ws xs (s.lateChecks xs)

/-- Fetch, decode, then the attempt (R371). -/
def State.fetchGroup (s : State) (r : CtxRef) : State :=
  let c := s.ctx r
  let at_ := c.at_
  if at_ &&& 7 != 0 then s.takeTrap r (Trap.plain causeALIGN at_) at_
  else match s.formGroup r at_.toNat with
  | (.fault sub va, s) => s.takeTrap r { Trap.plain causeTRANS (BitVec.ofNat 64 va) with tsub := sub } at_
  | (.long, s) => s.takeTrap r (Trap.plain causeILG at_) at_
  | (.ok ws, s) => s.attempt r true ws

/-- The context is the running one and no group is formed. -/
def State.focus (s : State) (r : CtxRef) : State := { s with cur := r, iss := Issue.none }

/-- A group that has spent a bubble group of its own goes on at step 6 (R371). -/
def State.resumeChecks (s : State) (r : CtxRef) : State :=
  let ws := (s.ctx r).group
  let xs := s.itemsOf r ws
  s.settleGroup r ws xs (s.issueChecks xs)
/-- GROUP FETCH: a bubble group owed, a wait for the handler's results, a group between its own bubble groups, or the
next group. -/
def State.groupStep (s : State) (r : CtxRef) : State :=
  let s := s.focus r
  let c := s.ctx r
  if c.bubbles != 0 then s.setCtx r { c.tick with bubbles := c.bubbles - 1 }
  else if c.tret.isSome || c.kend then s.setCtx r c.tick
  else if c.entered then s.resumeChecks r
  else s.fetchGroup r
def execGroupFetch (c : CtxRef) (s : State) : Result :=
  whenever (s.canRun c && (s.ctx c).blocked.isNone) s (·.groupStep c)

/-- BLOCKED GROUP ISSUE: the group is checked again from step 4 (R88, R371). Log 51, DEDUCED. -/
def State.retryGroup (s : State) (r : CtxRef) : State :=
  let s := s.focus r
  s.attempt r false (s.ctx r).group
def execBlockedGroupIssue (c : CtxRef) (s : State) : Result :=
  whenever (s.canRun c && (s.ctx c).blocked.isSome) s (·.retryGroup c)

/-! ### After the words of a group -/

/-- A context cycle of the running context when it has issued a group. -/
def State.countGroup (s : State) : State :=
  if s.iss.checked then
    s.setMe fun c =>
      let c := c.tick
      if c.mode = .completion then { c with kgroups := c.kgroups + 1 } else c
  else s

/-- The program's next group: a branch, the sequencer's base, or the group that follows (R95, R107 to R109). -/
def Ctx.follow (c : Ctx) (i : Issue) : Ctx :=
  let c := { c with pc := i.redirect.getD i.next, bubbles := i.bubbles, pad := i.pad }
  if !c.seq.active || i.fresh then c
  else if i.taken then c.endNest
  else match c.passAdvance with
    | (c, some base) => { c with pc := base }
    | (c, none) => c
/-- A handler's next group; YIELD ends the completion handler (R248). -/
def Ctx.followHandler (c : Ctx) (i : Issue) : Ctx :=
  { c with hpc := i.redirect.getD i.next, bubbles := i.bubbles, kend := c.mode = .completion && i.pass }
/-- The completion handler is left once its results have landed. -/
def Ctx.leaveHandler (c : Ctx) : Ctx := if c.kend && c.kline.isEmpty && !c.portWaits .completion then { c with kend := false, mode := .program } else c

/-- The first pass of a nest starts when the last bubble of its LSEQ is spent (R107, R108); a taken branch has made
the sequencer inactive, so no other bubbles are owed while it is active. -/
def Ctx.nestStarts (c : Ctx) : Ctx := if c.seq.active && c.mode = .program then c.passStart else c

/-- The end of a core cycle after the results have landed: the next group, the stage, and TRAP and SVC. The flag says
that the cycle was the last bubble owed. -/
def State.finishGroup (s : State) (lastBubble : Bool) : State :=
  let r := s.cur
  let i := s.iss
  let s := { s with iss := Issue.none }.modCtx r Ctx.holdFresh
  if !i.checked then s.modCtx r fun c => if lastBubble then c.nestStarts.leaveHandler else c.leaveHandler
  else
    let s := s.modCtx r fun c => (if c.mode = .program then c.follow i else c.followHandler i).leaveHandler
    let s := if i.pass then s.passStage r.core else s
    match i.trap with
    | some (cause, code) =>
      s.takeTrap r { cause := cause, ccause := 0, tsub := 0, chan := 0, code := code, addr := 0 } (s.ctx r).pc
    | none => s

/-! ### The issue stage (R86 to R89, R356, R357) -/

/-- The blocked group of a context would no longer block. -/
def State.unblocked (s : State) (r : CtxRef) : Bool :=
  let t := s.focus r
  match t.lateChecks (t.itemsOf r (s.ctx r).group) with
  | .block _ => false
  | _ => true
/-- A blocked context returns to the list when the conditions that blocked it are satisfied (R88). -/
def State.wake (s : State) (r : CtxRef) : State :=
  if (s.ctx r).blocked == some false && s.canRun r && s.unblocked r then
    s.modCtx r fun c => { c with blocked := some true }
  else s
def State.wakeAll (s : State) (core : Nat) : State := (List.range 4).foldl (fun s c => s.wake ⟨core, c⟩) s

/-- The context that holds the stage in the next cycle of a core: the holder while it runs, else the next runnable one,
else the holder (R87). -/
def State.nextHolder (s : State) (core : Nat) : Nat :=
  let k := s.core core
  let order := (List.range 4).map fun n => (k.holder + 1 + n) % 4
  if !k.passing && s.runnable ⟨core, k.holder⟩ then k.holder
  else (order.find? fun c => s.runnable ⟨core, c⟩).getD k.holder
/-- The stage is given. A slice request of the context that takes it stands, though its slice starts anew (R356). Log 73, DESIGN
CHOICE. -/
def State.giveStage (s : State) (core : Nat) : State :=
  let n := s.nextHolder core
  let k := s.core core
  if n == k.holder then s.setCore core { k with passing := false }
  else (s.setCore core { k with passing := false, holder := n }).modCtx ⟨core, n⟩ fun c =>
    { c with req := { c.req with sliceUsed := 0 } }

/-- Time spent by the holder, in ticks: its slice and the requests that stand against it (R356, R357). -/
def Requests.spend (q : Requests) (others : Bool) (t : Nat) : Requests :=
  { q with
    sliceUsed := if others then q.sliceUsed + t else q.sliceUsed
    slice := if others then q.slice.map (· + t) else none
    preempt := q.preempt.map (· + t)
    tenant := q.tenant.map (· + t) }
def State.spendTime (s : State) (core : Nat) : State :=
  let t := s.coreTime core
  let k := s.core core
  let r : CtxRef := ⟨core, k.holder⟩
  let s := s.setCore core { k with stamp := t }
  if s.canRun r then s.modCtx r fun c => { c with req := c.req.spend (s.othersRunnable r) (t - k.stamp) } else s

/-- Writes held at a core. -/
def State.heldCount (s : State) (core : Nat) : Nat := (s.heldWrites core).length
/-- A core cycle begins: time reaches it, due timed writes and held planes are performed, the time is accounted to the
holder, blocked contexts are tested, and the stage is given (R87, R274, R339). Timed writes come before held planes that
come due in the same cycle. Log 66, DESIGN CHOICE. -/
def State.beginCycle (s : State) (core : Nat) : State :=
  let s := (s.advance (s.core core).nextAt).modCore core fun k =>
    { k with timedNow := [], ctxs := k.ctxs.map fun c => (c.1, c.2.settleFresh) }
  let s := (s.performDue core (s.heldCount core)).landDue core
  let s := s.spendTime core
  (s.wakeAll core).giveStage core
/-- The end of a core cycle: late writes performed as it began mark their words after its L slots (R231, R275), a
KCOL takes the stores that precede it (R335), and the next cycle comes one period later (R21). Log 5, DESIGN CHOICE. -/
def State.endCycle (s : State) (core : Nat) : State :=
  (s.modCore core fun k => { k.markLate with
    cyc := k.cyc + 1, nextAt := s.now + Config.corePeriod (s.die (dieOf core)).step }).takePriors core

/-- What the holder does in a core cycle. -/
def State.cycleInstr (s : State) (core : Nat) : Option Instr :=
  let r : CtxRef := ⟨core, (s.core core).holder⟩
  if !s.runnable r then none
  else match s.tretReady r with
  | some v =>
    some (if v.getLsbD 2 then .tretKill r else if v.getLsbD 1 then .tretSuspend r else .tretResume r)
  | none => some (if (s.ctx r).blocked.isSome then .blockedGroupIssue r else .groupFetch r)

end Sys2Proof.Machine
end

