-- ==== Sys2Proof/Machine/World.lean ====
section
/-! DEFINITION. What reaches the module from outside its cores (R265 to R268, R275, R280, R301, R314, R386 to R399):
control messages, invalidations, host ports and the module block, bring-up, links, Meridian discipline and power. -/
namespace Sys2Proof.Machine

/-! ### Control messages (R275, R280, R301) -/

def execLateNoticeArrival (id : Nat) (s : State) : Result :=
  match s.msgs.find? (·.id == id) with
  | some m =>
    (match m.msg with
      | .late d info => whenever (s.messageReady m && s.coreDone d.core) s fun s =>
        (s.takeMsg m).modCtx d fun c => { c.countLate info with lates := c.lates + 1 }
      | _ => .next s)
  | none => .next s
/-- A release performed at its word; the command that sent it may then complete. -/
def State.arriveRelease (s : State) (ref : Nat) (relt : Option Nat) (lambda : Nat) (cmd : Option Nat) : State :=
  let s := s.performRelease ref relt lambda
  match cmd.bind s.findCmd with
  | some k => s.setCmd { k with released := true }
  | none => s
def execReleaseMessageArrival (id : Nat) (s : State) : Result :=
  match s.msgs.find? (·.id == id) with
  | some m =>
    (match m.msg with
      | .release ref relt lambda cmd =>
        whenever (s.messageReady m && s.coreDone (refCore ref)) s fun s => (s.takeMsg m).arriveRelease ref relt lambda cmd
      | _ => .next s)
  | none => .next s

/-! ### Invalidation (R314) -/

/-- An entry, leaf or pointer, maps some of the page named. -/
def TEntry.named (t : TEntry) (v : Inval) : Bool :=
  let n := if v.size == 1 then 2 ^ 23 else if v.size == 2 then 2 ^ 29 else 2 ^ 17
  t.tenant == v.tenant && (v.size == 3 || rangesMeet t.base (entrySpan t.level) (v.va / n * n) n)
/-- A die drops every matching entry of its cache and of its cores' channel caches. -/
def State.dropEntries (s : State) (v : Inval) (die : Nat) : State :=
  let d := s.die die
  let s := s.setDie die
    { d with tcache := d.tcache.filter fun t => !t.named v, pcache := d.pcache.filter fun t => !t.named v }.prune
  { s with chanCache := s.chanCache.map fun (n, c) =>
      (n, if dieOf (n / 4) == die then c.filter fun t => !t.named v else c) }
def State.setInval (s : State) (v : Inval) : State := { s with invals := s.invals.map fun x => if x.id == v.id then v else x }
/-- A request reaches a die, which drops its matching entries and owes an acknowledgement. Log 38, DEDUCED. -/
def State.receiveInval (s : State) (v : Inval) (die : Nat) : State :=
  (s.dropEntries v die).setInval { v with todo := v.todo.erase die, owing := v.owing ++ [die] }
def execInvalidationRequest (id die : Nat) (s : State) : Result :=
  match s.invals.find? (·.id == id), s.carrierOf (.inval id die) with
  | some v, some m => whenever (s.booted && s.messageReady m) s fun s => (s.takeMsg m).receiveInval v die
  | _, _ => .next s
/-- A write unit of the invalidated tenant that a die translated still awaits its host completion (R20, R290, R392): that of
the core, that of the port's own engine, or an I/O die for a node's command. -/
def State.unitsWait (s : State) (v : Inval) (die : Nat) : Bool :=
  s.ports.any fun p => p.2.writes.any fun w => (w.cmd.bind s.findCmd).any fun k => k.tenant == v.tenant
    && (die == iodDie (portIod p.1) || match k.ctx with
      | some r => dieOf r.core == die
      | none => 24 ≤ die)
/-- A die sends its acknowledgement to the source of the request. -/
def State.sendAck (s : State) (v : Inval) (die : Nat) : State :=
  (s.setInval { v with owing := v.owing.erase die, flying := v.flying ++ [die] }).sendMsg (dieSrc die) v.src (.ack v.id die)
/-- Log 38, DEDUCED. -/
def execInvalidationAckSend (id die : Nat) (s : State) : Result :=
  match s.invals.find? (·.id == id) with
  | some v => whenever (s.booted && v.owing.contains die && !s.unitsWait v die) s (·.sendAck v die)
  | none => .next s
/-- ACK of a TINVC one higher; BUSY falls as it reaches 28. -/
def ackTinvc (w : Word) : Word :=
  let n := bits w 8 5 + 1
  (w &&& 0x3F#64) ||| field 8 n ||| bitIf 7 (n != 28)
def State.receiveAck (s : State) (v : Inval) (die : Nat) : State :=
  let v := { v with flying := v.flying.erase die }
  let s := if v.todo.isEmpty && v.owing.isEmpty && v.flying.isEmpty then { s with invals := s.invals.filter (·.id != v.id) }
    else s.setInval v
  match v.ctx with
  | some r => s.modCtx r fun c => { c with tinvc := ackTinvc c.tinvc }
  | none => if v.host then s.setBlockReg 0x250 (ackTinvc (s.blockReg 0x250)) else s
def execInvalidationAck (id die : Nat) (s : State) : Result :=
  match s.invals.find? (·.id == id), s.carrierOf (.ack id die) with
  | some v, some m => whenever (s.messageReady m) s fun s => (s.takeMsg m).receiveAck v die
  | _, _ => .next s

/-! ### Host ports (R386 to R388) -/

/-- The port's link is up, so that its host reaches the control window. -/
def State.portUp (s : State) (p : Nat) : Bool := p < 2 && (s.port p).link.isSome
/-- A refused write of the module block: a CFGREF event. -/
def State.cfgref (s : State) (port off : Nat) : State := s.emit srcPort port evCfgref 0 0 [off] none
/-- A write by the owner acts; any other has no effect but a CFGREF event (R387). -/
def State.asOwner (s : State) (port off : Nat) (act : State → State) : State :=
  if s.mod.owner == some port then act s else s.cfgref port off

/-- The module block has no owner. -/
def State.dropOwner (s : State) : State := { s with mod := { s.mod with owner := none, ownedAt := none } }
def execHostPortLinkUp (port : Nat) (kind : LinkKind) (s : State) : Result :=
  whenever (port < 2) s fun s => s.setPort port { s.port port with link := some kind }
def execPortLinkDown (port : Nat) (s : State) : Result :=
  .next <|
    let s := s.setPort port { s.port port with link := none }
    if s.mod.owner == some port then s.dropOwner else s
/-- A read of OWNER returns 1: no port owns the block, the reading port does, or port 1 took it by a read in this very
fabric cycle, where port 0 is served first. -/
def State.ownerGrants (s : State) (port : Nat) : Bool :=
  s.mod.owner.isNone || s.mod.owner == some port || (port == 0 && s.mod.ownedAt == some s.fabric)
/-- A read of OWNER by a port: the answer, and the port made the owner where it is 1 (R387). -/
def State.readOwner (s : State) (port : Nat) : State :=
  if s.ownerGrants port then
    let s := if s.mod.owner == some (1 - port) then s.setPort (1 - port) { s.port (1 - port) with answer := 0 } else s
    let at_ := if port == 1 && s.mod.owner != some 1 then some s.fabric else s.mod.ownedAt
    { s.setPort port { s.port port with answer := 1 } with
      mod := { s.mod with owner := some port, ownedAt := if port == 0 then none else at_ } }
  else s.setPort port { s.port port with answer := 0 }
def execOwnerAcquire (port : Nat) (s : State) : Result := whenever (s.portUp port) s (·.readOwner port)
def execOwnerRelease (port : Nat) (s : State) : Result :=
  whenever (s.portUp port && s.mod.owner == some port) s State.dropOwner

/-- A node posted through a port, or refused with FETCH before READY or at an address that is no multiple of 64. -/
def State.submit (s : State) (port tenant : Nat) (v : Word) : State :=
  let p : Post := { iod := portIod port, tenant := tenant, port := some port, addr := v.toNat, cmd := none, prio := 7, carrier := none }
  if (s.blockReg 0x008).getLsbD 0 && v.toNat % 64 == 0 then { s with posts := s.posts ++ [p] } else s.refusePost p refFetch
def execSubmitNode (port tenant : Nat) (v : Word) (s : State) : Result :=
  whenever (s.portUp port && tenant < 16) s (·.submit port tenant v)

/-- Log 46, DEDUCED. -/
def execHostDeviceMemoryWrite (port pa : Nat) (bytes : List Byte) (s : State) : Result :=
  whenever (s.portUp port && s.booted && paModule pa == s.mod.number && (homeOf pa).isDram) s (·.hostStore bytes (splitRange pa bytes.length))

/-! ### The module block (R389, R390) -/

/-- A value that a register without behaviour of its own accepts; none where the offset holds no such register.
Log 39, DEDUCED. -/
def blockAccepts (off : Nat) (v : Word) : Option Bool :=
  let o := off - 0x040
  if off % 8 != 0 then none
  else if off == 0x010 || off == 0x020 || off == 0x028 || off == 0x030 || off == 0x248 || off == 0x258 || off == 0x300 then some true
  else if 0x040 ≤ off && off < 0x0C0 then some (bits v 1 12 == 0 && bits v 52 12 == 0)
  else if 0x0C0 ≤ off && off < 0x140 then some (bits v 0 3 == 0)
  else if 0x140 ≤ off && off < 0x1C0 then some (bits v 0 12 == 0 && bits v 52 12 == 0)
  else if 0x1C0 ≤ off && off < 0x240 then
    some (bits v 0 16 ≤ 4096 && 1 ≤ bits v 16 16 && bits v 16 16 ≤ 4096 && bits v 32 32 == 0)
  else if off == 0x260 then some (1600000 ≤ v.toNat)
  else if 0x280 ≤ off && off < 0x300 then some (bits v 16 48 == 0)
  else if off == 0x310 then some (v.toNat % 4096 == 0)
  else (fun _ => none) o
/-- A write of a register of the event ring: EBASE, ESIZE, ETAIL; EHEAD is written by the device. The spec gives the four no
offsets: the model gives EBASE 0, ESIZE 8, EHEAD 16 and ETAIL 24. A write of ESIZE that is no power of two from 64 to 2^20
is ignored. Log 14, DESIGN CHOICE. -/
def Port.ringReg (p : Port) (off : Nat) (v : Word) : Port :=
  if off == 0 then { p with ebase := v }
  else if off == 8 then
    if 64 ≤ v.toNat && v.toNat ≤ 2 ^ 20 && 2 ^ Nat.log2 v.toNat == v.toNat then { p with esize := v } else p
  else if off == 24 then { p with etail := v }
  else p
/-- A write that sets the first or the last byte of a firewall window of the port (R396). The spec names no register for
it: the model gives window i the offsets 0x20000 + 16 · i and 8 above, beyond the control window. Log 14, DESIGN CHOICE. -/
def Port.windowReg (p : Port) (i : Nat) (last : Bool) (v : Word) : Port :=
  let ws := p.windows ++ List.replicate (i + 1 - p.windows.length) (1, 0)
  let w := ws.getD i (1, 0)
  { p with windows := ws.set i (if last then (w.1, v.toNat) else (v.toNat, w.2)) }

/-- A read of a register of the event ring. -/
def Port.ringRead (p : Port) (off : Nat) : Word :=
  if off == 0 then p.ebase else if off == 8 then p.esize else if off == 16 then p.ehead else if off == 24 then p.etail else 0
/-- A read of the module block: EPOCH shows IOD0's counter, the write-only registers read 0, and so does every offset that
holds no register (R389). -/
def State.readBlock (s : State) (off : Nat) : Word :=
  if off % 8 != 0 then 0
  else if off == 0x000 then BitVec.ofNat 64 (s.dieTime (iodDie 0))
  else if 0x020 ≤ off && off < 0x040 || off == 0x240 then 0
  else s.blockReg off
/-- A host's 8-byte read of its control window; a read of OWNER also acts, as OWNER ACQUIRE (R386, R387, R389). -/
def State.readWindow (s : State) (port off : Nat) : Word :=
  if off == 0x10000 then BitVec.ofNat 64 (s.ownerGrants port).toNat
  else if 0x11000 ≤ off && off < 0x12000 then (s.port port).ringRead (off - 0x11000)
  else if 0x12000 ≤ off && off < 0x13000 then s.readBlock (off - 0x12000)
  else 0

/-- EPOCH: taken while no task is loaded (R389). -/
def State.writeEpoch (s : State) (port : Nat) (v : Word) : State :=
  s.asOwner port 0x000 fun s =>
    if s.cores.any fun k => k.2.ctxs.any fun c => c.2.loaded then s.cfgref port 0x000
    else { s with mer := { s.mer with epoch := some v } }
/-- READY: a write of 1 sets it. -/
def State.writeReady (s : State) (port : Nat) (v : Word) : State :=
  s.asOwner port 0x008 fun s =>
    if bits v 1 63 != 0 then s.cfgref port 0x008 else if v == 1 then s.setBlockReg 0x008 1 else s
/-- ATTEST3: the last word of the nonce starts a report over the nonce and the module number, which is written to memory
and delivered as an event (R395). Log 11, DESIGN CHOICE. -/
def State.writeAttest (s : State) (port : Nat) (v : Word) : State :=
  s.asOwner port 0x038 fun s =>
    let n := s.freeCtr
    let s := s.setBlockReg 0x038 v
    let nonce := [0x020, 0x028, 0x030, 0x038].map s.blockReg
    let report := Config.attestReport n nonce s.mod.number
    (({ s with freeCtr := n + 1 }).deviceStore (Config.attestAddr n).toNat report none).emit srcPort port
      (Config.attestKind).toNat 0 0 [(Config.attestAddr n).toNat] none
/-- RFREE: a slot of a record pool becomes free. -/
def State.writeRfree (s : State) (port : Nat) (v : Word) : State :=
  s.asOwner port 0x240 fun s =>
    if v &&& ~~~0x0FFF000F#64 != 0 then s.cfgref port 0x240
    else { s with mod := { s.mod with poolUsed := s.mod.poolUsed.filter (· != (bits v 0 4, bits v 16 12)) } }
/-- TINVC of the block written: an invalidation for the tenant that it names, its requests sent by an I/O die (R314). -/
def State.requestInval (s : State) (src : Nat) (v : Word) : State :=
  let old := s.blockReg 0x250
  if !v.getLsbD 6 then s.setBlockReg 0x250 ((v &&& 0x3F) ||| (old &&& ~~~0x3F#64))
  else if old.getLsbD 7 then s
  else (s.startInval src none (bits v 0 4) (bits v 4 2) (s.blockReg 0x248).toNat).setBlockReg 0x250 ((v &&& 0x3F) ||| bitIf 7 true)
/-- TINVC written by a host through its port. -/
def State.writeTinvc (s : State) (port : Nat) (v : Word) : State :=
  s.asOwner port 0x250 fun s =>
    if bits v 13 51 != 0 then s.cfgref port 0x250 else s.requestInval (iodSrc (portIod port)) v
/-- The number that stands for the management firmware where a write names its port: it reaches TINVA and TINVC from inside
the I/O die (R314). Log 38, DEDUCED. -/
def firmwarePort : Nat := 2
/-- TINVA or TINVC written by the firmware; bits beyond TINVC's are ignored. -/
def State.firmwareWrite (s : State) (off : Nat) (v : Word) : State :=
  if off == 0x248 then s.setBlockReg 0x248 v else if off == 0x250 then s.requestInval (iodSrc 0) v else s

/-- Every tenant switch asked for is withdrawn. -/
def State.endGang (s : State) : State :=
  { s with
    gang := none
    cores := s.cores.map fun (i, k) =>
      (i, { k with ctxs := k.ctxs.map fun (n, c) => (n, { c with req := { c.req with tenant := none } }) }) }
/-- GCTL: the gang schedule in force, or none (R360, R390). Log 39, DEDUCED. -/
def State.writeGctl (s : State) (port : Nat) (v : Word) : State :=
  s.asOwner port 0x268 fun s =>
    let nsets := bits v 4 5
    if bits v 1 3 != 0 || bits v 9 55 != 0 || nsets == 0 || 16 < nsets || (s.mer.xmesh && s.mod.meshRef != s.mod.number) then s.cfgref port 0x268
    else if !v.getLsbD 0 then s.endGang.setBlockReg 0x268 v
    else if (s.blockReg 0x260).toNat < 1600000 then s.cfgref port 0x268
    else
      { s.setBlockReg 0x268 v with
        gang := some
          { gt0 := (s.blockReg 0x258).toNat, glen := (s.blockReg 0x260).toNat
            sets := (List.range nsets).map fun i => (s.blockReg (0x280 + 8 * i)).setWidth 16, at_ := 0 } }

/-- The running task that a suspension names. -/
def State.suspendTarget (s : State) (tenant addr num : Nat) : Option CtxRef :=
  match s.nodes.find? fun n => n.addr == addr && n.tenant == tenant && n.dispatched && n.kind == 0 with
  | none => none
  | some n => (((s.cores.flatMap fun k => k.2.ctxs.map fun c => ((⟨k.1, c.1⟩ : CtxRef), c.2)).find? fun x =>
      !x.2.starting && !x.2.ending && x.2.saving.isNone && (x.2.task.any fun t => t.node == n.id && t.num == num)).map Prod.fst)
/-- SUSCTL: a suspension is asked of the scheduler (R390). SRC of an event of STATUS 2 at once names the I/O die of the port
that was written. Log 74, DESIGN CHOICE. -/
def State.writeSusctl (s : State) (port : Nat) (v : Word) : State :=
  s.asOwner port 0x308 fun s =>
    let old := s.blockReg 0x308
    if bits v 6 26 != 0 then s.cfgref port 0x308
    else if old.getLsbD 5 then s
    else
      let kept := v &&& ~~~0x30#64
      if !v.getLsbD 4 then s.setBlockReg 0x308 kept
      else match s.suspendTarget (bits v 0 4) (s.blockReg 0x300).toNat (bits v 32 32) with
        | some r => (s.setBlockReg 0x308 (kept ||| bitIf 5 true)).modCtx r fun c => { c with req := { c.req with suspend := true } }
        | none => (s.setBlockReg 0x308 (kept ||| bitIf 5 true)).suspensionEvent (portIod port) 2 true [(s.blockReg 0x300).toNat]
/-- RSTCTL: a restore of the record at RSTADDR (R390). -/
def State.writeRstctl (s : State) (port : Nat) (v : Word) : State :=
  s.asOwner port 0x318 fun s =>
    let old := s.blockReg 0x318
    if bits v 6 58 != 0 then s.cfgref port 0x318
    else if old.getLsbD 5 then s
    else
      let kept := v &&& ~~~0x30#64
      if !v.getLsbD 4 then s.setBlockReg 0x318 kept
      else
        let (id, s) := (s.setBlockReg 0x318 (kept ||| bitIf 5 true)).fresh
        { s with restores := s.restores ++
            [{ id := id, addr := (s.blockReg 0x310).toNat, tenant := bits v 0 4, port := true, begun := false }] }

/-- A write inside the module block by its offset there. -/
def State.writeBlock (s : State) (port off : Nat) (v : Word) : State :=
  if off == 0x000 then s.writeEpoch port v
  else if off == 0x008 then s.writeReady port v
  else if off == 0x038 then s.writeAttest port v
  else if off == 0x240 then s.writeRfree port v
  else if off == 0x250 then s.writeTinvc port v
  else if off == 0x268 then s.writeGctl port v
  else if off == 0x308 then s.writeSusctl port v
  else if off == 0x318 then s.writeRstctl port v
  else s.asOwner port off fun s =>
    match blockAccepts off v with
    | some true => s.setBlockReg off v
    | some false => s.cfgref port off
    | none => s
/-- A write through a port at an offset: the event ring, the module block, or a firewall window. -/
def State.writeWindow (s : State) (port off : Nat) (v : Word) : State :=
  if 0x11000 ≤ off && off < 0x12000 then s.setPort port ((s.port port).ringReg (off - 0x11000) v)
  else if 0x12000 ≤ off && off < 0x13000 then s.writeBlock port (off - 0x12000) v
  else if 0x20000 ≤ off && off < 0x20100 && off % 8 == 0 then
    s.setPort port ((s.port port).windowReg ((off - 0x20000) / 16) (off % 16 == 8) v)
  else s
def execModuleBlockWrite (port off : Nat) (v : Word) (s : State) : Result :=
  if port == firmwarePort then whenever s.booted s (·.firmwareWrite (off - 0x12000) v)
  else whenever (s.portUp port) s (·.writeWindow port off v)
def execEpochWrite (port : Nat) (v : Word) (s : State) : Result := whenever (s.portUp port) s (·.writeEpoch port v)
def execReadySet (port : Nat) (v : Word) (s : State) : Result := whenever (s.portUp port) s (·.writeReady port v)
def execAttestReport (port : Nat) (v : Word) (s : State) : Result := whenever (s.portUp port) s (·.writeAttest port v)
def execRfree (port : Nat) (v : Word) (s : State) : Result := whenever (s.portUp port) s (·.writeRfree port v)
def execHostInvalidate (port : Nat) (v : Word) (s : State) : Result :=
  if port == firmwarePort then whenever s.booted s (·.firmwareWrite 0x250 v) else whenever (s.portUp port) s (·.writeTinvc port v)
def execGctlEnable (port : Nat) (v : Word) (s : State) : Result :=
  whenever (s.portUp port && v.getLsbD 0) s (·.writeGctl port v)
def execGctlDisable (port : Nat) (v : Word) (s : State) : Result :=
  whenever (s.portUp port && !v.getLsbD 0) s (·.writeGctl port v)
def execSuspendRequest (port : Nat) (v : Word) (s : State) : Result := whenever (s.portUp port) s (·.writeSusctl port v)
def execRestoreRequest (port : Nat) (v : Word) (s : State) : Result := whenever (s.portUp port) s (·.writeRstctl port v)

/-! ### Events and host memory (R391, R392) -/

/-- Space has freed: the held records go out, then the number of those discarded. -/
def State.overflowEnabled (s : State) (p : Nat) : Bool :=
  let q := s.port p
  q.hasSpace p && (!q.held.isEmpty || q.discarded != 0)
/-- The held records go out, and then an overflow event, with 0 in all its ARGs. Log 74, DESIGN CHOICE. -/
def State.overflow (s : State) (p : Nat) : State :=
  let q := (s.port p).flush s.mod.number p (s.port p).held.length
  let s := s.setPort p q
  if q.held.isEmpty && q.hasSpace p && q.discarded != 0 then
    (s.setPort p { q with discarded := 0 }).emit srcPort p evOverflow 0 q.discarded [] none
  else s
def execOverflowEvent (port : Nat) (s : State) : Result := whenever (s.overflowEnabled port) s (·.overflow port)

/-- An event has been written: the BUSY that waits for it falls (R390). -/
def State.eventWritten (s : State) (r0 : List Byte) : State :=
  let s' := (s.mod.busyUntil.filter (·.2 == r0)).foldl (fun s b => s.clearBusy b.1) s
  { s' with mod := { s'.mod with busyUntil := s'.mod.busyUntil.filter (·.2 != r0) } }
/-- The oldest device write of a port is performed in host memory; an event record advances EHEAD. -/
def State.completeHostWrite (s : State) (p : Nat) : State :=
  let q := s.port p
  match q.writes with
  | [] => s
  | w :: ws =>
    let s := { s.setPort p { q with writes := ws, ehead := if w.event then q.ehead + 1 else q.ehead } with
      mem := s.mem.store w.pa w.bytes }
    if w.event then s.eventWritten w.bytes else s
def execHostWriteCompletion (port : Nat) (s : State) : Result := whenever (s.portUp port) s (·.completeHostWrite port)

/-! ### Bring-up and links (R16, R393 to R397) -/

/-- Every I/O die has an image that verified and is not below the floor (R395). -/
def bootRuns (b : BootInput) (floor : Nat) : Bool :=
  (List.range 4).all fun i => ((b.firmware[i]?).bind id).any fun v => floor ≤ v
/-- Host memory from an address on, as far as it has been written. -/
def State.hostFrom (s : State) (pa : Nat) : Memory := s.mem.filter fun e => (homeOf e.1).isHost && pa ≤ e.1
/-- The block that bring-up applies: the one that verifies at CFGADDR in host memory. It is absent where CFGADDR is no address
of host memory, and where nothing has been written from there on (R394). Log 47, DESIGN CHOICE. -/
def State.bootBlock (s : State) : Option ConfigBlock :=
  let pa := (s.blockReg 0x010).toNat
  if (homeOf pa).isHost && !(s.hostFrom pa).isEmpty then Config.blockAt (s.hostFrom pa) pa else none
/-- The lowest firmware version accepted: that of the block, or any (R394). -/
def bootFloor (c : Option ConfigBlock) : Nat := (c.map ConfigBlock.fwFloor).getD 0
/-- The configured budget: the block's between 1,000 and 4,400 W, else the default (R23). -/
def blockPower (c : ConfigBlock) : Nat := if 1000 ≤ c.budget && c.budget ≤ 4400 then c.budget else 3800
/-- The module after bring-up with what the boot meets: every part at reset, the configuration applied or its defaults;
CFGADDR, written before reset is released, and host memory stay. A block that states a module number above 15, for which
R16 gives no meaning, is read modulo 16; one that states a budget outside R23's range leaves the default; a link number
above 7 names no Neatline port. Log 47, DESIGN CHOICE. -/
def State.bringUp (s : State) (b : BootInput) : State :=
  let cfg := s.bootBlock
  let boot : Word := bitIf 0 (bootRuns b (bootFloor cfg)) ||| bitIf 1 cfg.isNone
  let t := (State.reset.setBlockReg 0x010 (s.blockReg 0x010)).setBlockReg 0x018 boot
  let t := { t with agenda := s.agenda, mem := s.mem.filter fun e => (homeOf e.1).isHost }
  match cfg with
  | none => t
  | some c =>
    { t with
      mod := { t.mod with number := c.moduleNo % 16, budget := blockPower c, meshRef := c.meshRef, fwFloor := c.fwFloor }
      links := (c.policy.filter (·.1 < neatlinePorts)).foldl (fun m l => Sparse.put m l.1 { expect := some l.2, peer := none, enabled := false }) []
      farLinks := c.farLinks }
def execModuleReset (b : BootInput) (s : State) : Result := .next (s.bringUp b)

/-- Each host port reports, to both ports (R391). -/
def State.portsReport (s : State) (kind : Nat) (args : List Nat) : State :=
  let one (s : State) (p : Nat) : State := s.emit srcPort p kind 0 0 args none
  one (one s 0) 1
/-- A peer reports its number: the link is enabled when the policy expects it and it is another module's. -/
def State.configureLink (s : State) (link peer : Nat) : State :=
  let l := Sparse.get Link.reset s.links link
  let ok := l.expect == some peer && peer != s.mod.number
  let s := { s with links := Sparse.put s.links link { l with peer := some peer, enabled := ok } }
  if ok then { s with mer := { s.mer with xmesh := true, bound := s.mer.lock || s.mer.holdAt.isSome } }
  else s.portsReport evLink [link, peer]
def execLinkConfiguration (link peer : Nat) (s : State) : Result :=
  whenever (s.booted && link < neatlinePorts) s (·.configureLink link peer)

/-! ### Meridian (R265, R267, R268, R397) -/

/-- A die whose counter stands above the epoch keeps its value: a counter never decreases (R265). -/
def Die.keepTime (d : Die) (old new : Nat) : Die := { d with skew := ((old - new : Nat) : Int) }
/-- EPOCH APPLY: at the frame boundary every counter takes the epoch; none decreases, and one that has stopped stays.
Log 37, DEDUCED. -/
def State.applyEpoch (s : State) (v : Word) : State :=
  let frame := 64 * Config.fabricPeriod
  let s := s.advance ((s.now + frame - 1) / frame * frame)
  let acc := max s.mer.acc (v.toNat * 2 ^ 32)
  { s with
    mer := { s.mer with acc := acc, held := false, epoch := none }
    dies := s.dies.map fun (n, d) => (n, d.keepTime (s.dieTime n) (acc / 2 ^ 32)) }
def execEpochApply (s : State) : Result :=
  match s.mer.epoch with
  | some v => whenever s.booted s (·.applyEpoch v)
  | none => .next s
/-- A discipline message sets the rate of the step, within 100 ppm of nominal, and locks the reference. -/
def disciplined (rate : Int) : Nat :=
  let room : Int := nominalStep / 10000
  (max ((nominalStep : Int) - room) (min rate ((nominalStep : Int) + room))).toNat
/-- A discipline message can reach IOD0: from the mesh reference over Neatline where another module is that reference, else
from a grandmaster through either host port (R266, R267). Log 62, DESIGN CHOICE. -/
def State.ptpHeard (s : State) : Bool :=
  s.booted && (if s.mer.xmesh && s.mod.meshRef != s.mod.number then s.links.any fun l => l.2.enabled && l.2.peer.isSome
    else s.portUp 0 || s.portUp 1)
def execPtpMessage (rate : Int) (s : State) : Result :=
  whenever s.ptpHeard s fun s =>
    { s with mer := { s.mer with step := disciplined rate, lock := true, hold := false, holdAt := none, bound := s.mer.xmesh } }
def execReferenceLoss (s : State) : Result :=
  whenever s.mer.lock s fun s => { s with mer := { s.mer with lock := false, hold := true, holdAt := some s.now } }
/-- Ten seconds of holdover, in thirds of a fabric cycle. -/
def holdoverTime : Nat := 10 * 1880000000 * Config.fabricPeriod
def State.holdoverOut (s : State) : Bool := s.mer.holdAt.any fun t => t + holdoverTime ≤ s.now
/-- Holdover has run out: the bounds hold no longer, and an event tells both ports, with 0 in all its ARGs. Log 74, DESIGN
CHOICE. -/
def execHoldoverExpiry (s : State) : Result :=
  whenever s.holdoverOut s fun s =>
    { s with mer := { s.mer with bound := false, holdAt := none } }.emit srcMeridian 0 evMeridian 0 0 [] none
/-- A counter at its greatest value stops there. -/
def State.counterOut (s : State) (d : Nat) : Bool := (s.die d).stopped.isNone && s.dieTime d == 2 ^ 64 - 1
def execMeridianCounterStop (die : Nat) (s : State) : Result :=
  whenever (s.counterOut die) s fun s => s.setDie die { s.die die with stopped := some (2 ^ 64 - 1) }

/-! ### Power (R398, R399) -/

/-- The step asked for last, or the one in force. -/
def Die.wanted (d : Die) : Nat := d.asked.getLastD d.step
/-- Dies that draw a grant: compute, I/O and base dies (R265, R398). -/
def grantDies : Nat := 40
/-- Microseconds of Meridian time passed. -/
def State.micros (s : State) : Nat := s.reference / Config.ticksPerUs
/-- The grant of each die from a number on: what is asked for it, at most its ceiling in silicon and what the dies before it
have left of the budget (R396, R398). -/
def grantsFrom (asked : List (Nat × Nat)) : Nat → Nat → Nat → List (Nat × Nat)
  | 0, _, _ => []
  | k + 1, n, left =>
    let g := min (min (Sparse.get 0 asked n) (Config.dieCeiling n)) left
    (n, g) :: grantsFrom asked k (n + 1) (left - g)
/-- The step that the arbiter asks of a compute die: one down while its demand exceeds its grant, one up while it fits with
margin (R398). -/
def nextStep (p : PowerInput) (n w : Nat) : Nat :=
  if p.short.contains n then min (w + 1) 3 else if p.margin.contains n then w - 1 else w
/-- A core voltage set, at most its ceiling in silicon (R396). -/
def State.setVolts (s : State) (v : Nat × Nat) : State := s.setDie v.1 { s.die v.1 with volts := min v.2 Config.voltCeiling }
/-- The best-effort admission of a compute die whose demand exceeds its grant at 235 MHz is delayed, from the arbitration
on that finds it so (R398). -/
def State.slowDown (s : State) (p : PowerInput) (n : Nat) : State :=
  let d := s.die n
  let slow := p.short.contains n && d.step == 3
  if slow && !d.slow then (s.setDie n { d with slow := true }).delayAdmit n else s.setDie n { d with slow := slow }
/-- The grants of one microsecond within the budget, the voltages, and a step down or up asked of each compute die whose
demand calls for it. Log 13, DESIGN CHOICE. -/
def State.arbitrate (s : State) (p : PowerInput) : State :=
  let s : State := { s with mod := { s.mod with granted := s.micros + 1 } }
  let s := (grantsFrom p.grants grantDies 0 s.mod.budget).foldl (fun s g => s.setDie g.1 { s.die g.1 with grant := g.2 }) s
  let s := (p.volts.filter (·.1 < 24)).foldl State.setVolts s
  let s := (List.range 24).foldl (fun s n => s.slowDown p n) s
  (List.range 24).foldl (fun s n =>
    let d := s.die n
    if nextStep p n d.wanted != d.wanted then s.setDie n { d with asked := d.asked ++ [nextStep p n d.wanted] } else s) s
/-- The arbiter grants once in a microsecond. -/
def execPowerArbitration (d : PowerInput) (s : State) : Result :=
  whenever (s.booted && s.mod.granted ≤ s.micros) s (·.arbitrate d)
/-- The clearings and zeroings of a core keep the core cycles that they have still to run, at a new period (R21, R166). -/
def Core.rescale (k : Core) (now old new : Nat) : Core :=
  let end_ (running : Bool) (e : Nat) : Nat := if running && now < e then now + ((e - now) * new + old - 1) / old else e
  { k with
    tileOwn := k.tileOwn.map fun o => (o.1, { o.2 with ends := end_ o.2.clearing o.2.ends })
    slotOwn := k.slotOwn.map fun o => (o.1, { o.2 with ends := end_ o.2.clearing o.2.ends })
    regions := k.regions.map fun g => (g.1, { g.2 with ends := end_ g.2.zeroing g.2.ends }) }
/-- The clock step of a die changes, and with it the real time that the core cycles to come take. -/
def State.setStep (s : State) (die step : Nat) : State :=
  let period (n : Nat) : Nat := Config.corePeriod n
  let old := (s.die die).step
  let t : State :=
    { s with cores := s.cores.map fun (i, k) => (i, if dieOf i == die then k.rescale s.now (period old) (period step) else k) }
  t.setDie die { s.die die with step := step, asked := [] }
/-- The steps asked for apply in order at a core-cycle boundary, so that the last one stands. -/
def execThrottleStep (die : Nat) (s : State) : Result :=
  whenever (!(s.die die).asked.isEmpty) s fun s => s.setStep die (s.die die).wanted

/-- The link in the other direction; none off the mesh. -/
def oppositeLink (l : Nat) : Option Nat :=
  let c := l / 4
  let x := coreX c
  let y := coreY c
  match l % 4 with
  | 0 => if x + 1 < 48 then some (linkId (coreAt (x + 1) y) 1) else none
  | 1 => if 0 < x then some (linkId (coreAt (x - 1) y) 0) else none
  | 2 => if y + 1 < 16 then some (linkId (coreAt x (y + 1)) 3) else none
  | _ => if 0 < y then some (linkId (coreAt x (y - 1)) 2) else none
/-- A link between two dies, with the link in its other direction. -/
def dieLink (l : Nat) : Option Nat :=
  (oppositeLink l).filter fun o => l / 4 < 768 && dieOf (l / 4) != dieOf (o / 4)
/-- A die-to-die link narrowed, unless a slot from 32 to 59 is reserved in either direction. -/
def State.narrowLink (s : State) (l : Nat) : State :=
  match dieLink l with
  | none => s
  | some o =>
    if s.reserved.any fun x => (x.link == l || x.link == o) && 32 ≤ x.slot then s.emit srcPower 0 evPower 0 0 [l] none
    else { s with narrow := (s.narrow.filter fun x => x != l && x != o) ++ [l, o] }
/-- A narrowing asked for may be judged: its microsecond is over, with every launch accepted in it, and the frequency
changes asked of the dies at its ends have applied (R399). -/
def State.narrowDue (s : State) (l : Nat) : Bool :=
  s.narrowAsked.any fun x => x.1 == l && x.2 < s.micros
    && [l, (dieLink l).getD l].all fun e => (s.die (dieOf (e / 4))).asked.isEmpty
/-- LINK NARROW: the request of a microsecond is held, and judged once it may be. Log 63, DESIGN CHOICE. -/
def execLinkNarrow (link : Nat) (s : State) : Result :=
  .next (if s.narrowDue link then
      State.narrowLink { s with narrowAsked := s.narrowAsked.filter (·.1 != link) } link
    else if s.booted && (dieLink link).isSome && !(s.narrowAsked.any (·.1 == link)) then
      { s with narrowAsked := s.narrowAsked ++ [(link, s.micros)] }
    else s)

end Sys2Proof.Machine
end

