-- ==== Sys2Proof/Machine/Dispatch.lean ====
section
/-! DEFINITION. The dispatch of an instruction or a step of the machine to its meaning. -/
namespace Sys2Proof.Machine

/-- The meaning of an instruction word or of a step of the machine. -/
def exec (i : Instr) (s : State) : Host.Outcome State Fault Refusal :=
  match i with
  | .nop g f => Sys2Proof.Machine.execNop g f s
  | .br g f => Sys2Proof.Machine.execBr g f s
  | .brc g f => Sys2Proof.Machine.execBrc g f s
  | .brm g f => Sys2Proof.Machine.execBrm g f s
  | .pbr g f => Sys2Proof.Machine.execPbr g f s
  | .brt g f => Sys2Proof.Machine.execBrt g f s
  | .jtb g f => Sys2Proof.Machine.execJtb g f s
  | .lpad g f => Sys2Proof.Machine.execLpad g f s
  | .call g f => Sys2Proof.Machine.execCall g f s
  | .ret g f => Sys2Proof.Machine.execRet g f s
  | .lseq g f => Sys2Proof.Machine.execLseq g f s
  | .lbr g f => Sys2Proof.Machine.execLbr g f s
  | .tfence g f => Sys2Proof.Machine.execTfence g f s
  | .pmark g f => Sys2Proof.Machine.execPmark g f s
  | .fence g f => Sys2Proof.Machine.execFence g f s
  | .yield g f => Sys2Proof.Machine.execYield g f s
  | .twait g f => Sys2Proof.Machine.execTwait g f s
  | .trap g f => Sys2Proof.Machine.execTrap g f s
  | .svc g f => Sys2Proof.Machine.execSvc g f s
  | .tend g f => Sys2Proof.Machine.execTend g f s
  | .add g f => Sys2Proof.Machine.execAdd g f s
  | .sub g f => Sys2Proof.Machine.execSub g f s
  | .mul g f => Sys2Proof.Machine.execMul g f s
  | .mulh g f => Sys2Proof.Machine.execMulh g f s
  | .div g f => Sys2Proof.Machine.execDiv g f s
  | .rem g f => Sys2Proof.Machine.execRem g f s
  | .and g f => Sys2Proof.Machine.execAnd g f s
  | .or g f => Sys2Proof.Machine.execOr g f s
  | .xor g f => Sys2Proof.Machine.execXor g f s
  | .andn g f => Sys2Proof.Machine.execAndn g f s
  | .shl g f => Sys2Proof.Machine.execShl g f s
  | .shr g f => Sys2Proof.Machine.execShr g f s
  | .sra g f => Sys2Proof.Machine.execSra g f s
  | .rotl g f => Sys2Proof.Machine.execRotl g f s
  | .clz g f => Sys2Proof.Machine.execClz g f s
  | .popc g f => Sys2Proof.Machine.execPopc g f s
  | .min g f => Sys2Proof.Machine.execMin g f s
  | .max g f => Sys2Proof.Machine.execMax g f s
  | .cmp g f => Sys2Proof.Machine.execCmp g f s
  | .sel g f => Sys2Proof.Machine.execSel g f s
  | .pand g f => Sys2Proof.Machine.execPand g f s
  | .por g f => Sys2Proof.Machine.execPor g f s
  | .pxor g f => Sys2Proof.Machine.execPxor g f s
  | .pnot g f => Sys2Proof.Machine.execPnot g f s
  | .mfs g f => Sys2Proof.Machine.execMfs g f s
  | .mts g f => Sys2Proof.Machine.execMts g f s
  | .mtsSticky g f => Sys2Proof.Machine.execMtsSticky g f s
  | .mtsPend g f => Sys2Proof.Machine.execMtsPend g f s
  | .regrelWrite g f => Sys2Proof.Machine.execRegrelWrite g f s
  | .tinvcStart g f => Sys2Proof.Machine.execTinvcStart g f s
  | .time g f => Sys2Proof.Machine.execTime g f s
  | .lea g f => Sys2Proof.Machine.execLea g f s
  | .movi g f => Sys2Proof.Machine.execMovi g f s
  | .moviHi g f => Sys2Proof.Machine.execMoviHi g f s
  | .addi g f => Sys2Proof.Machine.execAddi g f s
  | .andi g f => Sys2Proof.Machine.execAndi g f s
  | .ori g f => Sys2Proof.Machine.execOri g f s
  | .xori g f => Sys2Proof.Machine.execXori g f s
  | .shli g f => Sys2Proof.Machine.execShli g f s
  | .shri g f => Sys2Proof.Machine.execShri g f s
  | .srai g f => Sys2Proof.Machine.execSrai g f s
  | .cmpi g f => Sys2Proof.Machine.execCmpi g f s
  | .ldb g f => Sys2Proof.Machine.execLdb g f s
  | .ldh g f => Sys2Proof.Machine.execLdh g f s
  | .ldw g f => Sys2Proof.Machine.execLdw g f s
  | .ldd g f => Sys2Proof.Machine.execLdd g f s
  | .stb g f => Sys2Proof.Machine.execStb g f s
  | .sth g f => Sys2Proof.Machine.execSth g f s
  | .stw g f => Sys2Proof.Machine.execStw g f s
  | .std g f => Sys2Proof.Machine.execStd g f s
  | .vld g f => Sys2Proof.Machine.execVld g f s
  | .vst g f => Sys2Proof.Machine.execVst g f s
  | .vlds g f => Sys2Proof.Machine.execVlds g f s
  | .vsts g f => Sys2Proof.Machine.execVsts g f s
  | .cld g f => Sys2Proof.Machine.execCld g f s
  | .cst g f => Sys2Proof.Machine.execCst g f s
  | .rwr g f => Sys2Proof.Machine.execRwr g f s
  | .rws g f => Sys2Proof.Machine.execRws g f s
  | .ldnb g f => Sys2Proof.Machine.execLdnb g f s
  | .stva g f => Sys2Proof.Machine.execStva g f s
  | .rwva g f => Sys2Proof.Machine.execRwva g f s
  | .sarr g f => Sys2Proof.Machine.execSarr g f s
  | .swait g f => Sys2Proof.Machine.execSwait g f s
  | .sacq g f => Sys2Proof.Machine.execSacq g f s
  | .srel g f => Sys2Proof.Machine.execSrel g f s
  | .sset g f => Sys2Proof.Machine.execSset g f s
  | .saeq g f => Sys2Proof.Machine.execSaeq g f s
  | .saef g f => Sys2Proof.Machine.execSaef g f s
  | .vadd g f => Sys2Proof.Machine.execVadd g f s
  | .vsub g f => Sys2Proof.Machine.execVsub g f s
  | .vmul g f => Sys2Proof.Machine.execVmul g f s
  | .vmin g f => Sys2Proof.Machine.execVmin g f s
  | .vmax g f => Sys2Proof.Machine.execVmax g f s
  | .vand g f => Sys2Proof.Machine.execVand g f s
  | .vor g f => Sys2Proof.Machine.execVor g f s
  | .vxor g f => Sys2Proof.Machine.execVxor g f s
  | .vlut3 g f => Sys2Proof.Machine.execVlut3 g f s
  | .vshl g f => Sys2Proof.Machine.execVshl g f s
  | .vshr g f => Sys2Proof.Machine.execVshr g f s
  | .vfsh g f => Sys2Proof.Machine.execVfsh g f s
  | .vpopc g f => Sys2Proof.Machine.execVpopc g f s
  | .vclz g f => Sys2Proof.Machine.execVclz g f s
  | .vrot g f => Sys2Proof.Machine.execVrot g f s
  | .vperm g f => Sys2Proof.Machine.execVperm g f s
  | .vbcast g f => Sys2Proof.Machine.execVbcast g f s
  | .vsel g f => Sys2Proof.Machine.execVsel g f s
  | .vcmp g f => Sys2Proof.Machine.execVcmp g f s
  | .vfadd g f => Sys2Proof.Machine.execVfadd g f s
  | .vfsub g f => Sys2Proof.Machine.execVfsub g f s
  | .vfmul g f => Sys2Proof.Machine.execVfmul g f s
  | .vfma g f => Sys2Proof.Machine.execVfma g f s
  | .vfmin g f => Sys2Proof.Machine.execVfmin g f s
  | .vfmax g f => Sys2Proof.Machine.execVfmax g f s
  | .vfdiv g f => Sys2Proof.Machine.execVfdiv g f s
  | .vfsqrt g f => Sys2Proof.Machine.execVfsqrt g f s
  | .vfabs g f => Sys2Proof.Machine.execVfabs g f s
  | .vfneg g f => Sys2Proof.Machine.execVfneg g f s
  | .vcvt g f => Sys2Proof.Machine.execVcvt g f s
  | .vrmax g f => Sys2Proof.Machine.execVrmax g f s
  | .vrmin g f => Sys2Proof.Machine.execVrmin g f s
  | .vradd g f => Sys2Proof.Machine.execVradd g f s
  | .mand g f => Sys2Proof.Machine.execMand g f s
  | .mor g f => Sys2Proof.Machine.execMor g f s
  | .mnot g f => Sys2Proof.Machine.execMnot g f s
  | .mpop g f => Sys2Proof.Machine.execMpop g f s
  | .vswt g f => Sys2Proof.Machine.execVswt g f s
  | .vspickStart g f => Sys2Proof.Machine.execVspickStart g f s
  | .vspickScan g f => Sys2Proof.Machine.execVspickScan g f s
  | .vspickFinal g f => Sys2Proof.Machine.execVspickFinal g f s
  | .qclr g f => Sys2Proof.Machine.execQclr g f s
  | .qdot g f => Sys2Proof.Machine.execQdot g f s
  | .qfma g f => Sys2Proof.Machine.execQfma g f s
  | .qadd g f => Sys2Proof.Machine.execQadd g f s
  | .qaddq g f => Sys2Proof.Machine.execQaddq g f s
  | .qneg g f => Sys2Proof.Machine.execQneg g f s
  | .qrnd g f => Sys2Proof.Machine.execQrnd g f s
  | .qsave g f => Sys2Proof.Machine.execQsave g f s
  | .qload g f => Sys2Proof.Machine.execQload g f s
  | .qtst g f => Sys2Proof.Machine.execQtst g f s
  | .qtstNar g f => Sys2Proof.Machine.execQtstNar g f s
  | .qfrom g f => Sys2Proof.Machine.execQfrom g f s
  | .mclaim g f => Sys2Proof.Machine.execMclaim g f s
  | .mrel g f => Sys2Proof.Machine.execMrel g f s
  | .mlda g f => Sys2Proof.Machine.execMlda g f s
  | .mma g f => Sys2Proof.Machine.execMma g f s
  | .mmai g f => Sys2Proof.Machine.execMmai g f s
  | .mlut g f => Sys2Proof.Machine.execMlut g f s
  | .mzero g f => Sys2Proof.Machine.execMzero g f s
  | .msave g f => Sys2Proof.Machine.execMsave g f s
  | .mload g f => Sys2Proof.Machine.execMload g f s
  | .drd g f => Sys2Proof.Machine.execDrd g f s
  | .dsgd g f => Sys2Proof.Machine.execDsgd g f s
  | .dmom g f => Sys2Proof.Machine.execDmom g f s
  | .dpub g f => Sys2Proof.Machine.execDpub g f s
  | .dclr g f => Sys2Proof.Machine.execDclr g f s
  | .kcp g f => Sys2Proof.Machine.execKcp g f s
  | .kcpOpimg g f => Sys2Proof.Machine.execKcpOpimg g f s
  | .kcpn g f => Sys2Proof.Machine.execKcpn g f s
  | .kcpv g f => Sys2Proof.Machine.execKcpv g f s
  | .ktr g f => Sys2Proof.Machine.execKtr g f s
  | .kenc g f => Sys2Proof.Machine.execKenc g f s
  | .krec g f => Sys2Proof.Machine.execKrec g f s
  | .kseal g f => Sys2Proof.Machine.execKseal g f s
  | .ksealUnseal g f => Sys2Proof.Machine.execKsealUnseal g f s
  | .ktab g f => Sys2Proof.Machine.execKtab g f s
  | .kdrain g f => Sys2Proof.Machine.execKdrain g f s
  | .kres g f => Sys2Proof.Machine.execKres g f s
  | .kresDrop g f => Sys2Proof.Machine.execKresDrop g f s
  | .knmc g f => Sys2Proof.Machine.execKnmc g f s
  | .kcol g f => Sys2Proof.Machine.execKcol g f s
  | .kcan g f => Sys2Proof.Machine.execKcan g f s
  | .ktsk g f => Sys2Proof.Machine.execKtsk g f s
  | .gstep g f => Sys2Proof.Machine.execGstep g f s
  | .gmask g f => Sys2Proof.Machine.execGmask g f s
  | .tretResume c => Sys2Proof.Machine.execTretResume c s
  | .tretSuspend c => Sys2Proof.Machine.execTretSuspend c s
  | .tretKill c => Sys2Proof.Machine.execTretKill c s
  | .pendingRelease core tile n => Sys2Proof.Machine.execPendingRelease core tile n s
  | .groupFetch c => Sys2Proof.Machine.execGroupFetch c s
  | .blockedGroupIssue c => Sys2Proof.Machine.execBlockedGroupIssue c s
  | .resultLanding c => Sys2Proof.Machine.execResultLanding c s
  | .arrayResultLanding c => Sys2Proof.Machine.execArrayResultLanding c s
  | .tileClearDone core n => Sys2Proof.Machine.execTileClearDone core n s
  | .slotClearDone core n => Sys2Proof.Machine.execSlotClearDone core n s
  | .regionZeroDone core n => Sys2Proof.Machine.execRegionZeroDone core n s
  | .saeRunApply c => Sys2Proof.Machine.execSaeRunApply c s
  | .remoteWriteArrival c id => Sys2Proof.Machine.execRemoteWriteArrival c id s
  | .timedWritePerform core id => Sys2Proof.Machine.execTimedWritePerform core id s
  | .lateNoticeArrival id => Sys2Proof.Machine.execLateNoticeArrival id s
  | .releaseMessageArrival id => Sys2Proof.Machine.execReleaseMessageArrival id s
  | .gateOpen c id => Sys2Proof.Machine.execGateOpen c id s
  | .commandStart core id => Sys2Proof.Machine.execCommandStart core id s
  | .copyUnitTransfer core id => Sys2Proof.Machine.execCopyUnitTransfer core id s
  | .commandComplete core id => Sys2Proof.Machine.execCommandComplete core id s
  | .dictSlotSwitch core id => Sys2Proof.Machine.execDictSlotSwitch core id s
  | .kcpvVersionReached core id => Sys2Proof.Machine.execKcpvVersionReached core id s
  | .acquireReferenceSatisfied id => Sys2Proof.Machine.execAcquireReferenceSatisfied id s
  | .nmcCommandAccept id => Sys2Proof.Machine.execNmcCommandAccept id s
  | .reductionCommand stack => Sys2Proof.Machine.execReductionCommand stack s
  | .updateRow stack => Sys2Proof.Machine.execUpdateRow stack s
  | .transformCommand stack => Sys2Proof.Machine.execTransformCommand stack s
  | .gazetteerQuery stack => Sys2Proof.Machine.execGazetteerQuery stack s
  | .nmcTimedRelease id => Sys2Proof.Machine.execNmcTimedRelease id s
  | .grammarCommand die => Sys2Proof.Machine.execGrammarCommand die s
  | .collectiveForm n => Sys2Proof.Machine.execCollectiveForm n s
  | .planeInject n party tile => Sys2Proof.Machine.execPlaneInject n party tile s
  | .planeLand n party tile => Sys2Proof.Machine.execPlaneLand n party tile s
  | .cancelReceipt n party => Sys2Proof.Machine.execCancelReceipt n party s
  | .cancelAck n => Sys2Proof.Machine.execCancelAck n s
  | .nodeAccept iod => Sys2Proof.Machine.execNodeAccept iod s
  | .nodeDispatch iod => Sys2Proof.Machine.execNodeDispatch iod s
  | .taskLaunch id => Sys2Proof.Machine.execTaskLaunch id s
  | .taskComplete c => Sys2Proof.Machine.execTaskComplete c s
  | .contextRecordWrite c => Sys2Proof.Machine.execContextRecordWrite c s
  | .restore id => Sys2Proof.Machine.execRestore id s
  | .sliceExpiry c => Sys2Proof.Machine.execSliceExpiry c s
  | .platExpiry c => Sys2Proof.Machine.execPlatExpiry c s
  | .invalidationRequest id die => Sys2Proof.Machine.execInvalidationRequest id die s
  | .invalidationAckSend id die => Sys2Proof.Machine.execInvalidationAckSend id die s
  | .invalidationAck id die => Sys2Proof.Machine.execInvalidationAck id die s
  | .submitNode port tenant v => Sys2Proof.Machine.execSubmitNode port tenant v s
  | .ownerAcquire port => Sys2Proof.Machine.execOwnerAcquire port s
  | .ownerRelease port => Sys2Proof.Machine.execOwnerRelease port s
  | .moduleBlockWrite port off v => Sys2Proof.Machine.execModuleBlockWrite port off v s
  | .epochWrite port v => Sys2Proof.Machine.execEpochWrite port v s
  | .readySet port v => Sys2Proof.Machine.execReadySet port v s
  | .attestReport port v => Sys2Proof.Machine.execAttestReport port v s
  | .rfree port v => Sys2Proof.Machine.execRfree port v s
  | .hostInvalidate port v => Sys2Proof.Machine.execHostInvalidate port v s
  | .gctlEnable port v => Sys2Proof.Machine.execGctlEnable port v s
  | .gctlDisable port v => Sys2Proof.Machine.execGctlDisable port v s
  | .suspendRequest port v => Sys2Proof.Machine.execSuspendRequest port v s
  | .restoreRequest port v => Sys2Proof.Machine.execRestoreRequest port v s
  | .overflowEvent port => Sys2Proof.Machine.execOverflowEvent port s
  | .hostWriteCompletion port => Sys2Proof.Machine.execHostWriteCompletion port s
  | .portLinkDown port => Sys2Proof.Machine.execPortLinkDown port s
  | .moduleReset b => Sys2Proof.Machine.execModuleReset b s
  | .linkConfiguration link peer => Sys2Proof.Machine.execLinkConfiguration link peer s
  | .ptpMessage rate => Sys2Proof.Machine.execPtpMessage rate s
  | .powerArbitration d => Sys2Proof.Machine.execPowerArbitration d s
  | .throttleStep die => Sys2Proof.Machine.execThrottleStep die s
  | .linkNarrow link => Sys2Proof.Machine.execLinkNarrow link s
  | .hostDeviceMemoryWrite port pa bytes => Sys2Proof.Machine.execHostDeviceMemoryWrite port pa bytes s
  | .meridianCounterStop die => Sys2Proof.Machine.execMeridianCounterStop die s
  | .hostPortLinkUp port kind => Sys2Proof.Machine.execHostPortLinkUp port kind s
  | .gangSliceSwitch => Sys2Proof.Machine.execGangSliceSwitch s
  | .epochApply => Sys2Proof.Machine.execEpochApply s
  | .referenceLoss => Sys2Proof.Machine.execReferenceLoss s
  | .holdoverExpiry => Sys2Proof.Machine.execHoldoverExpiry s

end Sys2Proof.Machine
end

