-- ==== Sys2Proof/Machine/Cycle.lean ====
section
/-! DEFINITION. What a step of the machine is made of (log 4): a core cycle with the words of its group (R86 to R92,
R118, R371), the steps that the machine takes by itself, and the passing of idle time. -/
namespace Sys2Proof.Machine

/-! ### A core cycle -/

/-- A step after another, unless the first stops. -/
def andThen (r : Result) (f : State → Result) : Result :=
  match r with
  | .next s => f s
  | .fault e => .fault e
  | .refused e => .refused e

/-- The word about to be performed: its stop bit and its slot. -/
def State.atWord (s : State) (st : Bool) (slot : Nat) : State := { s with iss := { s.iss with st := st, slot := slot } }
/-- The words of a formed group, one after another. -/
def performWords : List (Instr × Bool × Nat) → State → Result
  | [], s => .next s
  | (i, st, slot) :: ws, s => andThen (exec i (s.atWord st slot)) (performWords ws)

/-- The rest of a cycle in which a context holds the stage: the words of its group, in a context cycle (of a group, or the
bubble group that the flag names) the stores of port 2 after those of the L slots (R180, R210), the count of the cycle, the
results that land, and the next group. -/
def closeCycle (lastBubble bubble : Bool) (s : State) : Result :=
  andThen (performWords s.iss.words s) fun s =>
    let s := if bubble || s.iss.checked then s.drainPort s.cur else s
    andThen (exec (.resultLanding s.cur) s.countGroup) fun s =>
      andThen (exec (.arrayResultLanding s.cur) s) fun s => .next (s.finishGroup lastBubble)

/-- The context whose group a step fetches or issues. -/
def groupOf : Instr → Option CtxRef
  | .groupFetch c | .blockedGroupIssue c => some c
  | _ => none
/-- A context has spent a bubble group from one state to another: its cycle count has risen in one mode. -/
def spentBubble (c : CtxRef) (s t : State) : Bool :=
  (s.ctx c).mode = (t.ctx c).mode && decide ((s.ctx c).clock < (t.ctx c).clock)
/-- A step: a group's fetch or issue goes on to the end of its cycle. -/
def perform (i : Instr) (s : State) : Result :=
  match groupOf i with
  | some c => andThen (exec i s) fun t =>
      closeCycle (s.canRun c && (s.ctx c).blocked.isNone && (s.ctx c).bubbles == 1) (spentBubble c s t) t
  | none => exec i s

/-- One cycle of a core. -/
def coreCycle (core : Nat) (s : State) : Result :=
  let s := s.beginCycle core
  andThen (match s.cycleInstr core with
    | some i => perform i s
    | none => .next s) fun s => .next (s.endCycle core)

/-! ### Steps that the machine takes by itself -/

/-- The step that takes a message; a post is taken with NODE ACCEPT, the completion of a copy with COMMAND COMPLETE. -/
def Message.steps (m : Message) : List Instr :=
  match m.msg with
  | .late _ _ => [.lateNoticeArrival m.id]
  | .release .. => [.releaseMessageArrival m.id]
  | .post => []
  | .inval id die => [.invalidationRequest id die]
  | .ack id die => [.invalidationAck id die]
  | .cancel coll party => [.cancelReceipt coll party]
  | .complete _ => []
def State.messageSteps (s : State) : List Instr :=
  (s.msgs.filter s.messageReady).flatMap Message.steps
    ++ s.invals.flatMap fun v => v.owing.map (Instr.invalidationAckSend v.id)

def State.worldSteps (s : State) : List Instr :=
  (if s.mer.epoch.isSome then [.epochApply] else []) ++ (if s.holdoverOut then [.holdoverExpiry] else [])
    ++ ((List.range 40).filter s.counterOut).map Instr.meridianCounterStop
    ++ (s.dies.filter fun d => !d.2.asked.isEmpty).map (fun d => Instr.throttleStep d.1)
    ++ ((s.narrowAsked.map Prod.fst).filter s.narrowDue).map Instr.linkNarrow
    ++ ((List.range 2).filter s.overflowEnabled).map Instr.overflowEvent
    ++ (if s.gang.any fun g => g.at_ < g.passed s.reference then [.gangSliceSwitch] else [])

def State.schedulerSteps (s : State) : List Instr :=
  ((List.range 4).filter fun i => s.posts.any fun p => p.iod == i && s.postHere p).map Instr.nodeAccept
    ++ ((List.range 4).filter fun i => (s.nextNode i).isSome).map Instr.nodeDispatch
    ++ s.launches.map (fun l => Instr.taskLaunch l.id) ++ s.restores.map (fun q => Instr.restore q.id)

/-- The contexts with a task. -/
def State.tasks (s : State) : List CtxRef :=
  s.cores.flatMap fun k => (k.2.ctxs.filter fun c => c.2.loaded).map fun c => ⟨k.1, c.1⟩
def State.contextSteps (s : State) (r : CtxRef) : List Instr :=
  let c := s.ctx r
  (if c.saving.isSome then [.contextRecordWrite r] else []) ++ (if s.taskEnds r then [.taskComplete r] else [])
    ++ (if s.platOut r then [.platExpiry r] else []) ++ (if s.sliceOut r then [.sliceExpiry r] else [])
    ++ ((c.gates.filter fun g => s.gateOpens r g.id).map fun g => Instr.gateOpen r g.id)
    ++ ((c.rwq.filter fun w => s.arrivalEnabled r w.id).map fun w => Instr.remoteWriteArrival r w.id)

def State.coreSteps (s : State) (core : Nat) (k : Core) : List Instr :=
  ((k.tileOwn.filter fun o => s.releaseReady core true o.1).map fun o => Instr.pendingRelease core true o.1)
    ++ ((k.slotOwn.filter fun o => s.releaseReady core false o.1).map fun o => Instr.pendingRelease core false o.1)
    ++ ((k.tileOwn.filter fun o => o.2.clearing && o.2.ends ≤ s.now).map fun o => Instr.tileClearDone core o.1)
    ++ ((k.slotOwn.filter fun o => o.2.clearing && o.2.ends ≤ s.now).map fun o => Instr.slotClearDone core o.1)
    ++ ((k.regions.filter fun g => g.2.zeroing && g.2.ends ≤ s.now).map fun g => Instr.regionZeroDone core g.1)
    ++ (if k.ctxs.any fun c => c.2.loaded then []
        else match s.dueWrite core with
          | some w => [.timedWritePerform core w.id]
          | none => [])

def Cmd.steps (k : Cmd) : List Instr :=
  let core := (k.ctx.map (·.core)).getD 0
  match k.state with
  | .queued => [.commandStart core k.id]
  | .running =>
    [.commandStart core k.id, .nmcCommandAccept k.id, .acquireReferenceSatisfied k.id, .kcpvVersionReached core k.id, .dictSlotSwitch core k.id,
      .copyUnitTransfer core k.id]
  | .finished => [.nmcTimedRelease k.id, .commandComplete core k.id]
  | .stopped _ _ => [.commandComplete core k.id]
/-- Log 54, DESIGN CHOICE. -/
def State.engineSteps (s : State) : List Instr :=
  s.cmds.flatMap Cmd.steps
    ++ (s.complexes.flatMap fun h =>
      if h.2.units.isEmpty then [] else [.reductionCommand h.1, .updateRow h.1, .transformCommand h.1, .gazetteerQuery h.1])
    ++ (s.dies.filter fun d => !d.2.grammar.isEmpty).map fun d => Instr.grammarCommand d.1

/-- Scheduled planes land as the consumer's cycle begins (R339), the others by steps of their own. -/
def Collective.steps (c : Collective) : List Instr :=
  let ps := List.range c.parties.length
  let tiles := List.range (collTiles c.block)
  [.collectiveForm c.id] ++ (ps.flatMap fun p => tiles.flatMap fun t =>
      .planeInject c.id p t :: (if collPt0 c.block == 0 then [.planeLand c.id p t] else []))
    ++ [.cancelAck c.id]

/-- The steps that may be enabled, in the order in which they are tried: at port 2 scatter-accumulate runs come before
copies and remote writes (R210). Log 4, DESIGN CHOICE. -/
def State.ownSteps (s : State) : List Instr :=
  s.messageSteps ++ s.worldSteps ++ (s.tasks.filter s.saeEnabled).map Instr.saeRunApply ++ s.engineSteps ++ s.colls.flatMap Collective.steps ++ s.tasks.flatMap s.contextSteps
    ++ (s.cores.flatMap fun k => s.coreSteps k.1 k.2) ++ s.schedulerSteps
/-- Whether a step changes the state, its clock of free values apart. -/
def changes (s : State) (i : Instr) : Bool :=
  match exec i s with
  | .next t => t != s
  | _ => true
def State.ownStep (s : State) : Option Instr := s.ownSteps.find? (changes s)

/-! ### Which core is next -/

/-- The core with a task whose next cycle comes first, the lowest among equals. -/
def State.nextCore (s : State) : Option Nat :=
  ((s.cores.filter fun k => k.2.ctxs.any fun c => c.2.loaded).foldl (fun (best : Option (Nat × Nat)) k =>
    match best with
    | none => some (k.1, k.2.nextAt)
    | some b => if k.2.nextAt < b.2 then some (k.1, k.2.nextAt) else some b) none).map Prod.fst

/-- The instants to come at which a flit of a flow of a running copy's task arrives (R279, R285). -/
def State.slotInstants (s : State) (k : Cmd) : List Nat :=
  match k.ctx with
  | some r =>
    if k.state = .running && k.instr.any isCopy then
      (((s.ctx r).task.map Task.flows).getD []).zipIdx.map fun x =>
        let n := s.flowCycles x.1
        (slotFrom (s.injections r x.2) (max (max k.since (Sparse.get 0 (s.ctx r).flowAt x.2)) (s.fabric + 1 - n)) + n)
          * Config.fabricPeriod
    else []
  | none => []
/-- The first instant after now and before another at which a remote write, a message or a flit of a copy arrives, or a plane
finds its slot (R281, R285, R340). -/
def State.nextArrival (s : State) (bound : Nat) : Option Nat :=
  ((s.tasks.flatMap fun r => (s.ctx r).rwq.map RemoteWrite.ready) ++ (s.msgs.filter Message.sent).map Message.ready
    ++ s.cmds.flatMap s.slotInstants ++ s.colls.flatMap s.planeInstants).foldl (fun best t =>
      if s.now < t && t < bound && best.all (t < ·) then some t else best) none
/-- The steps that come next. -/
def State.setAgenda (s : State) (is : List (Option Instr)) : State := { s with agenda := is }
/-- Time passes to the next arrival, if one comes first; else the next core cycle runs; else a fabric cycle passes. -/
def State.passTime (s : State) : Result :=
  match s.nextCore with
  | some core =>
    (match s.nextArrival (s.core core).nextAt with
      | some t => .next (s.advance t)
      | none => coreCycle core s)
  | none => .next (s.advance ((s.nextArrival (s.now + Config.fabricPeriod)).getD (s.now + Config.fabricPeriod)))
/-- A core whose cycle is due has yet to make it. -/
def State.cycleDue (s : State) : Bool := s.cores.any fun k => !k.2.cycleMade s.now
/-- One step of the module: the head of the agenda; else a core cycle that is due, before what reaches port 2 in it (R210);
else a step that the machine takes by itself; else time passes. Log 4, DESIGN CHOICE. -/
def State.advanceOne (s : State) : Result :=
  match s.agenda with
  | some i :: rest => perform i (s.setAgenda rest)
  | none :: rest => (s.setAgenda rest).passTime
  | [] =>
    if s.cycleDue then s.passTime
    else match s.ownStep with
      | some i => perform i s
      | none => s.passTime

/-! ### Placing one instruction word -/

/-- A task on core 0, context 0 for a word placed there. -/
def placedTask : Task :=
  { node := 0, tenant := 0, prio := 0, num := 0, slice := 0, plat := 0, ckpt := false, regions := 0, flows := [], res := 0 }
/-- A context about to fetch its program's group at address 0. -/
def Ctx.atZero (c : Ctx) : Ctx :=
  { c with
    task := some (c.task.getD placedTask), starting := false, ending := false, mode := .program, pc := 0, bubbles := 0
    blocked := none, pad := none, tret := none, saving := none, kend := false }
/-- Tables of a tenant that map address 0: its root at 0, a table at 8,192, and a leaf of 512 MiB at 2^29. -/
def State.mapZero (s : State) (tenant : Nat) : State :=
  let m := (s.mem.store 0 (natBytes 8 0x2001)).store 0x2000 (natBytes 8 0x20000007)
  { s.setBlockReg (0x040 + 8 * tenant) 1 with mem := m }
/-- A word, with its stop bit set, stored where core 0, context 0 fetches next. Log 3, DESIGN CHOICE. -/
def State.placeWord (s : State) (w : BitVec 64) : State :=
  let r : CtxRef := ⟨0, 0⟩
  let s := s.modCtx r Ctx.atZero
  let s := (s.mapZero (s.tenantOf r)).setDie 0 { s.die 0 with tcache := [], pcache := [] }
  { s with
    mem := s.mem.store 0x20000000 (bytesOfWord (w ||| 0x8000000000000000#64))
    gang := none, agenda := some (.groupFetch r) :: s.agenda }

end Sys2Proof.Machine
end

