-- ==== Sys2Proof/Machine/Step.lean ====
section
/-! DEFINITION. The step of the module, and the placing of one instruction word for the next step. -/
namespace Sys2Proof.Machine

/-- One step (log 4). -/
def step (s : State) : Host.Outcome State Fault Refusal := s.advanceOne

/-- The state with one instruction word where the next step fetches it (log 3, DESIGN CHOICE). -/
def State.withFetchWord (s : State) (nbits w : Nat) : State := s.placeWord (BitVec.ofNat 64 (w % 2 ^ nbits))

end Sys2Proof.Machine
end

