-- ==== Sys2Proof/Safety.lean ====
section
/-! DEFINITION. What a safe run is, and the terms that the statements about the machine use. -/
namespace Sys2Proof.Machine

/-- A step answers a next state. -/
def Runs (s : State) : Prop := ∃ t, step s = .next t

/-- The word of an instruction is performed once its checks pass: its guard holds (R59), and its group has passed its
checks or, by itself, the mode accepts it. -/
def Goes (i : Instr) (g : Guard) (s : State) : Prop :=
  s.me.guard g = true ∧ (s.iss.checked = true ∨ acceptedIn s.me.mode i = true)

/-- The reserved opcodes of each class, as R72 to R79 list them: first and last of each run. -/
def reservedOps : Nat → List (Nat × Nat)
  | 0 => [(0x00, 0x00), (0x0B, 0x0F), (0x12, 0x17), (0x1D, 0x1F), (0x23, 0xFF)]
  | 1 => [(0x00, 0x00), (0x07, 0x07), (0x16, 0x17), (0x1C, 0x1F), (0x23, 0x27), (0x29, 0x2E), (0x30, 0x40), (0x42, 0x47),
      (0x4B, 0x4B), (0x4F, 0x53), (0x55, 0xFF)]
  | 2 => [(0x00, 0x00), (0x0D, 0x0F), (0x14, 0x17), (0x1B, 0x1F), (0x25, 0x27), (0x2A, 0xFF)]
  | 3 => [(0x00, 0x00), (0x06, 0x07), (0x0F, 0x0F), (0x12, 0x17), (0x1D, 0x1F), (0x2A, 0x2B), (0x2D, 0x2F), (0x33, 0x37),
      (0x3C, 0x3F), (0x42, 0xFF)]
  | 4 => [(0x00, 0x00), (0x0C, 0xFF)]
  | 5 => [(0x00, 0x00), (0x0A, 0xFF)]
  | 6 => [(0x00, 0x00), (0x05, 0x07), (0x0C, 0x0F), (0x12, 0x17), (0x1C, 0x1F), (0x22, 0xFF)]
  | 7 => [(0x00, 0x00), (0x06, 0xFF)]
  | _ => []

/-! ### Operands in range -/

/-- The n bytes from a lie in scratchpad data, and the running context owns each of their regions, none of them being
zeroed (R209, R214). -/
def OwnScratch (s : State) (a n : Nat) : Prop :=
  a + n ≤ scratchEnd ∧ ∀ b, a ≤ b → b < a + n →
    (s.here.region (regionOf b)).owner = some s.cur.ctx ∧ (s.here.region (regionOf b)).zeroing = false
/-- No FENCE of the running context has a closed gate (R304). -/
def NoGate (s : State) : Prop := s.closedGates s.cur = []
/-- Every 4 KiB block of a local range is RAW (R262). -/
def AllRaw (s : State) (a n : Nat) : Prop := ∀ b, a ≤ b → b < a + n → s.localRelief s.cur.core b = 0
/-- The n bytes from a lie in cluster windows of the running context (R217). -/
def OwnCluster (s : State) (a n : Nat) : Prop := s.me.inCluster a n = true

/-- The condition codes of R64 on 64-bit words. -/
def CondHolds (code : Nat) (a b : Word) : Prop :=
  (code = 0 ∧ a = b) ∨ (code = 1 ∧ a ≠ b) ∨ (code = 2 ∧ a.toInt < b.toInt) ∨ (code = 3 ∧ a.toInt ≤ b.toInt)
    ∨ (code = 4 ∧ b.toInt < a.toInt) ∨ (code = 5 ∧ b.toInt ≤ a.toInt) ∨ (code = 6 ∧ a.toNat < b.toNat)
    ∨ (code = 7 ∧ a.toNat ≤ b.toNat) ∨ (code = 8 ∧ b.toNat < a.toNat) ∨ (code = 9 ∧ b.toNat ≤ a.toNat)

/-! ### Lanes (R140 to R142) -/

/-- Lane n of width w of a vector, as a word. -/
def laneAt (w : Nat) (v : BitVec 1024) (n : Nat) : Nat := (v.extractLsb' (w * n) w).toNat
/-- Lane n of width w of a vector, as the integer of a signed or unsigned format. -/
def laneNum (signed : Bool) (w : Nat) (v : BitVec 1024) (n : Nat) : Int :=
  if signed then (v.extractLsb' (w * n) w).toInt else ((v.extractLsb' (w * n) w).toNat : Int)
/-- Lane n is enabled by the mask that MSK names (R141). -/
def Enabled (s : State) (f : FmtA) (w n : Nat) : Prop := (s.me.mr f.msk.toNat).getLsbD (w / 8 * n) = true
/-- An instruction answers a next state in which one vector result is in flight to v[d]: it will write the lanes that a
test selects and no other, and each of these lanes meets a rule. -/
def WritesLanes (i : Instr) (s : State) (lat d w : Nat) (sel : Nat → Prop) (rule : Nat → Nat → Prop) (fl : Flags) : Prop :=
  ∃ val we, exec i s = .next (s.put lat (.v d val we) fl)
    ∧ (∀ j, j < 128 → (we.getLsbD j = true ↔ sel (j / (w / 8))))
    ∧ ∀ n, n < 1024 / w → sel n → rule n (laneAt w val n)
/-- The conditions of R64 on an order: less, equal, and less without sign. -/
def OrderHolds (code : Nat) (lt eq ltu : Prop) : Prop :=
  (code = 0 ∧ eq) ∨ (code = 1 ∧ ¬eq) ∨ (code = 2 ∧ lt) ∨ (code = 3 ∧ (lt ∨ eq)) ∨ (code = 4 ∧ ¬lt ∧ ¬eq) ∨ (code = 5 ∧ ¬lt)
    ∨ (code = 6 ∧ ltu) ∨ (code = 7 ∧ (ltu ∨ eq)) ∨ (code = 8 ∧ ¬ltu ∧ ¬eq) ∨ (code = 9 ∧ ¬ltu)

/-- What an IEEE operation gives before its one rounding, and flags that it sets, for each kind of operands (R34, R152):
NaNs, infinities, zeros with their signs, and the exact real result otherwise. -/
inductive IeeeGives : RealOp → List Val → Val → Flags → Prop
  | nan {op xs v} : v ∈ xs → v.isNan = true → IeeeGives op xs (.nan false) Flags.none
  | signals {op xs v} : v ∈ xs → v.isSignalling = true → IeeeGives op xs (.nan false) Flags.nv
  | sumInf {t x y} : (x = .inf t ∧ (y = .inf t ∨ y.real?.isSome = true)) ∨ (x.real?.isSome = true ∧ y = .inf t) →
      IeeeGives .add [x, y] (.inf t) Flags.none
  | sumInvalid {t} : IeeeGives .add [.inf t, .inf (!t)] (.nan false) Flags.nv
  | sumReal {x y p q} : x.real? = some p → y.real? = some q → x ≠ .negZero ∨ y ≠ .negZero →
      IeeeGives .add [x, y] (.real (p.add q)) Flags.none
  | sumNegZero : IeeeGives .add [.negZero, .negZero] .negZero Flags.none
  | difference {x y r fl} : IeeeGives .add [x, y.neg] r fl → IeeeGives .sub [x, y] r fl
  | productInvalid {x y} : (x.isInf = true ∧ y.isZero = true) ∨ (x.isZero = true ∧ y.isInf = true) →
      IeeeGives .mul [x, y] (.nan false) Flags.nv
  | productInf {x y} : (x.isInf = true ∧ y.isNan = false ∧ y.isZero = false) ∨
      (x.isNan = false ∧ x.isZero = false ∧ y.isInf = true) → x ≠ .nar → y ≠ .nar →
      IeeeGives .mul [x, y] (.inf (xor x.sign y.sign)) Flags.none
  | productZero {x y} : (x.isZero = true ∧ y.real?.isSome = true) ∨ (x.real?.isSome = true ∧ y.isZero = true) →
      IeeeGives .mul [x, y] (zeroOf (xor x.sign y.sign)) Flags.none
  | productReal {p q} : p.isZero = false → q.isZero = false →
      IeeeGives .mul [.real p, .real q] (.real (p.mul q)) Flags.none
  | quotientInvalid {x y} : (x.isInf = true ∧ y.isInf = true) ∨ (x.isZero = true ∧ y.isZero = true) →
      IeeeGives .div [x, y] (.nan false) Flags.nv
  | quotientInf {x y} : x.isInf = true → y.real?.isSome = true → IeeeGives .div [x, y] (.inf (xor x.sign y.sign)) Flags.none
  | quotientOfInf {x y} : x.real?.isSome = true → y.isInf = true →
      IeeeGives .div [x, y] (zeroOf (xor x.sign y.sign)) Flags.none
  | divisionByZero {p y} : p.isZero = false → y.isZero = true →
      IeeeGives .div [.real p, y] (.inf (xor p.isNeg y.sign)) Flags.dz
  | quotientZero {x q} : x.isZero = true → q.isZero = false →
      IeeeGives .div [x, .real q] (zeroOf (xor x.sign q.isNeg)) Flags.none
  | quotientReal {p q} : p.isZero = false → q.isZero = false → IeeeGives .div [.real p, .real q] (.real (p.div q)) Flags.none
  | rootInvalid {x} : x.sign = true → x ≠ .negZero → IeeeGives .sqrt [x] (.nan false) Flags.nv
  | rootKeeps {x} : x = .negZero ∨ x = .inf false → IeeeGives .sqrt [x] x Flags.none
  | rootReal {p} : p.isNeg = false → IeeeGives .sqrt [.real p] (.real p.sqrtRep) Flags.none
  | fusedInvalid {x y z} : (x.isInf = true ∧ y.isZero = true) ∨ (x.isZero = true ∧ y.isInf = true) →
      IeeeGives .fma [x, y, z] (.nan false) Flags.nv
  | fused {x y z p r fl fl'} : IeeeGives .mul [x, y] p fl → p.isNan = false → z.isNan = false → IeeeGives .add [p, z] r fl' →
      IeeeGives .fma [x, y, z] r (fl ||| fl')

/-! ### Quires, tiles and slots (R30, R32, R165, R189) -/

/-- What adding a multiple of 2^−240, or a NaR, to a quire answers (R32): a quire in the NaR state stays, a NaR enters the
NaR state with NARF, a sum in range is exact, and one out of range enters the NaR state with QOV. -/
def QuireSum (c : Quire) (addend : Option Int) (r : Quire) (fl : Flags) : Prop :=
  match c.nar, addend with
  | true, _ => r = c ∧ fl = Flags.none
  | false, none => r = ⟨true, 0⟩ ∧ fl = Flags.narf
  | false, some n =>
    if -(2 ^ 511) ≤ c.val.toInt + n ∧ c.val.toInt + n < 2 ^ 511
    then r.nar = false ∧ r.val.toInt = c.val.toInt + n ∧ fl = Flags.none
    else r = ⟨true, 0⟩ ∧ fl = Flags.qov
/-- The value of a quire in units of 2^−240; none in the NaR state. -/
def quireUnits (q : Quire) : Option Int := if q.nar then none else some q.val.toInt
/-- A word is the single rounding to a format of a real (R27, R34). -/
def RoundsTo (f : NumFmt) (x : Q) (w : Nat) : Prop :=
  ∃ y : Q, 0 < y.den ∧ y.eqv x = true ∧ w = (roundVal f (.real y)).1
/-- The owner entry of a tile or of a slot of a core. -/
def holderOf (k : Core) (tile : Bool) (n : Nat) : Own := if tile then k.tileOwner n else k.slotOwner n
/-- A tile or slot has no owner, is not being cleared, and has no pending release. -/
def Unowned (k : Core) (tile : Bool) (n : Nat) : Prop :=
  (holderOf k tile n).owner = none ∧ (holderOf k tile n).clearing = false ∧ (holderOf k tile n).release = none
/-- The running context owns a tile or slot of its core. -/
def Owns (s : State) (tile : Bool) (n : Nat) : Prop := (holderOf s.here tile n).owner = some s.cur.ctx

/-! ### Commands -/

/-- Where a command stands; finished where there is none of its number. -/
def State.stateOf (s : State) (id : Nat) : CmdState := ((s.findCmd id).map Cmd.state).getD .finished

/-- After a post has been accepted or refused: a host's changes nothing more, the KTSK that posted it counts it, and has
finished with its last (R361). -/
def PostCounted (p : Post) (k : Cmd) (s t : State) : Prop :=
  (p.cmd = none ∧ t = s) ∨ (p.cmd = some k.id ∧ s.findCmd k.id = some k ∧ t = s.setCmd { k with
    aux := k.aux + 1, done := k.aux + 1, state := if k.cnt ≤ k.aux + 1 then .finished else .running })

/-! ### What stays -/

/-- One byte of a core's local space, as loads and stores see it. -/
def State.localByte (s : State) (core a : Nat) : List Byte := s.localRead core a 1
/-- Every byte of memory stays but those of one core's local space that a test marks. -/
def BytesKept (s t : State) (core : Nat) (stored : Nat → Prop) : Prop :=
  (∀ pa, t.mem.read pa = s.mem.read pa)
    ∧ ∀ k a, (k = core → ¬stored a) → (clusterOf k = clusterOf core → clusterBase ≤ a → ¬stored a) →
        t.localByte k a = s.localByte k a
/-- The registers of every file, as groups read them, but those that a test marks by file and number (R370): 0 x, 1 a,
2 p, 3 v, 4 m, 5 q, 6 b. -/
def RegistersKept (c d : Ctx) (skip : Nat → Nat → Prop) : Prop :=
  ∀ n, (¬skip 0 n → d.x n = c.x n) ∧ (¬skip 1 n → d.a n = c.a n) ∧ (¬skip 2 n → d.p n = c.p n)
    ∧ (¬skip 3 n → d.vr n = c.vr n) ∧ (¬skip 4 n → d.mr n = c.mr n) ∧ (¬skip 5 n → d.qr n = c.qr n)
    ∧ (¬skip 6 n → d.b n = c.b n)
/-- The mode, the addresses and every system register of a context but STICKY and the copies of the b registers. -/
def SpecialsKept (s t : State) (r : CtxRef) : Prop :=
  (t.ctx r).mode = (s.ctx r).mode ∧ (t.ctx r).pc = (s.ctx r).pc ∧ (t.ctx r).hpc = (s.ctx r).hpc
    ∧ ∀ n, n ≠ 0x010 → ¬(0x028 ≤ n ∧ n ≤ 0x02B) → t.sysRead r n = s.sysRead r n
/-- The accumulator tiles, operand slots and sync words of every core, and who owns its tiles, slots and regions. -/
def UnitsKept (s t : State) : Prop :=
  ∀ k, (t.core k).tiles = (s.core k).tiles ∧ (t.core k).slots = (s.core k).slots ∧ (t.core k).sync = (s.core k).sync
    ∧ (t.core k).tileOwn = (s.core k).tileOwn ∧ (t.core k).slotOwn = (s.core k).slotOwn
    ∧ (t.core k).regions = (s.core k).regions
/-- Every other context, every unit and every byte stay. -/
def OnlyContext (s t : State) (r : CtxRef) : Prop :=
  (∀ o, o ≠ r → t.ctx o = s.ctx o) ∧ UnitsKept s t ∧ BytesKept s t 0 (fun _ => False)
/-- The bytes stored, those of a range whose number from its start a test marks. -/
def StoredBytes (a n : Nat) (b : Nat) : Prop := a ≤ b ∧ b < a + n
/-- The bytes of a sync word of a core's sync page. -/
def SyncBytes (n b : Nat) : Prop := StoredBytes (syncAddr n) 8 b
/-- A timed write has been performed at a core: its enabled bytes stand, its sync word has LATE where it was late, and every
other byte and sync word stays (R274, R275). -/
def TimedWriteDone (s t : State) (core : Nat) (w : RemoteWrite) (late : Bool) : Prop :=
  (∀ j, j < w.bytes.length → w.we.getLsbD j = true → t.localByte core (w.addr + j) = [w.bytes.getD j 0])
    ∧ (∀ k n, (t.core k).syncWord n = if late = true ∧ k = core ∧ w.late = some n then (s.core k).syncWord n ||| (1#64 <<< 49)
        else (s.core k).syncWord n)
    ∧ BytesKept s t core fun a => (w.addr ≤ a ∧ a < w.addr + w.bytes.length ∧ w.we.getLsbD (a - w.addr) = true) ∨
        ∃ n, late = true ∧ w.late = some n ∧ SyncBytes n a
/-- The fields SW to M of MDLINFO for one late store (R269). -/
def LateFields (v : Word) (word : Option Nat) (remote : Bool) (module core : Nat) : Prop :=
  v.toNat / 2 ^ 16 % 2 ^ 9 = word.getD 0 ∧ v.getLsbD 25 = word.isSome ∧ v.getLsbD 26 = remote
    ∧ v.toNat / 2 ^ 32 % 2 ^ 6 = core % 48 ∧ v.toNat / 2 ^ 40 % 2 ^ 4 = core / 48 ∧ v.toNat / 2 ^ 44 % 2 ^ 4 = module
/-- A late store counted: MDL is set, COUNT rises to 0xFFFF at most, and the first one fills the other fields (R269, R275). -/
def LateCounted (c d : Ctx) (fields : Word → Prop) : Prop :=
  d.sticky = (c.sticky ||| Flags.mdl) ∧ d.mdlinfo.toNat % 2 ^ 16 = min (c.mdlinfo.toNat % 2 ^ 16 + 1) 0xFFFF
    ∧ (c.mdlinfo.toNat % 2 ^ 16 ≠ 0 → d.mdlinfo.toNat / 2 ^ 16 = c.mdlinfo.toNat / 2 ^ 16)
    ∧ (c.mdlinfo.toNat % 2 ^ 16 = 0 → fields d.mdlinfo)
/-- Global memory, the scratchpad of every core and the SRAM of every cluster are in canonical form (R309, R209, R216). -/
def State.Canonical (s : State) : Prop :=
  s.mem.wf = true ∧ (∀ n, (s.core n).scratch.wf = true) ∧ ∀ n, (s.cluster n).sram.wf = true
/-- Every context stays as it is: registers, flags, special registers, accumulators and saved state. -/
def ContextsKept (s t : State) : Prop := ∀ r, t.ctx r = s.ctx r
/-- The running context but for its results in flight, every other context, every unit and every byte stay. -/
def OnlyInFlight (s t : State) : Prop :=
  t.me = { s.me with line := t.me.line, sline := t.me.sline, kline := t.me.kline }
    ∧ (∀ r, r ≠ s.cur → t.ctx r = s.ctx r) ∧ UnitsKept s t ∧ BytesKept s t 0 (fun _ => False)

end Sys2Proof.Machine
end

