-- ==== Sys2Proof/Certificates/Slice0/Obligations.lean ====
section
/-! DEFINITION. The statements for the provers. -/
open Sys2Proof Sys2Proof.Machine


/-! ### Decoding and encoding (R55, R62, R63 to R79) -/

/-- Words written out from the encodings of R55 and R63 to R79, at least one of each class, and what each stands for. -/
def Obligations.WordsWrittenOutDecode : Prop :=
  -- brc.lt x3, x4, -12
  decodeWord 0x801803105FFFFFF4#64 = .ok (.brc ⟨0, false⟩ { ja := 3, jb := 4, jhi := 0x05FFF, jlo := 0xFFF4 })
    -- fence.kl.l.cluster x4, x5
    ∧ decodeWord 0x80D00010500A2400#64
      = .ok (.fence ⟨0, false⟩
          { dst := 0, opa := 4, opb := 5, aux := 0, fmt := 0x0A, prof := 0x09, sga := false, sgb := false, msk := 0, sub := 0 })
    -- add x3, x2, x4
    ∧ decodeWord 0x8808030840000000#64
      = .ok (.add ⟨0, false⟩
          { dst := 3, opa := 2, opb := 4, aux := 0, fmt := 0, prof := 0, sga := false, sgb := false, msk := 0, sub := 0 })
    -- mts tret, x49
    ∧ decodeWord 0x890800C40000011C#64 = .ok (.mts ⟨0, false⟩ { dst := 0, opa := 49, imm := 0x11C })
    -- ldw x5, a2, x0, 3
    ∧ decodeWord 0x9018051000000680#64
      = .ok (.ldw ⟨0, false⟩ { dt := 5, base := 2, idx := 0, off := 3, sz := 2, msk := 0, lx := 0 })
    -- vadd.i32 v1, v2, v3
    ∧ decodeWord 0x9808010830140000#64
      = .ok (.vadd ⟨0, false⟩
          { dst := 1, opa := 2, opb := 3, aux := 0, fmt := 0x14, prof := 0, sga := false, sgb := false, msk := 0, sub := 0 })
    -- qclr q3
    ∧ decodeWord 0xA008030000000000#64
      = .ok (.qclr ⟨0, false⟩
          { dst := 3, opa := 0, opb := 0, aux := 0, fmt := 0, prof := 0, sga := false, sgb := false, msk := 0, sub := 0 })
    -- mzero t2
    ∧ decodeWord 0xA838100000000000#64
      = .ok (.mzero ⟨0, false⟩
          { tile := 2, osa := 0, osb := 0, prof := 0, sga := false, sgb := false, fmta := 0, fmtb := 0, klen := 0, mx := 0 })
    -- knmc k2, a6, sync 7
    ∧ decodeWord 0xB0C02000C0207000#64
      = .ok (.knmc ⟨0, false⟩
          { ch := 2, tgt := 0, frm := 0, lrec := 6, cnt := 0, intr := false, swe := true, sw := 7, kx := 0 })
    -- dpub x4 at a3
    ∧ decodeWord 0xB8200418000000C0#64
      = .ok (.dpub ⟨0, false⟩ { dt := 4, base := 3, idx := 0, off := 0, sz := 3, msk := 0, lx := 0 })

/-- Encoding then decoding gives back every well-formed instruction, with every operand, under either stop bit. -/
def Obligations.DecodeOfEncode : Prop :=
  ∀ (i : Instr) (st : Bool), i.wfWord = true →
    ∃ w, encodeWord st i = some w ∧ decodeWord w = .ok i ∧ stopBit w = st

/-- Decoding then encoding gives back every word that decodes, bit for bit: no bit of a word is dropped, and no two
words stand for one instruction. -/
def Obligations.EncodeOfDecode : Prop :=
  ∀ (w : BitVec 64) (i : Instr), decodeWord w = .ok i → i.wfWord = true ∧ encodeWord (stopBit w) i = some w

/-- R62 step 2: CL 8 to 15 raises ILG whatever the other fields; a word of class 0 to 7 raises ILL exactly where its OP is
one that R72 to R79 list as reserved for its class; and a word that decodes passes every field check of its instruction. -/
def Obligations.BadWordsAreRefused : Prop :=
  (∀ w : BitVec 64, 8 ≤ (w.extractLsb' 59 4).toNat → decodeWord w = .ilg)
    ∧ (∀ (w : BitVec 64) (cl op : Nat), cl = (w.extractLsb' 59 4).toNat → op = (w.extractLsb' 51 8).toNat → cl < 8 →
        (decodeWord w = .ill ↔ ∃ x ∈ reservedOps cl, x.1 ≤ op ∧ op ≤ x.2))
    ∧ ∀ (w : BitVec 64) (i : Instr), decodeWord w = .ok i → i.wf = true

/-! ### Groups, clearing and releases (R88, R95, R166, R185, R190, R215, R371) -/

/-- GROUP FETCH spends a bubble group that is owed, traps on an address that is no multiple of 8, takes what happens at a
mark before anything else of the group, and otherwise traps on a group that does not decode, then with LPADF at a wrong
pad, and forms a group whose pad and checks hold nothing back; a group between its own bubble groups goes on at its issue checks; BLOCKED GROUP ISSUE forms its
group likewise. A PMARK group with nothing in flight, KIPEND not zero and KIHAND set enters the completion handler before it
issues (R248): KIPEND counts down, the handler issues from KIHAND with its counts at 0, and x60 to x63 read its shadows. Its
YIELD leaves it once its own results have landed, for the group, the registers and the counts that the program had; until
then a cycle is a bubble of the handler. The end of a clearing leaves zeros and an entry that can be owned; a pending release whose cycle has come,
with no result due, takes the owner away and starts the clearing. That a group keeps its words while it blocks, that
the waits of a group come before its traps, and the instant at which a clearing ends are the model's reading (logs 19,
24 and 51). -/
def Obligations.GroupsAndClearing : Prop :=
  ∀ (s : State),
    (∀ c : CtxRef, s.canRun c = true → (s.ctx c).blocked = none →
      ((s.ctx c).bubbles ≠ 0 → exec (.groupFetch c) s =
        .next ((s.focus c).setCtx c { (s.ctx c).tick with bubbles := (s.ctx c).bubbles - 1 })) ∧
      (∀ xs, (s.ctx c).bubbles = 0 → (s.ctx c).tret = none → (s.ctx c).kend = false → (s.ctx c).entered = true →
        xs = s.itemsOf c (s.ctx c).group → (s.focus c).issueChecks xs = .ok →
        exec (.groupFetch c) s = .next ((s.focus c).form c (s.ctx c).group.length xs)) ∧
      ((s.ctx c).bubbles = 0 → (s.ctx c).tret = none → (s.ctx c).kend = false → (s.ctx c).entered = false →
        ((s.ctx c).at_.toNat % 8 ≠ 0 → exec (.groupFetch c) s =
          .next ((s.focus c).takeTrap c (Trap.plain 4 (s.ctx c).at_) (s.ctx c).at_)) ∧
        (∀ ws u, (s.ctx c).at_.toNat % 8 = 0 → (s.focus c).formGroup c (s.ctx c).at_.toNat = (.ok ws, u) →
          (∀ v, u.atMark c ws = some v → exec (.groupFetch c) s = .next v) ∧
          (∀ t, u.atMark c ws = none → decodeGroup (u.ctx c).mode (u.ctx c).at_ ws = .error t →
            exec (.groupFetch c) s = .next (u.takeTrap c t (u.ctx c).at_)) ∧
          (∀ xs, u.atMark c ws = none → decodeGroup (u.ctx c).mode (u.ctx c).at_ ws = .ok xs →
            (padOk (u.ctx c) xs = false → exec (.groupFetch c) s =
              .next (u.takeTrap c (Trap.plain causeLPADF (((u.ctx c).pad.getD (0, 0)).1)) (u.ctx c).at_)) ∧
            (padOk (u.ctx c) xs = true → u.lateChecks xs = .ok →
              exec (.groupFetch c) s = .next (u.form c ws.length xs)))))) ∧
    (∀ c xs, s.canRun c = true → (s.ctx c).blocked ≠ none →
      decodeGroup (s.ctx c).mode (s.ctx c).at_ (s.ctx c).group = .ok xs →
      (s.focus c).atMark c (s.ctx c).group = none → (s.focus c).lateChecks xs = .ok →
      exec (.blockedGroupIssue c) s = .next ((s.focus c).form c (s.ctx c).group.length xs)) ∧
    (∀ c ws u, s.canRun c = true → (s.ctx c).blocked = none → (s.ctx c).bubbles = 0 → (s.ctx c).tret = none →
      (s.ctx c).kend = false → (s.ctx c).entered = false → (s.ctx c).at_.toNat % 8 = 0 →
      (s.focus c).formGroup c (s.ctx c).at_.toNat = (.ok ws, u) → ws.any (wordIs isPmark) = true →
      (u.ctx c).mode = .program → (u.ctx c).line = [] → (u.ctx c).kipend ≠ 0 → (u.ctx c).kihand ≠ 0 →
      ∃ t, exec (.groupFetch c) s = .next t ∧ (t.ctx c).mode = .completion ∧ (t.ctx c).at_ = (u.ctx c).kihand ∧
        (t.ctx c).kipend = (u.ctx c).kipend - 1 ∧ (t.ctx c).kcyc = 0 ∧ (t.ctx c).kgroups = 0 ∧ (t.ctx c).pc = (u.ctx c).pc ∧
        (t.ctx c).ccyc = (u.ctx c).ccyc ∧ (t.ctx c).pmcnt = (u.ctx c).pmcnt ∧
        (∀ n, 60 ≤ n → (t.ctx c).x n = Sparse.get 0 (u.ctx c).shadow n) ∧
        RegistersKept (u.ctx c) (t.ctx c) (fun f n => f = 0 ∧ 60 ≤ n) ∧ OnlyContext u t c) ∧
    (∀ b v, s.iss.checked = true → s.iss.pass = true → s.iss.trap = none → s.me.mode = .completion → v = s.finishGroup b →
      (v.ctx s.cur).pc = s.me.pc ∧ (v.ctx s.cur).ccyc = s.me.ccyc ∧ (v.ctx s.cur).pmcnt = s.me.pmcnt ∧
      (v.ctx s.cur).bank = s.me.bank ∧ (v.ctx s.cur).shadow = s.me.shadow ∧ OnlyContext s v s.cur ∧
      (s.me.kline = [] → s.me.portWaits .completion = false →
        (v.ctx s.cur).mode = .program ∧ (v.ctx s.cur).kend = false ∧ (v.ctx s.cur).at_ = s.me.pc) ∧
      (s.me.kline ≠ [] → (v.ctx s.cur).mode = .completion ∧ (v.ctx s.cur).kend = true)) ∧
    (∀ c, s.canRun c = true → (s.ctx c).blocked = none → (s.ctx c).bubbles = 0 → (s.ctx c).kend = true →
      exec (.groupFetch c) s = .next ((s.focus c).setCtx c (s.ctx c).tick)) ∧
    (∀ v, s.iss.checked = false → s.me.kend = true → s.me.kline = [] → s.me.portWaits .completion = false →
      v = s.finishGroup false → (v.ctx s.cur).mode = .program ∧ (v.ctx s.cur).kend = false ∧
        (v.ctx s.cur).at_ = s.me.pc ∧ (v.ctx s.cur).bank = s.me.bank ∧ OnlyContext s v s.cur) ∧
    (∀ core n tile, (holderOf (s.core core) tile n).clearing = true → n < (if tile then 8 else 64) →
      ∃ t, exec (if tile then .tileClearDone core n else .slotClearDone core n) s = .next t ∧
        (holderOf (t.core core) tile n).clearing = false ∧
        (holderOf (t.core core) tile n).owner = (holderOf (s.core core) tile n).owner ∧
        (∀ k b m, k ≠ core ∨ b ≠ tile ∨ m ≠ n → holderOf (t.core k) b m = holderOf (s.core k) b m) ∧
        (tile = true → ∀ m c, m < 8 → c < 256 →
          (t.core core).cell m c = if m = n then ⟨false, 0⟩ else (s.core core).cell m c) ∧
        (tile = false → ∀ m, (t.core core).slotImg m = if m = n then 0 else (s.core core).slotImg m) ∧
        ContextsKept s t ∧ BytesKept s t 0 (fun _ => False)) ∧
    (∀ core n, n < 16 → ((s.core core).region n).zeroing = true → ∃ t, exec (.regionZeroDone core n) s = .next t ∧
      ((t.core core).region n).zeroing = false ∧ ((t.core core).region n).owner = ((s.core core).region n).owner ∧
      (∀ a, 0x20000 * n ≤ a → a < 0x20000 * (n + 1) → a < scratchEnd →
        t.localByte core a = [0] ∧ t.localRelief core a = 0) ∧
      BytesKept s t core (fun a => 0x20000 * n ≤ a ∧ a < 0x20000 * (n + 1) ∧ a < scratchEnd) ∧ ContextsKept s t) ∧
    (∀ core n tile c r, n < (if tile then 8 else 64) → (holderOf (s.core core) tile n).owner = some c →
      (holderOf (s.core core) tile n).release = some r → r ≤ (s.ctx ⟨core, c⟩).ccyc → (s.ctx ⟨core, c⟩).line = [] →
      ∃ t, exec (.pendingRelease core tile n) s = .next t ∧ (holderOf (t.core core) tile n).owner = none ∧
        (holderOf (t.core core) tile n).clearing = true ∧ (holderOf (t.core core) tile n).release = none ∧
        (∀ k b m, k ≠ core ∨ b ≠ tile ∨ m ≠ n → holderOf (t.core k) b m = holderOf (s.core k) b m) ∧
        ContextsKept s t ∧ BytesKept s t 0 (fun _ => False))

/-! ### What arrives at a core (R226, R227, R235, R269, R275, R276, R301, R304) -/

/-- A scatter-accumulate run whose queue has its turn is one update of its word, for an integer sum the wrapping sum, and
the turn passes on. A remote write that may arrive is performed with its sync arrival, or discarded with a sync-protocol
event of its target core where the target refuses it; a timed write whose turn has come is performed and leaves its
buffer, and one that is late marks the sync word that it names and counts in MDLINFO with MDL, at once for a store of the
core's own context and by a late notice for a remote one (R275). A late notice counts in MDLINFO and sets MDL, a release makes its arrival, and a gate whose snapshot is complete
opens. When a write arrives and where it waits is the model's reading (logs 6, 27 and 28). -/
def Obligations.Deliveries : Prop :=
  ∀ (s : State),
    (∀ c w e vs n v, (s.ctx c).nextRun = some (w, e, vs) → s.saeEnabled c = true → n = szBytes e.sz →
      e.addr + n ≤ scratchEnd → e.addr % n = 0 → s.localRelief c.core e.addr = 0 →
      v = (runValue e (leNat (s.localRead c.core e.addr n)) (vs.map BitVec.toNat)) →
      ∃ t, exec (.saeRunApply c) s = .next t ∧ leNat (t.localRead c.core e.addr n) = v.1 % 2 ^ (8 * n) ∧
        (t.ctx c).sticky = ((s.ctx c).sticky ||| v.2) ∧ BytesKept s t c.core (StoredBytes e.addr n) ∧
        (t.cluster (clusterOf c.core)).turn = (queueIndex c + 1) % 16 ∧
        RegistersKept (s.ctx c) (t.ctx c) (fun _ _ => False) ∧
        (e.op = 0 → e.kind.toNat ≤ 1 → v.2 = Flags.none ∧
          v.1 % 2 ^ (8 * n) = (leNat (s.localRead c.core e.addr n) + (vs.map BitVec.toNat).sum) % 2 ^ (8 * n))) ∧
    (∀ c id w, (s.ctx c).rwq.find? (·.id == id) = some w → w.ready ≤ s.now → s.writeFirst c w = true →
      s.writeHeld c w = false → s.coreDone w.core = true → w.module = s.mod.number → w.atPort = false →
      (s.writeRefused w = true → ∃ t, exec (.remoteWriteArrival c id) s = .next t ∧
        t = (s.modCtx c fun x => x.dropWrite id).syncEvent w.core (w.arrive.getD 0) ∧ (t.ctx c).rwq = (s.ctx c).rwq.filter (fun x => x.id != id) ∧ BytesKept s t 0 (fun _ => False) ∧ UnitsKept s t) ∧
      (s.writeRefused w = false → w.time = none → w.addr + w.bytes.length ≤ scratchEnd → w.bytes.length ≤ 128 →
        ∃ t, exec (.remoteWriteArrival c id) s = .next t ∧
          (t.ctx c).rwq = (s.ctx c).rwq.filter (fun x => x.id != id) ∧
          (∀ j, j < w.bytes.length → w.we.getLsbD j = true →
            t.localByte w.core (w.addr + j) = [w.bytes.getD j 0]) ∧
          BytesKept s t w.core (fun a => (w.addr ≤ a ∧ a < w.addr + w.bytes.length ∧ w.we.getLsbD (a - w.addr) = true) ∨
            ∃ m, w.arrive = some m ∧ SyncBytes m a) ∧
          (∀ k m, (t.core k).syncWord m = if k = w.core ∧ w.arrive = some m then swArrive ((s.core k).syncWord m)
            else (s.core k).syncWord m)) ∧
      (∀ T, s.writeRefused w = false → w.time = some T → s.coreTime w.core < T → (s.core w.core).incoming.length < 64 →
        ∃ t, exec (.remoteWriteArrival c id) s = .next t ∧ (t.core w.core).incoming = (s.core w.core).incoming ++ [w] ∧
          (t.ctx c).rwq = (s.ctx c).rwq.filter (fun x => x.id != id) ∧ BytesKept s t 0 (fun _ => False)) ∧
      (∀ T, s.writeRefused w = false → w.time = some T → T ≤ s.coreTime w.core → w.addr + w.bytes.length ≤ scratchEnd →
        w.bytes.length ≤ 128 → s.localRelief w.core w.addr = 0 → s.timedRecent w.core = [] → (s.core w.core).lateNow = [] →
        ∃ t, exec (.remoteWriteArrival c id) s = .next t ∧ (t.ctx c).rwq = (s.ctx c).rwq.filter (fun x => x.id != id) ∧
          TimedWriteDone s t w.core w (decide (T + w.lambda < s.coreTime w.core)) ∧
          (s.coreTime w.core ≤ T + w.lambda → t.msgs = s.msgs) ∧
          (T + w.lambda < s.coreTime w.core → (∀ n, w.late = some n → n < 512) → w.core < 768 → s.mod.number < 16 →
            ∃ m info, t.msgs = s.msgs ++ [m] ∧ m.msg = .late w.src info ∧ m.src = w.core ∧ m.dst = w.src.core ∧
              info.toNat % 2 ^ 16 = 0 ∧ LateFields info w.late true s.mod.number w.core))) ∧
    (∀ core w T own, s.dueWrite core = some w → w.time = some T → s.writeRefused w = false →
      own = (s.ctx w.src).stva.any (·.id == w.id) →
      w.addr + w.bytes.length ≤ scratchEnd → w.bytes.length ≤ 128 → s.localRelief core w.addr = 0 → s.timedRecent core = [] →
      (s.core core).lateNow = [] →
      ∃ t, exec (.timedWritePerform core w.id) s = .next t ∧
        TimedWriteDone s t core w (decide (T + w.lambda < s.coreTime core)) ∧
        (∀ x ∈ (t.ctx w.src).stva ++ (t.core core).incoming, x.id ≠ w.id) ∧
        (s.coreTime core ≤ T + w.lambda → t.msgs = s.msgs ∧ (t.ctx w.src).sticky = (s.ctx w.src).sticky ∧
          (t.ctx w.src).mdlinfo = (s.ctx w.src).mdlinfo) ∧
        (T + w.lambda < s.coreTime core → (∀ n, w.late = some n → n < 512) → core < 768 → s.mod.number < 16 →
          (own = true → t.msgs = s.msgs ∧
            LateCounted (s.ctx w.src) (t.ctx w.src) fun v => LateFields v w.late false s.mod.number core) ∧
          (own = false → ∃ m info, t.msgs = s.msgs ++ [m] ∧ m.msg = .late w.src info ∧ m.src = core ∧ m.dst = w.src.core ∧
            info.toNat % 2 ^ 16 = 0 ∧ LateFields info w.late true s.mod.number core))) ∧
    (∀ m, s.msgs.find? (·.id == m.id) = some m → s.messageReady m = true →
      (∀ d info, m.msg = .late d info → s.coreDone d.core = true → ∃ t, exec (.lateNoticeArrival m.id) s = .next t ∧
        (∀ x ∈ t.msgs, x.id ≠ m.id) ∧ (∀ x ∈ s.msgs, x.id ≠ m.id → ∃ y ∈ t.msgs, y.id = x.id ∧ y.msg = x.msg) ∧
        (t.ctx d).lates = (s.ctx d).lates + 1 ∧
        (info.toNat % 2 ^ 16 = 0 → LateCounted (s.ctx d) (t.ctx d) fun v => v.toNat / 2 ^ 16 = info.toNat / 2 ^ 16) ∧
        (∀ o, o ≠ d → t.ctx o = s.ctx o) ∧ UnitsKept s t ∧ BytesKept s t 0 (fun _ => False)) ∧
      (∀ ref lam cmd, m.msg = .release ref none lam cmd → s.coreDone (refCore ref) = true → ∃ t, exec (.releaseMessageArrival m.id) s = .next t ∧
        (∀ x ∈ t.msgs, x.id ≠ m.id) ∧ (∀ x ∈ s.msgs, x.id ≠ m.id → ∃ y ∈ t.msgs, y.id = x.id ∧ y.msg = x.msg) ∧
        (∀ n k, cmd = some n → s.findCmd n = some k → (t.findCmd n).map Cmd.released = some true) ∧
        (∀ k n, (t.core k).syncWord n = if k = refCore ref ∧ n = refIdx ref then swComplete ((s.core k).syncWord n)
          else (s.core k).syncWord n) ∧ ContextsKept s t ∧ BytesKept s t (refCore ref) (SyncBytes (refIdx ref)))) ∧
    (∀ c id, s.gateOpens c id = true → ∃ t, exec (.gateOpen c id) s = .next t ∧
      (t.ctx c).gates = (s.ctx c).gates.filter (fun x => x.id != id) ∧
      RegistersKept (s.ctx c) (t.ctx c) (fun _ _ => False) ∧ OnlyContext s t c)

/-! ### Engine commands (R242, R245, R249, R252, R260, R300, R319, R320) -/

/-- A queued command that may start does: a copy runs, once the blocks that it would write have been reached where it is of
the Relief commands, and one that fails its checks stops as refused; KTSK posts its nodes to the home I/O die, each by a
control message of its core; one of class E that a gate holds has only started. A copy moves its next unit, and one with every byte
moved finishes, its completion going to the core by a message of the I/O die whose engine moved it: 64 aligned bytes are
read together and written together. A version or acquire word that is reached lets
its command go on; a table switch replaces its slot; a running near-memory command takes a place of its unit; a
visible-at release whose time has come is sent to its word. A finished command that owes nothing completes with the
arrival at its word. That a step follows as soon as it can is the model's choice (log 4); that a message of its own carries each node of a KTSK,
and when it comes (log 6), what KTAB waits for (log 30), and how the blocks are tested (log 31), its reading. -/
def Obligations.CommandsStartAndComplete : Prop :=
  ∀ (s : State) (k : Cmd), s.findCmd k.id = some k →
    (∀ r i, k.ctx = some r → k.instr = some i → s.startEnabled k = true →
      ((isCopy i = true → s.copyRefused k i = false →
        (k.blocks i = none →
          exec (.commandStart r.core k.id) s = .next (s.setCmd { k with state := .running, since := s.fabric })) ∧
        (∀ l a n, k.blocks i = some (l, a, n) →
          (∀ v, s.blocksTry .chan k l a n = .go v →
            exec (.commandStart r.core k.id) s = .next (v.setCmd { k with state := .running, since := v.fabric })) ∧
          (s.blocksTry .chan k l a n = .wait → exec (.commandStart r.core k.id) s = .next s))) ∧
      (isCopy i = true → s.copyRefused k i = true →
        exec (.commandStart r.core k.id) s = .next (s.refuseCmd k)) ∧
      (s.cmdHeld k = true → ((∃ g f, i = .kcol g f) ∨ (∃ g f, i = .ktsk g f ∧ 1 ≤ k.cnt ∧ k.cnt ≤ 64) ∨
          ((∃ g f, i = .gstep g f ∨ i = .gmask g f) ∧ gramRefused k = false)) →
        exec (.commandStart r.core k.id) s = .next (s.setCmd { k with state := .running })) ∧
      (∀ g f, i = .ktsk g f → 1 ≤ k.cnt → k.cnt ≤ 64 → k.aux = 0 → s.cmdHeld k = false → ∃ t, exec (.commandStart r.core k.id) s = .next t ∧
        t.posts.length = s.posts.length + k.cnt ∧ (∀ p ∈ t.posts.drop s.posts.length,
          p.iod = homeIod (dieOf r.core) ∧ p.tenant = k.tenant ∧ p.cmd = some k.id ∧
          ∃ m ∈ t.msgs, p.carrier = some m.id ∧ m.msg = .post ∧ m.src = r.core ∧ m.dst = iodSrc p.iod) ∧
        t.stateOf k.id = .running))) ∧
    (∀ core i v, k.instr = some i → k.moves core i = true → s.coreDone core = true →
      (k.total i ≤ k.done → s.carrierOf (.complete k.id) = none →
        (∀ r iod, k.ctx = some r → s.engineIod k = some iod → exec (.copyUnitTransfer core k.id) s =
          .next ((s.setCmd { k with state := .finished }).sendMsg (iodSrc iod) r.core (.complete k.id))) ∧
        (s.engineIod k = none → exec (.copyUnitTransfer core k.id) s = .next (s.setCmd { k with state := .finished }))) ∧
      (k.done < k.total i → s.copyStep k i = .go v →
        (∀ k', v.findCmd k.id = some k' → k'.word = k.word ∧ k'.state = .running ∧ k'.done < k'.total i) →
        exec (.copyUnitTransfer core k.id) s = .next v)) ∧
    (∀ core sl dl f g l u bs v k', k.instr = some (.kcp g f) → sl = f.kx.getLsbD 10 → dl = f.kx.getLsbD 11 →
      k.moves core (.kcp g f) = true → s.coreDone core = true → k.tbuf = [] → k.done + 64 < k.cnt → k.frm % 64 = 0 → k.tgt % 64 = 0 → k.done % 64 = 0 →
      (sl == dl && k.frm < k.tgt && rangesMeet k.frm k.cnt k.tgt k.cnt) = false →
      s.wholeBlock k dl (k.tgt + k.done) (k.cnt - k.done) = false →
      s.place .chan k sl ((k.frm + k.done) % 2 ^ 64) 1 false = .at_ l false u → isEncoded (u.reliefAt l) = false →
      u.fetchRange .chan k sl (k.frm + k.done) 64 = .bytes bs v → bs.length = 64 → v.findCmd k.id = some k →
      k' = { k with tbuf := bs } →
      ∀ w, (v.setCmd k').putRange .chan k' dl (k.tgt + k.done) bs = .go w →
        exec (.copyUnitTransfer core k.id) s = .next (w.setCmd { k with done := k.done + 64 })) ∧
    (∀ core, k.state = .running → k.atCore core = true → k.awaitsVersion = true →
      s.refLocal (fieldAt k.record 0 8) = true → ∀ w, w = (s.core (refCore (fieldAt k.record 0 8))).syncWord
        (refIdx (fieldAt k.record 0 8)) → swKind w = 2 → fieldAt k.record 8 6 ≤ w.toNat % 2 ^ 48 →
      exec (.kcpvVersionReached core k.id) s = .next (s.setCmd { k with acquired := true, since := s.fabric })) ∧
    (s.acquireEnabled k = true →
      exec (.acquireReferenceSatisfied k.id) s = .next (s.setCmd { k with acquired := true })) ∧
    (∀ core g f bs v, k.instr = some (.ktab g f) → k.state = .running → k.atCore core = true → s.decoding k f = false →
      k.frm % 64 = 0 → ktabStack f = none → s.fetchPiece .chan k true k.frm 64 = .bytes bs v →
      ∃ t, exec (.dictSlotSwitch core k.id) s = .next t ∧
        (∀ n, Sparse.get DictSlot.reset (t.core core).dict n = if n = ktabSlot f
          then { gen := k.cnt % 2 ^ 16, vals := (lineWords bs).map (BitVec.ofNat 32) }
          else Sparse.get DictSlot.reset (v.core core).dict n) ∧ ContextsKept v t ∧ UnitsKept v t) ∧
    (s.acceptEnabled k = true → ∃ t, exec (.nmcCommandAccept k.id) s = .next t ∧
      t.unitQueue (nmcStack k.record) (nmcUnit k.record) = s.unitQueue (nmcStack k.record) (nmcUnit k.record) ++ [k.id] ∧
      (t.findCmd k.id).map Cmd.accepted = some true ∧ ContextsKept s t ∧ UnitsKept s t) ∧
    (s.timedReleaseEnabled k = true → s.refLocal (nmcRelRef k.record) = true → ∃ t m,
      exec (.nmcTimedRelease k.id) s = .next t ∧ t.msgs = s.msgs ++ [m] ∧
        m.msg = .release (nmcRelRef k.record) (some (nmcRelT k.record)) k.lambda (some k.id) ∧
        m.src = stackSrc (nmcStack k.record) ∧ m.dst = refCore (nmcRelRef k.record) ∧
        ContextsKept s t ∧ UnitsKept s t ∧ BytesKept s t 0 (fun _ => False)) ∧
    (∀ r f, k.ctx = some r → k.fmt = some f → s.completeEnabled k = true → ∃ t, exec (.commandComplete r.core k.id) s = .next t ∧
      (∀ c ∈ t.cmds, c.id ≠ k.id) ∧ (t.ctx r).sticky = ((s.ctx r).sticky ||| k.flags) ∧
      (∀ m, s.carrierOf (.complete k.id) = some m → ∀ x ∈ t.msgs, x.id ≠ m.id) ∧
      (t.ctx r).kipend = (if f.intr then min ((s.ctx r).kipend + 1) 255 else (s.ctx r).kipend) ∧
      (∀ c n, (t.core c).syncWord n = if c = r.core ∧ f.swe = true ∧ n = f.sw.toNat
        then swComplete ((s.core c).syncWord n) else (s.core c).syncWord n) ∧
      RegistersKept (s.ctx r) (t.ctx r) (fun _ _ => False) ∧
      BytesKept s t r.core (fun a => f.swe = true ∧ SyncBytes f.sw.toNat a))

/-! ### Near-memory units and the grammar engine (R320 to R329, R362 to R366) -/

/-- A unit serves the head of its queue. REDUCTION COMMAND, UPDATE ROW, TRANSFORM COMMAND and GAZETTEER QUERY perform
its next work unit: a row, a block, a query, or the elements of an aligned 64 bytes of a reduction's result, which the
engine holds until COPY UNIT writes them. With work left the step stands; with the last unit computed the command leaves its
unit, and it is finished once every result is written; one that stops leaves its unit too. The elements of an exact
reduction are the quire sums of their buffers, each rounded once; those of PAIRWISE the sums of R322, each rounded to f32. A
row's weights and states come from those that stand in memory and from the gradients that the engine holds, each unit of
them read once; where its operands are reals they are the single roundings of the exact values of R324, and a weight
one of whose operands is NaR is NaR with NARF. A query answers with its top selections, their weights, the sums of its
value rows and the total of R327. A transform encodes a block, or writes the next piece of its transposition. How much one
step performs (log 4), that results are held before they are written and a row's gradients read as late as its own step (log 33), and that a stopped
command stands in no unit's queue (log 17), is the model's reading; that an element which straddles a boundary of 4 KiB
belongs to the row of its first byte is its choice (log 70). -/
def Obligations.NearMemoryUnitsServe : Prop :=
  (∀ (s : State) (h u : Nat) (k : Cmd) (i : Instr), s.served h u = some k →
    (u = 0 ∧ i = .reductionCommand h) ∨ (u = 1 ∧ i = .updateRow h) ∨ (u = 2 ∧ i = .transformCommand h) ∨
      (u = 3 ∧ i = .gazetteerQuery h) →
    (nmcTotal k.record ≤ k.computed → exec i s = .next (if k.out.isEmpty then s.finishNmc k else s.leaveUnit k)) ∧
    (∀ v k', k.computed < nmcTotal k.record → s.nmcUnitTry h k = .go v → v.findCmd k.id = some k' → k'.state = .running →
      (nmcTotal k'.record ≤ k'.computed →
        exec i s = .next (if k'.out.isEmpty then v.finishNmc k' else v.leaveUnit k') ∧
        (k'.out = [] → nmcRel k'.record = false → ∃ t, exec i s = .next t ∧ t.stateOf k.id = .finished ∧
          k.id ∉ t.unitQueue (nmcStack k'.record) (nmcUnit k'.record) ∧ ContextsKept v t ∧ t.mem = v.mem)) ∧
      (k'.computed < nmcTotal k'.record → exec i s = .next v)) ∧
    (∀ c x v, k.computed < nmcTotal k.record → s.nmcUnitTry h k = .stop c x v → c ≠ .refused → v.findCmd k.id = some k →
      ∃ t, exec i s = .next t ∧ t.stateOf k.id = .stopped c x ∧ (∀ h' u', k.id ∉ t.unitQueue h' u') ∧ t.mem = v.mem ∧
        ContextsKept v t) ∧
    (∀ n si so nbuf j t, nmcUnit k.record = 0 → n = reduceSpan k → n ≠ 0 → si = blkSize k.record 40 → 0 < si →
      so = (fmtOf (blkFmt k.record 41)).width / 8 → nbuf = byteAt k.record 42 →
      s.fillBuffers h k (si * n) (List.range nbuf) = (j, none, t) → (∀ b, b < nbuf → si * n ≤ (j.held.getD b []).length) →
      t.findCmd k.id = some k → ∃ v k' w, s.nmcUnitTry h k = .go v ∧ v.findCmd k.id = some k' ∧
        k'.done = k.done ∧ k'.computed = k.computed + n ∧ k'.out = k.out ++ [w] ∧ w.n = n ∧
        w.addr = (fieldAt k.record 64 8 + so * k.computed) % 2 ^ 64 ∧ v.mem = t.mem ∧ ContextsKept t v ∧
        ∀ xs : Nat → List Val, (∀ e, xs e = j.held.map fun x => itemVal (fmtOf (blkFmt k.record 40)) x e) →
          w.bytes = (List.range n).flatMap fun e => natBytes so (if byteAt k.record 43 = 0
            then (readQuire (fmtOf (blkFmt k.record 41)) (quireAddAll Quire.zero (xs e)).1).1
            else (roundVal f32 (pairwise (xs e).length (xs e)).1).1)) ∧
    (∀ lo n size need j t grads k' bss v w arrays mode (el : Nat → Nat → Nat) (new : Nat → Nat × Nat × Nat × Flags),
      nmcUnit k.record = 1 → lo = rowFirst k.record k.done → n = rowFirst k.record (k.done + 1) - lo →
      size = blkSize k.record 41 → need = size * n → s.fillBuffer h k 0 need (need + 1) = (j, none, t) →
      grads = j.held.getD 0 [] → k' = { k with held := [grads.drop need] } → mode = byteAt k.record 43 →
      arrays = [(fieldAt k.record 64 8, blkSize k.record 40)]
        ++ (if mode = 0 then [] else [(fieldAt k.record 80 8, blkSize k.record 42)])
        ++ (if mode = 2 then [(fieldAt k.record 88 8, blkSize k.record 42)] else []) →
      t.fetchAll (.unit h) k' (arrays.map fun a => (a.1 + a.2 * lo, a.2 * n)) = .ok (bss, v) →
      (∀ a e, el a e = fieldAt (bss.getD a []) ((arrays.getD a (0, 1)).2 * e) (arrays.getD a (0, 1)).2) →
      (∀ e, new e = updateElem k.record (el 0 e) (fieldAt (grads.take need) (size * e) size) (el 1 e) (el 2 e)) →
      v.putAll (.unit h) k' false State.readRows
        ((([(0, fun r => r.1)] ++ (if mode = 0 then [] else [(1, fun r => r.2.1)])
          ++ (if mode = 2 then [(2, fun r => r.2.2.1)] else [])) : List (Nat × (Nat × Nat × Nat × Flags → Nat))).map fun x =>
            (((arrays.getD x.1 (0, 1)).1 + (arrays.getD x.1 (0, 1)).2 * lo) % 2 ^ 64,
              (List.range n).flatMap fun e => natBytes (arrays.getD x.1 (0, 1)).2 (x.2 (new e)))) = .go w →
      ∃ fl, s.nmcUnitTry h k = .go (w.setCmd { k' with done := k.done + 1, flags := fl })) ∧
    (∀ bs v l w, nmcUnit k.record = 2 → byteAt k.record 40 = 0 → k.tbuf = [] →
      s.slotStalled (.unit h) k (byteAt k.record 41) = false →
      s.fetchRange (.unit h) k false (fieldAt k.record 48 8 + 4096 * k.done) 4096 = .bytes bs v →
      v.place (.unit h) k false ((fieldAt k.record 56 8 + 4096 * k.done) % 2 ^ 64) 4096 true = .at_ l true w →
      isSealed (w.reliefAt l) = false → s.nmcUnitTry h k =
        .go ((w.putBlock (.unit h) k (byteAt k.record 41) l bs false).setCmd { k with done := k.done + 1, tbuf := [] })) ∧
    (∀ els lay p bs v w, nmcUnit k.record = 2 → byteAt k.record 40 = 2 → k.tbuf = [] → lay = (k.record.drop 64).take 32 →
      p = (transposePieces k.record).getD k.done (fieldAt k.record 56 8, 0) →
      (k.done = 0 ∧ s.fetchRange (.unit h) k false (fieldAt k.record 48 8) (layBytes lay) = .bytes els v) ∨
        s.fetchParts (.unit h) k false (fieldAt k.record 48 8) (layBytes lay) 0
          (transposeParts lay (byteAt k.record 43) (p.1 - fieldAt k.record 56 8)) = .bytes els v →
      bs = transposed lay (byteAt k.record 42) (byteAt k.record 43) els →
      v.putRange (.unit h) k false p.1 ((bs.drop (p.1 - fieldAt k.record 56 8)).take p.2) = .go w →
      s.nmcUnitTry h k = .go (w.setCmd { k with done := k.done + 1, tbuf := bs })) ∧
    (∀ inp v sel any rows t w, nmcUnit k.record = 3 →
      s.fetchAll (.unit h) k [(fieldAt k.record 56 8 + 4 * gazHdim k.record * k.done, 4 * gazHdim k.record),
        (fieldAt k.record 64 8, 2 * gazHdim k.record * gazKeys k.record),
        (fieldAt k.record 72 8, 2 * gazHdim k.record * gazKeys k.record)] = .ok (inp, v) →
      gazSelect k.record (inp.getD 0 []) (inp.getD 1 []) (inp.getD 2 []) = (sel, any) →
      v.fetchAll (.unit h) k (sel.map fun r => (fieldAt k.record 80 8 + 2 * gazVdim k.record * r.1, 2 * gazVdim k.record)) =
        .ok (rows, t) →
      t.putAll (.unit h) k false (fun _ s => s) (gazOutputs k.record k.done sel any rows).1 = .go w →
      ∃ fl, s.nmcUnitTry h k = .go (w.setCmd { k with done := k.done + 1, flags := fl }))) ∧
  (∀ (s : State) (core : Nat) (k k' : Cmd) (w : HeldUnit) (ws : List HeldUnit) (v : State), s.findCmd k.id = some k →
    k.isNmc = true → k.state = .running → k.atCore core = true → k.out = w :: ws →
    s.putRange (.unit (nmcStack k.record)) k false w.addr w.bytes = .go v → v.findCmd k.id = some k →
    k' = { k with done := k.done + w.n, flags := k.flags ||| w.flags, out := ws } →
    (k'.computed < nmcTotal k.record → exec (.copyUnitTransfer core k.id) s = .next (v.setCmd k')) ∧
    (nmcTotal k.record ≤ k'.computed → exec (.copyUnitTransfer core k.id) s =
      .next (if ws.isEmpty then (v.setCmd k').finishNmc k' else (v.setCmd k').leaveUnit k'))) ∧
  (∀ (xs : List Val) (n m : Nat), 2 ≤ xs.length → xs.length ≤ n → 2 ^ m < xs.length → xs.length ≤ 2 ^ (m + 1) →
    (∀ x, (pairwise n [x]).1 = x) ∧
    (pairwise n xs).1 = (f32Add (pairwise n (xs.take (2 ^ m))).1 (pairwise n (xs.drop (2 ^ m))).1).1) ∧
  (∀ (bs : List Byte) (w g m v : Nat) (wf sf : NumFmt) (out : Nat × Nat × Nat × Flags) (wv uv : Val),
    wf = fmtOf (blkFmt bs 40) → sf = fmtOf (blkFmt bs 42) → out = updateElem bs w g m v → wv = decodeVal wf w →
    uv = decodeVal t32e2 (roundVal t32e2 (decodeVal (fmtOf (blkFmt bs 41)) g)).1 →
    (byteAt bs 43 = 0 → (wv.isNar = true ∨ wv.isNan = true ∨ uv.isNar = true ∨
        (decodeVal t32e2 (fieldAt bs 44 4)).isNar = true) →
      out.1 = (roundVal wf .nar).1 ∧ out.2.2.2 &&& Flags.narf = Flags.narf) ∧
    ∀ wq st u, wv.real? = some wq → (decodeVal t32e2 (fieldAt bs 44 4)).real? = some st → uv.real? = some u →
      (byteAt bs 43 = 0 → RoundsTo wf (wq.add (st.mul u)) out.1) ∧
      (∀ b1 mq, byteAt bs 43 = 1 ∨ byteAt bs 43 = 2 → (decodeVal t32e2 (fieldAt bs 48 4)).real? = some b1 →
        (decodeVal sf m).real? = some mq →
        RoundsTo sf ((b1.mul mq).add (if byteAt bs 43 = 1 then u else (Q.one.sub b1).mul u)) out.2.1 ∧
        ∀ mq', (decodeVal sf out.2.1).real? = some mq' →
          (byteAt bs 43 = 1 → RoundsTo wf (wq.add (st.mul mq')) out.1) ∧
          (∀ b2 vq, byteAt bs 43 = 2 → (decodeVal t32e2 (fieldAt bs 52 4)).real? = some b2 →
            (decodeVal sf v).real? = some vq →
            RoundsTo sf ((b2.mul vq).add ((Q.one.sub b2).mul (u.mul u))) out.2.2.1 ∧
            ∀ vv e r d, (decodeVal sf out.2.2.1).real? = some vv → (decodeVal t32e2 (fieldAt bs 56 4)).real? = some e →
              0 ≤ vv.num → (decodeVal t32e2 (expE ((lgOf vv).scale (-1)))).real? = some r →
              d = (if vv.num = 0 then e else r.add e) → d.num ≠ 0 →
              RoundsTo wf (wq.add ((st.mul mq').div d)) out.1))) ∧
  (∀ (n : Nat) (xs : List (Nat × Val)), (∀ x ∈ xs, x.2 = .nar ∨ ∃ q : Q, x.2 = .real q ∧ 0 < q.den) →
    (xs.map Prod.fst).Nodup →
    (topK n xs).length = min n xs.length ∧ (∀ x ∈ topK n xs, x ∈ xs) ∧
    (topK n xs).Pairwise (fun x y => selectsBefore x y = true) ∧
    ∀ x ∈ xs, x ∉ topK n xs → ∀ y ∈ topK n xs, selectsBefore y x = true) ∧
  (∀ (i j : Nat) (a b : Q), (selectsBefore (i, .real a) (j, .real b) = true ↔
      b.lt a = true ∨ (a.lt b = false ∧ i < j)) ∧ selectsBefore (i, .real a) (j, .nar) = true ∧
    selectsBefore (j, .nar) (i, .real a) = false ∧ (selectsBefore (i, .nar) (j, .nar) = true ↔ i < j) ∧
    scoreSum (.real a) (.real b) = decodeVal t32e2 (roundTap 32 2 (a.add b)) ∧
    scoreSum .nar (.real b) = .nar ∧ scoreSum (.real a) .nar = .nar) ∧
  (∀ (as bs : List Q), dotScore (as.map .real) (bs.map .real) =
      decodeVal t32e2 (roundTap 32 2 ((List.zipWith Q.mul as bs).foldl Q.add Q.zero)) ∧
    exactSum (List.zipWith (fun a b => (.real a, .real b)) as bs) =
      .real ((List.zipWith Q.mul as bs).foldl Q.add Q.zero)) ∧
  (∀ (as bs : List Val), as.length = bs.length → .nar ∈ as ∨ .nar ∈ bs → dotScore as bs = .nar) ∧
  (∀ (bs q k1 k2 : List Byte) (s1 s2 : List (Nat × Val)), (∀ t e, (t, e) ∈ [(s1, (k1, 0)), (s2, (k2, gazHdim bs))] →
      t = (List.range (gazKeys bs)).map fun a => (a, dotScore (itemVals (fmtOf (blkFmt bs 40)) q e.2 (gazHdim bs))
        (itemVals (fmtOf (blkFmt bs 40)) e.1 (gazHdim bs * a) (gazHdim bs)))) →
    (gazSelect bs q k1 k2).1 = topK (gazTop bs) ((topK (gazTop bs) s1).flatMap fun a =>
      (topK (gazTop bs) s2).map fun b => (a.1 * gazKeys bs + b.1, scoreSum a.2 b.2)) ∧
    (.nar ∈ (s1 ++ s2).map Prod.snd → (gazSelect bs q k1 k2).2 = true)) ∧
  (∀ (bs : List Byte) (n : Nat) (c : Nat × Q) (cs : List (Nat × Q)) (any : Bool) (rows : List (List Byte)) (kappa : Q)
    (ws : List Val) (num : Nat → Val) (wid : Nat), (decodeVal t32e2 (fieldAt bs 52 4)).real? = some kappa →
    ws = (c :: cs).map (fun x => decodeVal t32e2 (expE ((x.2.sub c.2).mul kappa))) →
    (∀ t, num t = exactSum (List.zipWith (fun w r => (w, itemVal (fmtOf (blkFmt bs 41)) r t)) ws rows)) →
    wid = (fmtOf (blkFmt bs 42)).width / 8 →
    (gazOutputs bs n ((c :: cs).map fun x => (x.1, .real x.2)) any rows).1 =
      [((fieldAt bs 88 8 + n * gazVdim bs * wid) % 2 ^ 64, (List.range (gazVdim bs)).flatMap fun t =>
          natBytes wid (roundVal (fmtOf (blkFmt bs 42)) (num t)).1),
        ((fieldAt bs 96 8 + 4 * n) % 2 ^ 64, natBytes 4 (roundVal t32e2 (exactSum (ws.map fun w => (w, .real Q.one)))).1),
        ((fieldAt bs 104 8 + 8 * gazTop bs * n) % 2 ^ 64, (List.zipWith (fun (x : Nat × Q) w =>
          natBytes 4 x.1 ++ natBytes 4 (roundVal t32e2 w).1) (c :: cs) ws).flatten)]) ∧
  (∀ (bs : List Byte) (n : Nat) (sel : List (Nat × Val)) (any : Bool) (rows : List (List Byte)),
    .nar ∈ sel.map Prod.snd → ∃ num rec, (gazOutputs bs n sel any rows).1 =
      [((fieldAt bs 88 8 + n * gazVdim bs * ((fmtOf (blkFmt bs 42)).width / 8)) % 2 ^ 64, num),
        ((fieldAt bs 96 8 + 4 * n) % 2 ^ 64, natBytes 4 (2 ^ 31)), rec] ∧
      (gazOutputs bs n sel any rows).2 &&& Flags.narf = Flags.narf)

/-- GRAMMAR COMMAND. A GSTEP whose walker record breaks its rules is refused; the last token of a GSTEP walks the
record and writes it back; the classes of an aligned 64 bytes of CLSADDR are read together (R290); a word of a GMASK is all ones for an admitted token and zero for any other, and the sixteen
words of an aligned 64 bytes are written together, the last of them finishing the command. An
action keeps, pushes, pops or replaces the top symbol, sets the state and counts the step; a token that is not
admitted leaves DEAD. That one step serves a GSTEP to its end and a GMASK by sixteen words is the model's reading (log 49). -/
def Obligations.GrammarCommands : Prop :=
  (∀ (s : State) (die : Nat) (k : Cmd), s.grammarNext die = some k →
    (∀ g f w v, k.instr = some (.gstep g f) → k.tbuf = [] → s.fetchRange .chan k true k.tgt 256 = .bytes w v →
      walkOk k.record w = false → v.findCmd k.id = some k →
      ∃ t, exec (.grammarCommand die) s = .next t ∧ t.stateOf k.id = .stopped .refused k.lrec ∧ t.mem = v.mem ∧
        ContextsKept v t) ∧
    (∀ g f b u a w, k.instr = some (.gstep g f) → k.tbuf ≠ [] → walkDead k.tbuf = false → k.cnt = k.done + 1 →
      s.fetchRange .chan k true (k.frm + 4 * k.done) 4 = .bytes b u → u.findCmd k.id = some k →
      ∀ u', u.admission k k.tbuf (leNat b) = .known a u' → u'.findCmd k.id = some k →
      ∀ k', k' = { k with done := k.cnt, tbuf := applyAction k.tbuf a } →
        (u'.setCmd k').putRange .chan k' true k.tgt k'.tbuf = .go w →
        exec (.grammarCommand die) s = .next (w.setCmd { k' with state := .finished })) ∧
    (∀ g f a bs v u w k', k.instr = some (.gmask g f) → k.tbuf.length = 316 → k.done % 16 = 15 →
      ((walkDead k.tbuf = true ∨ gramTokens k.record ≤ k.done) ∧ a = none ∧ u = s ∧
          k' = { k with done := k.done + 1, tbuf := k.tbuf ++ [0, 0, 0, 0] }) ∨
        (walkDead k.tbuf = false ∧ k.done < gramTokens k.record ∧
          ((k.held = [bs] ∧ bs ≠ [] ∧ v = s) ∨ (k.held = [] ∧
            s.fetchRange .chan k false ((gramClsAddr k.record + k.done) % 2 ^ 64)
              (min (64 - (gramClsAddr k.record + k.done) % 2 ^ 64 % 64) (gramTokens k.record - k.done)) = .bytes bs v)) ∧
          v.admitClass { k with held := [bs] } k.tbuf (byteAt bs 0) = .known a u ∧
          k' = { k with done := k.done + 1, tbuf := k.tbuf ++ if a = none then [0, 0, 0, 0] else [255, 255, 255, 255]
                        held := [bs.drop 1] }) →
      u.putRange .chan k' true (k.tgt + 4 * (k.done - 15)) (k'.tbuf.drop 256) = .go w →
      exec (.grammarCommand die) s = .next (w.setCmd { k' with
        tbuf := k'.tbuf.take 256
        state := if 32 * ((gramTokens k.record + 31) / 32) ≤ k.done + 1 then .finished else .running }))) ∧
  ∀ (w : List Byte) (a : Nat), w.length = 256 → walkDepth w ≤ 128 →
    walkDead (applyAction w none) = true ∧ walkState (applyAction w none) = walkState w ∧
    walkState (applyAction w (some a)) = actNext a ∧
    fieldAt (applyAction w (some a)) 4 4 = (fieldAt w 4 4 + 1) % 2 ^ 32 ∧
    (actOp a = 0 → walkDepth (applyAction w (some a)) = walkDepth w ∧ walkTop (applyAction w (some a)) = walkTop w) ∧
    (actOp a = 1 → walkDepth w < 128 → walkDepth (applyAction w (some a)) = walkDepth w + 1 ∧
      walkTop (applyAction w (some a)) = actSym a) ∧
    (actOp a = 2 → 1 ≤ walkDepth w → walkDepth (applyAction w (some a)) = walkDepth w - 1) ∧
    (actOp a = 3 → 1 ≤ walkDepth w → walkDepth (applyAction w (some a)) = walkDepth w ∧
      walkTop (applyAction w (some a)) = actSym a)

/-! ### Collectives (R330 to R344) -/

/-- A collective whose parties have joined and whose tree serves each of them forms. The next plane of a tile leaves a
producer, on a reserved tree in a fabric cycle of its slots; its source is what it held as its KCOL was issued, with the
stores before it that have been performed since; it lands at a consumer, from the producers that reach it,
with the tile's count, MINPL and STAT; bit p of a destination element then is bit p of the contribution, and in an
all-reduce the element grows by the weighted count; scheduled planes whose time has come land together. An arrival owed at a
word that is no flag stops the command with SYNCP. A KCAN of a formed collective sends its cancel to the
parties, one of any other name, or of a collective whose last plane has landed everywhere, only completes; the message of a
cancel that reaches a consumer sets CANC in its table, and one that comes after the last plane landed ends the KCAN commands
with no effect; the acknowledgement finishes every party's command, then the KCAN commands, and
ends the collective and its tree. When a party's command finishes, and which cancels come too late, is the model's reading
(log 40), when a cancel's message may come (log 6) and what a source holds (log 61) too; which slots a producer's planes use
is its choice (log 59). -/
def Obligations.Collectives : Prop :=
  (∀ (s : State) (i n tile : Nat) (c : Collective) (p : Party) (k : Cmd),
    (s.collById i = some c → c.ready = true →
      (∀ t, s.treeOf c = some t → ∀ q ∈ c.parties, c.failsTree s.mod.number t q = false) →
      exec (.collectiveForm i) s = .next (s.setColl { c with formed := true })) ∧
    (s.partyAt i n = some (c, p, k) → s.injectEnabled c p k tile = true → collPt0 c.block = 0 →
      ∀ m, m = Sparse.get 0 p.sent tile →
      (m ≠ 0 → exec (.planeInject i n tile) s = .next (((s.setColl (c.setParty n
        { p with sent := Sparse.set 0 p.sent tile (m + 1), flowAt := s.fabric + 1 })).setCmd k).afterPlane c.id n)) ∧
      (∀ bs v, m = 0 → (k.source = [] ∧ s.fetchRange .chan k true (k.frm + 1024 * tile * collElem c.block)
            (tileLen c.block tile * collElem c.block) = .bytes bs v) ∨
          (k.source ≠ [] ∧ v = s ∧ bs = ((s.takePrior k).source.drop (1024 * tile * collElem c.block)).take
            (tileLen c.block tile * collElem c.block)) →
        exec (.planeInject i n tile) s = .next (((v.setColl (c.setParty n
          { p with sent := Sparse.set 0 p.sent tile 1, flowAt := v.fabric + 1,
                   read := Sparse.put p.read tile ((List.range (tileLen c.block tile)).map fun e =>
                     fieldAt bs (collElem c.block * e) (collElem c.block)) })).setCmd
          { k with done := k.done + 1 }).afterPlane c.id n))) ∧
    (s.injectEnabled c p k tile = true → s.planeSlots c p ≠ [] →
      s.fabric % 64 ∈ s.planeSlots c p ∧ p.flowAt ≤ s.fabric) ∧
    (∀ r g a b, k.ctx = some r → k.prior = [(g, [(a, b)])] →
      (s.memberPending r g = true → (s.takePrior k).source = k.source) ∧
      (s.memberPending r g = false → k.frm ≤ a → (s.takePrior k).source = k.source.set (a - k.frm) b)) ∧
    (s.partyAt i n = some (c, p, k) → s.landEnabled c p k tile = true → collWordUsed c.block = false → collOp c.block = 0 →
      k.aux = 0 → collPt0 c.block = 0 →
      ∀ m q len at_ old v w, m = Sparse.get 0 p.landed tile → q = { p with landed := Sparse.set 0 p.landed tile (m + 1) } →
        len = tileLen c.block tile → at_ = k.tgt + 1024 * tile * collDstElem c.block →
        s.fetchRange .chan k true at_ (len * collDstElem c.block) = .bytes old v →
        v.putAll .chan k true (fun _ s => s) ([(at_, (List.range len).flatMap fun e => natBytes (collDstElem c.block)
            (landElem false (collDstElem c.block) (collWidth c.block - 1 - m)
              (fieldAt old (collDstElem c.block * e) (collDstElem c.block))
              ((s.sourcesOf c p tile).1.map fun x => (Sparse.get [] x.read tile).getD e 0))),
          (k.cnt + 8 + tile, [BitVec.ofNat 8 (m + 1)]), (k.cnt, [BitVec.ofNat 8 (c.minLanded q)])]
            ++ if c.landedAll q then [(k.cnt + 1, [2])] else []) = .go w →
        exec (.planeLand i n tile) s = .next (((w.setColl (c.setParty n q)).setCmd k).afterPlane c.id n)) ∧
    (s.partyAt i n = some (c, p, k) → s.landEnabled c p k tile = true → k.aux = 0 → collPt0 c.block ≠ 0 →
      exec (.planeLand i n tile) s = .next (s.landHeld c n)) ∧
    (∀ x, s.partyAt i n = some (c, p, k) → k.state = .running → k.aux = 1 → x = collWord c.block →
      swKind ((s.core p.core).syncWord x) ≠ 0 →
      exec (.planeLand i n tile) s = .next (s.stopCmd k .syncp (syncAddr x))) ∧
    (∀ m, s.collById i = some c → c.parties[n]? = some p → p.cancelled = false →
      s.carrierOf (.cancel i n) = some m → s.messageReady m = true →
      ∀ v, v = (s.takeMsg m).setColl (c.setParty n { p with cancelled := true }) →
      (c.beyondCancel = false →
        (p.cons = false → exec (.cancelReceipt i n) s = .next v) ∧
        (∀ t, p.cons = true → v.partyHere p = true → v.writeData (.loc p.core (p.table + 1))
            [BitVec.ofNat 8 (byteAt (v.readAt (.loc p.core (p.table + 1)) 1) 0 ||| 1)] = .ok t →
          exec (.cancelReceipt i n) s = .next t)) ∧
      (c.beyondCancel = true → ∃ t, exec (.cancelReceipt i n) s = .next t ∧
        t.collById i = some { c with cancel := false, kcans := [] } ∧ (∀ id ∈ c.kcans, t.stateOf id = .finished) ∧
        (∀ x ∈ t.msgs, ∀ q, x.msg ≠ .cancel i q) ∧ ContextsKept s t ∧ UnitsKept s t ∧ t.mem = s.mem)) ∧
    (∀ r g f y, s.findCmd k.id = some k → k.ctx = some r → k.instr = some (.kcan g f) → s.startEnabled k = true →
      y = s.colls.find? (fun c => c.tenant == k.tenant && collId c.block == k.cnt % 2 ^ 32 && (c.live || c.over)) →
      (y = none ∨ (∃ d, y = some d ∧ d.beyondCancel = true) →
        exec (.commandStart r.core k.id) s = .next (s.setCmd { k with state := .finished })) ∧
      (∀ d, y = some d → d.beyondCancel = false → s.collById d.id = some d → d.formed = true → d.cancel = false →
        ∃ t, exec (.commandStart r.core k.id) s = .next t ∧ t.stateOf k.id = .running ∧
          t.collById d.id = some { d with cancel := true, kcans := d.kcans ++ [k.id] } ∧
          (∀ q p, d.parties[q]? = some p → p.cancelled = false →
            ∃ m ∈ t.msgs, m.msg = .cancel d.id q ∧ m.src = r.core ∧ m.dst = p.core) ∧ ContextsKept s t ∧ UnitsKept s t ∧
          t.mem = s.mem)) ∧
    (s.collById i = some c → c.over = true →
      (s.partyRunning c = true → ∃ t, exec (.cancelAck i) s = .next t ∧
        (∀ q ∈ c.parties, t.stateOf q.cmd = .finished) ∧ t.colls = s.colls ∧
        ContextsKept s t) ∧
      (s.partyLeft c = false → ∃ t, exec (.cancelAck i) s = .next t ∧ (∀ id ∈ c.kcans, t.stateOf id = .finished) ∧
        (∀ d ∈ t.colls, d.id ≠ c.id) ∧ t.treeOf c = none ∧ ContextsKept s t ∧ UnitsKept s t))) ∧
  ∀ (size plane old : Nat), old < 2 ^ (8 * size) → plane < 8 * size →
    (∀ x j, (landElem false size plane old [x]).testBit j = if j = plane then x.testBit plane else old.testBit j) ∧
    ∀ srcs, plane < 32 → (landElem true 8 plane old srcs : Int) =
      (sextInt 64 old + (srcs.filter (·.testBit plane)).length * (if plane = 31 then -(2 ^ 31) else 2 ^ plane)) % 2 ^ 64

/-! ### Nodes, launches, tasks and records (R345 to R360, R376 to R385) -/

/-- A node posted to a scheduler whose record can be read and is well formed joins its graph, ready where nothing is
left before it; a record already posted is refused with TWICE, one that breaks R345 with ENTRY, one that cannot be read or
written with FETCH, and one of a KTSK above its task's PRIO with PRIO. A KTSK counts each of its nodes and completes with the
last; one whose record cannot be read stops with TRANS and posts nothing more. The ready node of the module that no other goes before is dispatched
by its scheduler: a placement that can be read and passes its checks makes one launch for each of its tasks, whose flows
are not yet reserved, one that does not is refused with its code; a tree reserves its slots; an XFORM or NMC node becomes a command of its unit,
an XFORM whose block is of another unit is refused with ENTRY. Which of several codes refuses a placement is the model's reading (log 44). -/
def Obligations.NodesAcceptAndDispatch : Prop :=
  ∀ (s : State) (iod : Nat),
    (∀ p v, s.posts.find? (fun x => x.iod == iod && s.postHere x) = some p → s.booted = true → v = s.dropPost p →
      (∀ e w, v.readGlobal (.die (iodDie p.iod)) p.tenant p.addr 64 = (.error e, w) → p.cmd = none →
        exec (.nodeAccept iod) s = .next (w.refusePost p 8)) ∧
      (∀ e w k, v.readGlobal (.die (iodDie p.iod)) p.tenant p.addr 64 = (.error e, w) → p.cmd = some k.id →
        w.findCmd k.id = some k → ∃ t, exec (.nodeAccept iod) s = .next t ∧ t.stateOf k.id = .stopped (.trans e.1) e.2 ∧
          (∀ q ∈ t.posts, q.cmd ≠ some k.id) ∧ t.nodes = w.nodes ∧ ContextsKept w t ∧ t.mem = w.mem) ∧
      (∀ bs w k u device, v.readGlobal (.die (iodDie p.iod)) p.tenant p.addr 64 = (.ok bs, w) →
        device = w.deviceRecord (.die (iodDie p.iod)) p.tenant p.addr →
        (byteAt bs 3 ≠ 0 → PostCounted p k (w.refusePost p 9) u → exec (.nodeAccept iod) s = .next u) ∧
        (byteAt bs 3 = 0 → device = false ∨ nodeOk w bs = false → PostCounted p k (w.refusePost p 1) u →
          exec (.nodeAccept iod) s = .next u) ∧
        (byteAt bs 3 = 0 → device = true → nodeOk w bs = true →
          (p.cmd ≠ none → p.prio < byteAt bs 1 → PostCounted p k (w.refusePost p 7) u →
            exec (.nodeAccept iod) s = .next u) ∧
          (p.cmd = none ∨ byteAt bs 1 ≤ p.prio →
            (∀ e z, w.writeSmall (.die (iodDie p.iod)) p.tenant (p.addr + 3) [1] = (.error e, z) →
              PostCounted p k (z.refusePost p 8) u → exec (.nodeAccept iod) s = .next u) ∧
            (∀ o z, w.writeSmall (.die (iodDie p.iod)) p.tenant (p.addr + 3) [1] = (.ok o, z) →
              ∃ t n, exec (.nodeAccept iod) s = .next t ∧ t.nodes = z.nodes ++ [n] ∧ n.addr = p.addr ∧ n.tenant = p.tenant ∧
                n.iod = p.iod ∧ n.prio = byteAt bs 1 ∧ n.kind = byteAt bs 0 ∧ n.dispatched = false ∧
                (n.ready.isSome = true ↔ fieldAt bs 4 4 = 0) ∧ ContextsKept z t ∧ t.mem = z.mem ∧
                (p.cmd = some k.id → z.findCmd k.id = some k → t.findCmd k.id = some { k with
                  aux := k.aux + 1, done := k.aux + 1
                  state := if k.cnt ≤ k.aux + 1 then .finished else .running })))))) ∧
    (∀ n, s.nextNode iod = some n →
      n.iod = iod ∧ (∀ m ∈ s.nodes, m.ready.isSome = true → m.dispatched = false → m.before n = false) ∧
      (n.kind = 0 →
        (∀ code v, s.readPlacement n = (.error code, v) →
          exec (.nodeDispatch iod) s = .next (v.completeNode n .refused code [])) ∧
        (∀ p v, s.readPlacement n = (.ok p, v) →
          (∀ code, v.placementCode n p = some code →
            exec (.nodeDispatch iod) s = .next (v.completeNode n .refused code [])) ∧
          (v.placementCode n p = none → ∃ t, exec (.nodeDispatch iod) s = .next t ∧
            ∃ ls : List Launch, t.launches = v.launches ++ ls ∧ ls.map (fun l => (l.num, l.core)) = p.tasks ∧
              (∀ l ∈ ls, l.node = n.id ∧ l.tenant = n.tenant ∧ l.ctx = entCtx p.entry ∧ l.entry = p.entry ∧ l.begun = false) ∧
              t.reserved = v.reserved ∧ ContextsKept v t ∧ UnitsKept v t))) ∧
      (n.kind = 3 → ∀ tr v r, s.readTree n = (.ok tr, v) → (∀ e ∈ tr.edges, v.flowReachable e = true) →
        v.takeFlows { owner := 0, coll := some (tr.collid, tr.tenant), flow := 0 } tr.edges v.reserved = some r → tr.tenant = n.tenant →
        ∃ t, exec (.nodeDispatch iod) s = .next t ∧ t.trees = v.trees ++ [tr] ∧ t.reserved = r ∧
          (∀ m ∈ t.nodes, m.id ≠ n.id) ∧ ContextsKept v t) ∧
      (n.kind = 1 ∨ n.kind = 2 →
        (∀ e v, s.readGlobal n.iodWalker n.tenant (fieldAt n.record 24 8) 128 = (.error e, v) →
          exec (.nodeDispatch iod) s = .next (v.completeNode n .refused 8 [])) ∧
        (∀ bs v, s.readGlobal n.iodWalker n.tenant (fieldAt n.record 24 8) 128 = (.ok bs, v) →
          (n.kind = 1 → nmcUnit bs ≠ 2 → exec (.nodeDispatch iod) s = .next (v.completeNode n .refused 1 [])) ∧
          (n.kind = 2 ∨ nmcUnit bs = 2 →
            ∃ t k, exec (.nodeDispatch iod) s = .next t ∧ t.cmds.length = v.cmds.length + 1 ∧ k ∈ t.cmds ∧ k.record = bs ∧
              k.node = n.id ∧ k.tenant = n.tenant ∧ k.ctx = none ∧ ContextsKept v t ∧ t.colls = v.colls))))

/-- A launch that nothing blocks takes its context, its tiles and its slots, and its regions with every block RAW; the first
of a node takes the Graticule slots of the flows of all its tasks and reads their parameter blocks, or its node is refused
whole where a block cannot be read or the flows do not fit. One that is
blocked puts the newcomer's decision to each task that blocks it; and one whose regions are its own is started by the home
I/O die of its core, which writes its parameter block and its sync words. A task that has ended, with its scatter-accumulate
windows applied, leaves its context free and its tiles and slots unowned. Which tasks block a newcomer is the model's reading
(log 43), and so are the instant at which a launch reserves or is refused (log 44) and that the registers of a context keep
their values after its task (log 58). -/
def Obligations.LaunchesAndEnds : Prop :=
  (∀ (s : State) (id : Nat) (l : Launch), s.launches.find? (·.id == id) = some l →
    (∀ blocks v slots, l.begun = false → s.launchFree l = true → l.ctx < 4 →
      (s.othersBegun l = true ∧ v = s ∧ slots = s.reserved ∧ blocks = []) ∨
        (s.othersBegun l = false ∧ s.readBlocks (s.waitingOf l.node) = (.ok blocks, v) ∧ v.launchSlots l = some slots) →
      ∃ t, exec (.taskLaunch id) s = .next t ∧
      t.ctx l.ref = l.context (byteAt l.entry 29) ∧ (t.ctx l.ref).pc = wordAt l.entry 0 ∧
      (t.ctx l.ref).a 0 = BitVec.ofNat 64 (entPlocal l.entry) ∧ (t.ctx l.ref).starting = true ∧
      (∀ o, o ≠ l.ref → t.ctx o = v.ctx o) ∧ t.reserved = slots ∧
      t.launches = v.launches.map (fun x => { x with
        begun := if x.id = l.id then true else x.begun
        block := ((blocks.find? (·.1 == x.id)).map Prod.snd).getD x.block }) ∧
      (∀ tile n, n < (if tile then 8 else 64) →
        (if tile then entTiles l.entry else entSlots l.entry).testBit n = true →
        holderOf (t.core l.core) tile n = { owner := some l.ctx, clearing := false, ends := 0, release := none }) ∧
      (∀ n, n < 16 → (entRegions l.entry).getLsbD n = true → ((v.core l.core).region n).owner = none →
        ((t.core l.core).region n).owner = some l.ctx ∧ ∀ a, a / 0x20000 = n → t.localRelief l.core a = 0) ∧ BytesKept v t 0 (fun _ => False)) ∧
    (∀ v n code, l.begun = false → s.launchFree l = true → s.othersBegun l = false →
      ((∃ e, s.readBlocks (s.waitingOf l.node) = (.error e, v)) ∧ code = 8) ∨
        ((∃ blocks, s.readBlocks (s.waitingOf l.node) = (.ok blocks, v)) ∧ v.launchSlots l = none ∧ code = 3) →
      v.nodes.find? (·.id == l.node) = some n → exec (.taskLaunch id) s =
        .next (({ v with launches := v.launches.filter (·.node != l.node) } : State).completeNode n .refused code [])) ∧
    (∀ n, l.begun = false → s.launchFree l = false → s.nodes.find? (·.id == l.node) = some n → s.undecided n ≠ [] →
      exec (.taskLaunch id) s = .next (s.decideAll n (fieldAt l.entry 52 4))) ∧
    (∀ x v block, l.begun = true → s.launchReady l = true →
      ({ s with launches := s.launches.filter (·.id != l.id) } : State).readBlockOf l = (x, v) →
      block = (match x with
        | .ok bs => bs
        | .error _ => l.block) →
      ∃ t, exec (.taskLaunch id) s = .next t ∧ t.ctx l.ref = { v.ctx l.ref with starting := false } ∧
        (∀ o, o ≠ l.ref → t.ctx o = v.ctx o) ∧ t.launches = v.launches ∧ t.reserved = v.reserved ∧
        (entDesc l.entry = false → entPlocal l.entry + block.length ≤ scratchEnd →
          (∀ b, StoredBytes (entPlocal l.entry) block.length b → v.localRelief l.core b = 0) →
          t.localRead l.core (entPlocal l.entry) block.length = block ∧
          BytesKept v t l.core (fun b => StoredBytes (entPlocal l.entry) block.length b ∨
            ∃ d ∈ l.syncs, SyncBytes (bits d 0 9) b)) ∧
        (∀ d, l.syncs = [d] → (t.core l.core).syncWord (bits d 0 9) = declaredWord d))) ∧
  ∀ (s : State) (c : CtxRef), s.taskEnds c = true → c.ctx < 4 → ∃ t, exec (.taskComplete c) s = .next t ∧
    (t.ctx c).task = none ∧ (t.ctx c).mode = .program ∧ (t.ctx c).line = [] ∧
    ((s.ctx c).mode = .program → (s.ctx c).line = [] → (s.ctx c).port2 = [] →
      RegistersKept (s.ctx c) (t.ctx c) (fun _ _ => False)) ∧
    (∀ tile n, n < (if tile then 8 else 64) → (holderOf (t.core c.core) tile n).owner ≠ some c.ctx) ∧
    (∀ o, o.core ≠ c.core → (t.ctx o).mode = (s.ctx o).mode ∧ (t.ctx o).pc = (s.ctx o).pc ∧
      RegistersKept (s.ctx o) (t.ctx o) (fun _ _ => False))

/-- CONTEXT RECORD WRITE stores the record of its context in the lowest free slot of the tenant's pool and leaves the context
free; with no slot, a suspension at a trap kills the task and any other is given up. That a slot in host memory which no
firewall window admits is taken as not free is the model's choice (log 14). The stores in flight that a closed gate waits for
are performed first, while the record may not yet be written too, which is the model's reading (log 69). A RESTORE loads the context
of its record, refuses a record that breaks R385 with an event where a host asked, and starts the task when its regions
are its own, which spends the record. What is kept beside the record is the model's choice (logs 18, 35 and 36). -/
def Obligations.RecordsAndRestores : Prop :=
  (∀ (s : State) (c : CtxRef) (tk : Task) (kind : Nat), (s.ctx c).task = some tk → (s.ctx c).saving = some kind →
    s.saveReady c = false → exec (.contextRecordWrite c) s = .next (s.storeMembers c (s.closedGates c))) ∧
  (∀ (s : State) (c : CtxRef) (tk : Task) (kind : Nat), (s.ctx c).task = some tk → (s.ctx c).saving = some kind →
    s.saveReady c = true → ∀ u, u = s.storeMembers c (s.closedGates c) →
    (∀ slot addr, u.poolFree tk.tenant (u.recordOf c kind).length = some slot →
      addr = u.poolBase tk.tenant + slot * u.poolSlotBytes tk.tenant →
      (∃ t, exec (.contextRecordWrite c) s = .next t ∧
        ((∀ h, homeOf addr ≠ .host h) → (∀ x, StoredBytes addr (u.recordOf c kind).length x → u.reliefAt (.phys x) = 0) →
          ∀ x, t.mem.read x = (u.mem.store addr (u.recordOf c kind)).read x) ∧
        (tk.tenant, slot) ∈ t.mod.poolUsed ∧ (t.ctx c).task = none ∧
        (∃ v ∈ t.saved, v.addr = addr ∧ v.core = c.core ∧ v.ctx = c.ctx ∧ v.task = tk ∧ v.kept = u.keptOf c kind) ∧
        (∀ k ∈ t.cmds, k.ctx ≠ some c)) ∧
      slot < s.poolSlots tk.tenant ∧ (tk.tenant, slot) ∉ s.mod.poolUsed ∧
      ∀ n, n < slot → (tk.tenant, n) ∈ s.mod.poolUsed ∨
        u.mayStore (u.poolBase tk.tenant + n * u.poolSlotBytes tk.tenant) (u.recordOf c kind).length = false) ∧
    (u.poolFree tk.tenant (u.recordOf c kind).length = none →
      (kind = 1 → exec (.contextRecordWrite c) s = .next (u.killTask c .trapped 1
        [(u.ctx c).epc.toNat, (u.ctx c).tcause.toNat, (u.ctx c).taddr.toNat])) ∧
      (kind ≠ 1 → ∃ t, exec (.contextRecordWrite c) s = .next t ∧ (t.ctx c).task = some tk ∧ (t.ctx c).saving = none ∧
        RegistersKept (u.ctx c) (t.ctx c) (fun _ _ => False) ∧ t.saved = u.saved ∧ t.mem = u.mem))) ∧
  ∀ (s : State) (q : RestoreReq), s.restores.find? (·.id == q.id) = some q → s.booted = true →
    (∀ code, s.restoreMove q = .refuse code → ∃ t, exec (.restore q.id) s = .next t ∧
      t.restores = s.restores.filter (·.id != q.id) ∧
      (q.port = true → t = ({ s with restores := s.restores.filter (·.id != q.id) } : State).emitFor 0x318 srcScheduler 0
        evRestore 2 code [q.addr]) ∧ t.saved = s.saved ∧ ContextsKept s t ∧ t.mem = s.mem) ∧
    (∀ v p bs r, s.restoreMove q = .begin_ v p bs r → ∃ t, exec (.restore q.id) s = .next t ∧
      t.ctx ⟨v.core, v.ctx⟩ = v.context q.id p (v.cmdsOf p bs s.nextId) v.gates bs ∧
      (t.ctx ⟨v.core, v.ctx⟩).pc = (if byteAt bs 9 = 1 then wordAt bs 40 else wordAt bs 16) ∧
      (∀ n, n < 64 → n ≠ 0 → (t.ctx ⟨v.core, v.ctx⟩).x n = wordAt bs (128 + 8 * n)) ∧
      (∀ n, n < 32 → (t.ctx ⟨v.core, v.ctx⟩).a n = wordAt bs (640 + 8 * n)) ∧
      t.cmds = s.cmds ++ v.cmdsOf p bs s.nextId ∧ t.reserved = r ∧ t.mem = s.mem ∧
      ∀ o, o ≠ ⟨v.core, v.ctx⟩ → t.ctx o = s.ctx o) ∧
    (∀ v, s.restoreMove q = .finish v → ∃ t, exec (.restore q.id) s = .next t ∧
      t.ctx ⟨v.core, v.ctx⟩ = { s.ctx ⟨v.core, v.ctx⟩ with starting := false } ∧
      t.saved = s.saved.filter (·.addr != v.addr) ∧ v.pool ∉ t.mod.poolUsed ∧ t.mem = s.mem ∧
      ∀ o, o ≠ ⟨v.core, v.ctx⟩ → t.ctx o = s.ctx o)

/-- The end of a time slice asks for a switch and changes nothing else; a request that has stood for PLAT kills its task,
which leaves its context free; and at a gang slice every running task of an outgoing tenant is asked to switch, and no
other: a task may go on while its tenant is eligible, or while it holds the stage with its request standing. That a request
ends when a set names its tenant again is the model's choice (log 68). -/
def Obligations.SlicesAndKills : Prop :=
  ∀ (s : State),
    (∀ c, s.sliceOut c = true → ∃ t, exec (.sliceExpiry c) s = .next t ∧ (t.ctx c).req.slice = some 0 ∧
      (t.ctx c) = { s.ctx c with req := { (s.ctx c).req with slice := some 0 } } ∧ OnlyContext s t c) ∧
    (∀ c tk, (s.ctx c).task = some tk → c.ctx < 4 → s.platOut c = true → ∃ t, exec (.platExpiry c) s = .next t ∧
      (t.ctx c).task = none ∧
      (∀ k ∈ t.cmds, k.ctx ≠ some c) ∧
      (∀ tile n, n < (if tile then 8 else 64) → (holderOf (t.core c.core) tile n).owner ≠ some c.ctx) ∧
      exec (.platExpiry c) s = .next (s.killTask c .killed 1 [(s.ctx c).epc.toNat, (s.ctx c).tcause.toNat, (s.ctx c).taddr.toNat])) ∧
    (∀ g, s.gang = some g → g.at_ < g.passed s.reference → ∃ t, exec .gangSliceSwitch s = .next t ∧
      t.gang = some { g with at_ := g.passed s.reference } ∧
      (∀ r tk, (s.ctx r).task = some tk → (t.ctx r).req.tenant =
        if t.eligible tk.tenant = true then none
        else if s.eligible tk.tenant = true ∧ (s.ctx r).starting = false ∧ (s.ctx r).ending = false
          then some ((s.ctx r).req.tenant.getD 0) else (s.ctx r).req.tenant) ∧
      (∀ r tk, (s.ctx r).task = some tk → (s.ctx r).starting = false → (s.ctx r).ending = false → (s.ctx r).saving = none →
        (t.canRun r = true ↔ t.eligible tk.tenant = true ∨
          ((t.core r.core).holder = r.ctx ∧ (t.ctx r).req.tenant.isSome = true))) ∧
      (∀ r, RegistersKept (s.ctx r) (t.ctx r) (fun _ _ => False) ∧ (t.ctx r).pc = (s.ctx r).pc ∧
        (t.ctx r).mode = (s.ctx r).mode) ∧ UnitsKept s t ∧ BytesKept s t 0 (fun _ => False))

/-! ### Host ports and the module block (R314, R386 to R392) -/

/-- A node posted through a port before READY or at an address that is no multiple of 64 is refused with FETCH, any
other joins its scheduler's posts. A read of OWNER answers 1 and makes the port the owner when the module has none, answers 0
when the other port is the owner, and serves port 0 first where both read in one fabric cycle; the owner gives it up. A
read of the window shows the event ring, EPOCH shows IOD0's counter. A write of the module block acts for the owner, for
any other port it leaves the block and gives the CFGREF event of the offset: EPOCH is pending while no task is loaded, READY is set by 1, a pool slot becomes free. A port whose link goes down
gives up ownership, one whose link trains answers; device memory takes a host's bytes unless its block is sealed. That the
registers of the event ring stand at the offsets 0x11000 to 0x11018 of the window is the model's choice (log 14), what a
sealed block does its reading (log 46). -/
def Obligations.HostPorts : Prop :=
  ∀ (s : State) (port : Nat) (v : Word),
    (s.portUp port = true →
      (∀ tenant, tenant < 16 →
        ((s.blockReg 0x008).getLsbD 0 = true → v.toNat % 64 = 0 → exec (.submitNode port tenant v) s =
          .next { s with posts := s.posts ++ [{ iod := portIod port, tenant := tenant, port := some port, addr := v.toNat, cmd := none, prio := 7, carrier := none }] }) ∧
        ((s.blockReg 0x008).getLsbD 0 = false ∨ v.toNat % 64 ≠ 0 → exec (.submitNode port tenant v) s = .next
          (s.emit srcScheduler (portIod port) evCompletion Status.refused.code 8 [v.toNat] (some port)))) ∧
      (∃ t, exec (.ownerAcquire port) s = .next t ∧ s.readWindow port 0x10000 = (t.port port).answer ∧
        t.mod.block = s.mod.block ∧ ContextsKept s t ∧ UnitsKept s t ∧ t.mem = s.mem ∧
        (s.mod.owner = none → t.mod.owner = some port ∧ (t.port port).answer = 1) ∧
        (s.mod.owner = some (1 - port) → port = 0 → s.mod.ownedAt = some s.fabric →
          t.mod.owner = some 0 ∧ (t.port 0).answer = 1 ∧ (t.port 1).answer = 0) ∧
        (s.mod.owner = some (1 - port) → port = 1 ∨ s.mod.ownedAt ≠ some s.fabric →
          t.mod.owner = s.mod.owner ∧ (t.port port).answer = 0)) ∧
      (s.readWindow port 0x12000 = BitVec.ofNat 64 (s.dieTime (iodDie 0)) ∧ s.readWindow port 0x11000 = (s.port port).ebase ∧
        s.readWindow port 0x11008 = (s.port port).esize ∧ s.readWindow port 0x11010 = (s.port port).ehead ∧
        s.readWindow port 0x11018 = (s.port port).etail ∧ ∀ off, off < 0x10000 → s.readWindow port off = 0) ∧
      (s.mod.owner = some port → ∃ t, exec (.ownerRelease port) s = .next t ∧ t.mod.owner = none ∧ t.mod.block = s.mod.block ∧
        ContextsKept s t ∧ UnitsKept s t ∧ t.mem = s.mem) ∧
      (s.mod.owner = some port →
        ((∀ k ∈ s.cores, ∀ c ∈ k.2.ctxs, c.2.loaded = false) → ∃ t, exec (.epochWrite port v) s = .next t ∧
          t.mer.epoch = some v ∧ t.mer.acc = s.mer.acc ∧ ContextsKept s t ∧ UnitsKept s t ∧ t.mem = s.mem) ∧
        (v = 1 → ∃ t, exec (.readySet port v) s = .next t ∧ (t.blockReg 0x008) = 1 ∧
          (∀ o, o ≠ 0x008 → t.blockReg o = s.blockReg o) ∧ ContextsKept s t ∧ t.mem = s.mem) ∧
        (v &&& ~~~0x0FFF000F#64 = 0 → ∃ t, exec (.rfree port v) s = .next t ∧
          (∀ x, x ∈ t.mod.poolUsed ↔ x ∈ s.mod.poolUsed ∧ x ≠ (v.toNat % 16, v.toNat / 2 ^ 16 % 2 ^ 12)) ∧
          ContextsKept s t ∧ t.mem = s.mem) ∧
        (∀ off, off = 0x010 ∨ off = 0x020 ∨ off = 0x248 ∨ off = 0x258 ∨ off = 0x300 ∨
            (off = 0x260 ∧ 1600000 ≤ v.toNat) ∨ (off = 0x310 ∧ v.toNat % 4096 = 0) →
          ∃ t, exec (.moduleBlockWrite port (0x12000 + off) v) s = .next t ∧ t.blockReg off = v ∧
          (∀ o, o ≠ off → t.blockReg o = s.blockReg o) ∧ ContextsKept s t ∧ t.mem = s.mem)) ∧
      (s.mod.owner ≠ some port → ∀ off, off % 8 = 0 → off < 0x1000 → ∃ t,
        exec (.moduleBlockWrite port (0x12000 + off) v) s = .next t ∧
        t = s.emit srcPort port evCfgref 0 0 [off] none ∧ t.mod = s.mod ∧ t.gang = s.gang ∧ t.mer = s.mer ∧
        t.restores = s.restores ∧ t.invals = s.invals ∧ ContextsKept s t ∧ t.mem = s.mem) ∧
      (∀ off t, (off = 0x000 ∧ exec (.epochWrite port v) s = .next t) ∨ (off = 0x008 ∧ exec (.readySet port v) s = .next t) ∨
          (off = 0x038 ∧ exec (.attestReport port v) s = .next t) ∨ (off = 0x240 ∧ exec (.rfree port v) s = .next t) ∨
          (off = 0x250 ∧ exec (.hostInvalidate port v) s = .next t) ∨ (off = 0x308 ∧ exec (.suspendRequest port v) s = .next t) ∨
          (off = 0x318 ∧ exec (.restoreRequest port v) s = .next t) →
        exec (.moduleBlockWrite port (0x12000 + off) v) s = .next t) ∧
      (∀ pa bs, s.booted = true → paModule pa = s.mod.number → (homeOf pa).isDram = true → splitRange pa bs.length = [(pa, bs.length)] →
        (s.reliefAt (.phys pa) = 0 → exec (.hostDeviceMemoryWrite port pa bs) s = .next (s.storeAt (.phys pa) bs)) ∧
        (s.reliefAt (.phys pa) = 2 ∨ s.reliefAt (.phys pa) = 3 → exec (.hostDeviceMemoryWrite port pa bs) s = .next s))) ∧
    (∃ t, exec (.portLinkDown port) s = .next t ∧ (t.port port).link = none ∧ t.mod.owner ≠ some port ∧
      (s.mod.owner ≠ some port → t.mod = s.mod) ∧ ContextsKept s t ∧ t.mem = s.mem) ∧
    (∀ kind, port < 2 → ∃ t, exec (.hostPortLinkUp port kind) s = .next t ∧ (t.port port).link = some kind ∧
      t.portUp port = true ∧ t.mod = s.mod ∧ ContextsKept s t ∧ t.mem = s.mem)

/-- The requests of the module block's owner. The last word of a nonce starts a report over the nonce and the module number,
written to memory and delivered as an event, whose address and bytes are the model's free values (log 11). START of TINVC
begins an invalidation of the page named; GCTL puts a gang schedule in force, and takes it out; SUSCTL asks a running task
to suspend, or answers with a refused suspension event that names the node; RSTCTL asks for a restore. -/
def Obligations.OwnerRequests : Prop :=
  ∀ (s : State) (port : Nat) (v : Word), s.portUp port = true → s.mod.owner = some port →
    (∃ t, exec (.attestReport port v) s = .next t ∧ t.blockReg 0x038 = v ∧ t.freeCtr = s.freeCtr + 1 ∧ ContextsKept s t ∧
      t = (({ s.setBlockReg 0x038 v with freeCtr := s.freeCtr + 1 } : State).deviceStore (Config.attestAddr s.freeCtr).toNat
        (Config.attestReport s.freeCtr [s.blockReg 0x020, s.blockReg 0x028, s.blockReg 0x030, v] s.mod.number) none).emit
        srcPort port Config.attestKind.toNat 0 0 [(Config.attestAddr s.freeCtr).toNat] none) ∧
    (v.toNat / 2 ^ 13 = 0 → v.getLsbD 6 = true → (s.blockReg 0x250).getLsbD 7 = false →
      ∃ t x, exec (.hostInvalidate port v) s = .next t ∧ t.invals = s.invals ++ [x] ∧ x.tenant = v.toNat % 16 ∧
        x.size = v.toNat / 16 % 4 ∧ x.va = (s.blockReg 0x248).toNat ∧ x.ctx = none ∧ x.host = true ∧
        (∀ d, d ∈ x.todo ↔ d < 28) ∧ (∀ d, d < 28 → ∃ m ∈ t.msgs, m.msg = .inval x.id d ∧ m.src = x.src) ∧
        (t.blockReg 0x250).getLsbD 7 = true ∧ ContextsKept s t ∧ t.mem = s.mem) ∧
    (v.toNat / 2 % 8 = 0 → v.toNat / 2 ^ 9 = 0 → 1 ≤ v.toNat / 16 → v.toNat / 16 ≤ 16 → s.mer.xmesh = false ∨ s.mod.meshRef = s.mod.number →
      (v.getLsbD 0 = true → 1600000 ≤ (s.blockReg 0x260).toNat →
        ∃ t g, exec (.gctlEnable port v) s = .next t ∧ t.gang = some g ∧ g.gt0 = (s.blockReg 0x258).toNat ∧
          g.glen = (s.blockReg 0x260).toNat ∧ g.sets.length = v.toNat / 16 ∧
          (∀ i, i < v.toNat / 16 → g.sets.getD i 0 = (s.blockReg (0x280 + 8 * i)).setWidth 16) ∧ g.at_ = 0 ∧
          t.blockReg 0x268 = v ∧ ContextsKept s t ∧ t.mem = s.mem) ∧
      (v.getLsbD 0 = false → ∃ t, exec (.gctlDisable port v) s = .next t ∧ t.gang = none ∧ t.blockReg 0x268 = v ∧
        (∀ r, (t.ctx r).req.tenant = none ∨ (s.ctx r).req.tenant = none) ∧ (∀ n, t.eligible n = true) ∧ t.mem = s.mem)) ∧
    (v.toNat / 2 ^ 6 % 2 ^ 26 = 0 → (s.blockReg 0x308).getLsbD 5 = false → v.getLsbD 4 = true →
      (∀ r, s.suspendTarget (v.toNat % 16) (s.blockReg 0x300).toNat (v.toNat / 2 ^ 32) = some r →
        ∃ t, exec (.suspendRequest port v) s = .next t ∧ (t.ctx r).req.suspend = true ∧
          (t.blockReg 0x308).getLsbD 5 = true ∧ (∀ o, o ≠ r → t.ctx o = s.ctx o) ∧
          RegistersKept (s.ctx r) (t.ctx r) (fun _ _ => False) ∧ t.mem = s.mem) ∧
      (s.suspendTarget (v.toNat % 16) (s.blockReg 0x300).toNat (v.toNat / 2 ^ 32) = none →
        ∃ t, exec (.suspendRequest port v) s = .next t ∧
          t = (s.setBlockReg 0x308 ((v &&& ~~~0x30#64) ||| 0x20)).emitFor 0x308 srcScheduler (portIod port) evSuspension 2 0
            [(s.blockReg 0x300).toNat] ∧ ContextsKept s t ∧ t.mem = s.mem)) ∧
    (v.toNat / 2 ^ 6 = 0 → (s.blockReg 0x318).getLsbD 5 = false → v.getLsbD 4 = true →
      ∃ t q, exec (.restoreRequest port v) s = .next t ∧ t.restores = s.restores ++ [q] ∧
        q.addr = (s.blockReg 0x310).toNat ∧ q.tenant = v.toNat % 16 ∧ q.port = true ∧ q.begun = false ∧
        (t.blockReg 0x318).getLsbD 5 = true ∧ ContextsKept s t ∧ t.mem = s.mem)

/-- The oldest device write of a port is performed in host memory, and an event record advances EHEAD and ends the BUSY that
waits for it. With space in its ring and no record held, a port takes a sync-protocol event of a core, whose record names
the core and the word, and one that has discarded records reports their number. A die that the message of an invalidation
reaches drops every entry that it names, leaf or pointer, acknowledges by a message once no write unit of the tenant waits
for its host, and the last acknowledgement completes the invalidation of the context that asked, whose TINVC counts it. The
firmware of the module asks for an invalidation too. Where a ring lies and how long a message takes are the model's choice
(logs 6 and 21); that an acknowledgement waits for those units, and how the firmware asks (log 38), and that BUSY ends with
the first port that writes the event (log 39), its reading. -/
def Obligations.RingsAndInvalidations : Prop :=
  ∀ (s : State),
    (∀ port w ws, s.portUp port = true → (s.port port).writes = w :: ws → ∃ t, exec (.hostWriteCompletion port) s = .next t ∧
      t.mem = s.mem.store w.pa w.bytes ∧ (t.port port).writes = ws ∧
      (t.port port).ehead = (if w.event then (s.port port).ehead + 1 else (s.port port).ehead) ∧
      (∀ off, w.event = true → (off, w.bytes) ∈ s.mod.busyUntil → (t.blockReg off).getLsbD 5 = false) ∧ ContextsKept s t ∧
      UnitsKept s t) ∧
    (∀ port core word, port < 2 → (s.port port).held = [] → (s.port port).hasSpace port = true →
      ∃ w, ((s.syncEvent core word).port port).writes = (s.port port).writes ++ [w] ∧ w.event = true ∧ w.bytes.length = 64 ∧
        fieldAt w.bytes 18 1 = 4 ∧ fieldAt w.bytes 24 8 = core % 2 ^ 64 ∧ fieldAt w.bytes 32 8 = word % 2 ^ 64) ∧
    (∀ port, port < 2 → (s.port port).held = [] → (s.port port).discarded ≠ 0 → (s.port port).hasSpace port = true →
      ∃ t w, exec (.overflowEvent port) s = .next t ∧ (t.port port).discarded = 0 ∧
        (t.port port).writes = (s.port port).writes ++ [w] ∧ w.event = true ∧ w.bytes.length = 64 ∧
        fieldAt w.bytes 18 1 = 7 ∧ fieldAt w.bytes 20 4 = (s.port port).discarded % 2 ^ 32 ∧ ContextsKept s t ∧ t.mem = s.mem) ∧
    (∀ v die, s.invals.find? (·.id == v.id) = some v →
      (∀ m, s.booted = true → s.carrierOf (.inval v.id die) = some m → s.messageReady m = true →
        ∃ t, exec (.invalidationRequest v.id die) s = .next t ∧ (∀ x ∈ t.msgs, x.id ≠ m.id) ∧
        (∀ e ∈ (t.die die).tcache ++ (t.die die).pcache, e.named v = false) ∧ (∀ d, d ≠ die → t.die d = s.die d) ∧
        t.invals.find? (·.id == v.id) = some { v with todo := v.todo.erase die, owing := v.owing ++ [die] } ∧
        ContextsKept s t ∧ t.mem = s.mem) ∧
      (s.booted = true → die ∈ v.owing → s.unitsWait v die = false → ∃ t m, exec (.invalidationAckSend v.id die) s = .next t ∧
        t.invals.find? (·.id == v.id) = some { v with owing := v.owing.erase die, flying := v.flying ++ [die] } ∧
        t.msgs = s.msgs ++ [m] ∧ m.msg = .ack v.id die ∧ m.src = dieSrc die ∧ m.dst = v.src ∧
        ContextsKept s t ∧ t.mem = s.mem) ∧
      (∀ m r, s.carrierOf (.ack v.id die) = some m → s.messageReady m = true → v.flying = [die] → v.todo = [] →
        v.owing = [] → v.ctx = some r →
        ∃ t, exec (.invalidationAck v.id die) s = .next t ∧ (∀ x ∈ t.invals, x.id ≠ v.id) ∧ (∀ x ∈ t.msgs, x.id ≠ m.id) ∧
          ((t.ctx r).tinvc.toNat / 2 ^ 8) % 2 ^ 5 = ((s.ctx r).tinvc.toNat / 2 ^ 8 % 2 ^ 5 + 1) % 2 ^ 5 ∧
          ((t.ctx r).tinvc.getLsbD 7 = false ↔ (s.ctx r).tinvc.toNat / 2 ^ 8 % 2 ^ 5 = 27) ∧
          (∀ o, o ≠ r → t.ctx o = s.ctx o) ∧ t.mem = s.mem)) ∧
    (∀ v : Word, s.booted = true → v.toNat / 2 ^ 13 = 0 → v.getLsbD 6 = true → (s.blockReg 0x250).getLsbD 7 = false →
      ∃ t x, exec (.hostInvalidate 2 v) s = .next t ∧ t.invals = s.invals ++ [x] ∧ x.tenant = v.toNat % 16 ∧
        x.size = v.toNat / 16 % 4 ∧ x.va = (s.blockReg 0x248).toNat ∧ x.ctx = none ∧ (∀ d, d ∈ x.todo ↔ d < 28) ∧
        (t.blockReg 0x250).getLsbD 7 = true ∧ t.mod.owner = s.mod.owner ∧ ContextsKept s t ∧ t.mem = s.mem)

/-! ### The module (R265 to R268, R393 to R399) -/

/-- Module reset puts every context, unit and register at reset, keeps host memory and CFGADDR, and takes the module's
number, budget, firmware floor and link policy from the configuration block that verifies in host memory at CFGADDR, or
the defaults where there is none; the module runs when every I/O die has a verified image that is not below the floor. A
link is enabled when its peer is the module that the policy expects, and another than this one, and only then. What memory
holds after a reset, which block verifies in a host memory, a free value, that none does where nothing has been written, how
its numbers out of range are read, and that it brings the links between other modules, are the model's choice (logs 2, 11,
14, 47 and 59). -/
def Obligations.BringUpAndLinks : Prop :=
  ∀ (s : State),
    (∀ pa, pa = (s.blockReg 0x010).toNat →
      ((homeOf pa).isHost = false ∨ (∀ a, pa ≤ a → (homeOf a).isHost = true → ∀ x ∈ s.mem, x.1 ≠ a) → s.bootBlock = none) ∧
      ((homeOf pa).isHost = true → (∃ x ∈ s.mem, pa ≤ x.1 ∧ (homeOf x.1).isHost = true) →
        s.bootBlock = Config.blockAt (s.mem.filter fun e => (homeOf e.1).isHost && pa ≤ e.1) pa)) ∧
    (∀ (b : BootInput) (cfg : Option ConfigBlock), cfg = s.bootBlock → ∃ t, exec (.moduleReset b) s = .next t ∧ (∀ r, t.ctx r = Ctx.reset) ∧ (∀ k, t.core k = Core.reset) ∧
      (∀ pa, t.mem.read pa = match homeOf pa with | .host _ => s.mem.read pa | _ => 0) ∧
      t.blockReg 0x010 = s.blockReg 0x010 ∧ (t.blockReg 0x018).getLsbD 0 = bootRuns b ((cfg.map ConfigBlock.fwFloor).getD 0) ∧
      (t.blockReg 0x018).getLsbD 1 = cfg.isNone ∧ t.mod.owner = none ∧
      match cfg with
      | none => t.mod.number = 0 ∧ t.mod.budget = 3800 ∧ ∀ l, (Sparse.get Link.reset t.links l).expect = none
      | some c => t.mod.number = c.moduleNo % 16 ∧
        t.mod.budget = (if 1000 ≤ c.budget ∧ c.budget ≤ 4400 then c.budget else 3800) ∧
        t.mod.meshRef = c.meshRef ∧ t.mod.fwFloor = c.fwFloor ∧ t.farLinks = c.farLinks ∧
        ∀ l, (Sparse.get Link.reset t.links l).expect =
          if l < 8 then ((c.policy.filter (·.1 == l)).getLast?).map Prod.snd else none) ∧
    (∀ (b : BootInput) (floor : Nat), bootRuns b floor = true ↔ ∀ i, i < 4 → ∃ v, b.firmware[i]? = some (some v) ∧ floor ≤ v) ∧
    (∀ link peer l, s.booted = true → link < 8 → l = Sparse.get Link.reset s.links link → ∃ t, exec (.linkConfiguration link peer) s = .next t ∧
      Sparse.get Link.reset t.links link =
        { expect := l.expect, peer := some peer, enabled := l.expect == some peer && peer != s.mod.number } ∧
      (l.expect = some peer → peer ≠ s.mod.number → t.mer.xmesh = true ∧ t.ports = s.ports) ∧
      (∀ m, m ≠ link → Sparse.get Link.reset t.links m = Sparse.get Link.reset s.links m) ∧ ContextsKept s t ∧ t.mem = s.mem)

/-- Meridian. A discipline message sets the step within 100 ppm of nominal and locks the reference; its loss is held
over and, ten seconds later, the bound ends; an epoch applies to every counter and none decreases; a counter at its
greatest value stops there. How far the counters of two dies stand apart is the model's choice (log 10), how a message
reaches IOD0 too (log 62). -/
def Obligations.MeridianDiscipline : Prop :=
  ∀ (s : State),
    (∀ rate : Int, s.ptpHeard = true → ∃ t, exec (.ptpMessage rate) s = .next t ∧ t.mer.lock = true ∧ t.mer.hold = false ∧
      (t.mer.step : Int) ≤ nominalStep + nominalStep / 10000 ∧ (nominalStep : Int) - nominalStep / 10000 ≤ t.mer.step ∧
      ((nominalStep : Int) - nominalStep / 10000 ≤ rate → rate ≤ (nominalStep : Int) + nominalStep / 10000 → (t.mer.step : Int) = rate) ∧
      t.mer.acc = s.mer.acc ∧ ContextsKept s t ∧ t.mem = s.mem) ∧
    (s.mer.lock = true → ∃ t, exec .referenceLoss s = .next t ∧ t.mer.lock = false ∧ t.mer.hold = true ∧
      t.mer.holdAt = some s.now ∧ t.mer.step = s.mer.step ∧ t.mer.bound = s.mer.bound ∧ ContextsKept s t ∧ t.mem = s.mem) ∧
    (∀ at_, s.mer.holdAt = some at_ → at_ + 10 * 1880000000 * Config.fabricPeriod ≤ s.now →
      ∃ t, exec .holdoverExpiry s = .next t ∧ t.mer.bound = false ∧ t.mer.hold = s.mer.hold ∧ t.mer.holdAt = none ∧
        ContextsKept s t ∧ t.mem = s.mem) ∧
    (∀ v, s.booted = true → s.mer.epoch = some v → ∃ t, exec .epochApply s = .next t ∧ t.mer.epoch = none ∧ t.mer.held = false ∧
      v.toNat * 2 ^ 32 ≤ t.mer.acc ∧ s.mer.acc ≤ t.mer.acc + (s.mer.acc - accMax) ∧
      (s.mer.acc ≤ accMax → ∀ d, (t.die d).stopped = (s.die d).stopped ∧ s.dieTime d ≤ t.dieTime d ∧
        ((s.die d).stopped = none → v.toNat ≤ t.dieTime d ∧
          (s.mer.held = true → s.mer.acc = 0 → t.dieTime d = v.toNat))) ∧
      s.now ≤ t.now ∧ t.now % (64 * Config.fabricPeriod) = 0 ∧ ContextsKept s t ∧ t.mem = s.mem) ∧
    (∀ die, (s.die die).stopped = none → s.dieTime die = 2 ^ 64 - 1 → ∃ t, exec (.meridianCounterStop die) s = .next t ∧
      (t.die die).stopped = some (2 ^ 64 - 1) ∧ t.dieTime die = 2 ^ 64 - 1 ∧ (∀ d, d ≠ die → t.die d = s.die d) ∧
      ContextsKept s t ∧ t.mem = s.mem)

/-- Power. Once in a microsecond an arbitration gives the dies their grants, each at most its ceiling and all together at
most the budget, asks a compute die whose demand exceeds its grant for the next lower clock step, three at most, and delays
the best-effort admission of one that has none left; a core voltage is set at most at its ceiling. At a core-cycle boundary the last step asked for is in force, and a
clearing or zeroing keeps the core cycles that it has still to run. A die-to-die link that is asked to narrow waits out its
microsecond; then it is narrowed in both directions unless a slot from 32 to 59 of it is reserved, which a power event
reports. What is asked for each die is an input (log 13), when a narrowing is judged the model's reading (log 63). -/
def Obligations.PowerSteps : Prop :=
  ∀ (s : State),
    (∀ d n, d < 24 → s.booted = true → s.mod.granted ≤ s.micros →
      ∃ t, exec (.powerArbitration { grants := [(d, n)], short := [d], margin := [], volts := [] }) s = .next t ∧
      (t.die d).grant = min (min n (Config.dieCeiling d)) s.mod.budget ∧ (t.die d).step = (s.die d).step ∧
      ((s.die d).wanted < 3 → (t.die d).wanted = (s.die d).wanted + 1) ∧
      ((s.die d).wanted = 3 → (t.die d).asked = (s.die d).asked) ∧
      ((t.die d).slow = true ↔ (s.die d).step = 3) ∧
      (∀ e, e ≠ d → t.die e = { s.die e with grant := if e < 40 then 0 else (s.die e).grant
                                             slow := if e < 24 then false else (s.die e).slow }) ∧
      t.mod.granted = s.micros + 1 ∧ ContextsKept s t ∧ t.mem = s.mem) ∧
    (∀ p, s.booted = true → s.mod.granted ≤ s.micros → ∃ t, exec (.powerArbitration p) s = .next t ∧
      ((List.range 40).map fun d => (t.die d).grant).sum ≤ s.mod.budget ∧
      ∀ d, d < 40 → (t.die d).grant ≤ Config.dieCeiling d) ∧
    (∀ d mv, d < 24 → s.booted = true → s.mod.granted ≤ s.micros →
      ∃ t, exec (.powerArbitration { grants := [], short := [], margin := [], volts := [(d, mv)] }) s = .next t ∧
        (t.die d).volts = min mv Config.voltCeiling ∧ ∀ e, e ≠ d → (t.die e).volts = (s.die e).volts) ∧
    (∀ p, s.booted = true → s.micros < s.mod.granted → exec (.powerArbitration p) s = .next s) ∧
    (∀ d, (s.die d).asked ≠ [] → ∃ t, exec (.throttleStep d) s = .next t ∧ (t.die d).step = (s.die d).asked.getLastD 0 ∧
      (t.die d).asked = [] ∧ (∀ e, e ≠ d → t.die e = s.die e) ∧ ContextsKept s t ∧ t.mem = s.mem ∧
      ∀ core n old new, dieOf core = d → 0 < n → old = Config.corePeriod (s.die d).step → new = Config.corePeriod (t.die d).step →
        (∀ tile m, (holderOf (s.core core) tile m).clearing = true → (holderOf (s.core core) tile m).ends = s.now + n * old →
          (holderOf (t.core core) tile m).ends = s.now + n * new) ∧
        (∀ g, ((s.core core).region g).zeroing = true → ((s.core core).region g).ends = s.now + n * old →
          ((t.core core).region g).ends = s.now + n * new)) ∧
    (∀ l o, oppositeLink l = some o → l / 4 < 768 → dieOf (l / 4) ≠ dieOf (o / 4) →
      (s.booted = true → (∀ x ∈ s.narrowAsked, x.1 ≠ l) →
        exec (.linkNarrow l) s = .next { s with narrowAsked := s.narrowAsked ++ [(l, s.micros)] }) ∧
      (∀ m, (l, m) ∈ s.narrowAsked → m < s.micros → (s.die (dieOf (l / 4))).asked = [] → (s.die (dieOf (o / 4))).asked = [] →
        ∃ t, exec (.linkNarrow l) s = .next t ∧ t.narrowAsked = s.narrowAsked.filter (·.1 != l) ∧
        ((∀ x ∈ s.reserved, x.link = l ∨ x.link = o → x.slot < 32) → l ∈ t.narrow ∧ o ∈ t.narrow ∧
          ∀ m, m ≠ l → m ≠ o → (m ∈ t.narrow ↔ m ∈ s.narrow)) ∧
        ((∃ x ∈ s.reserved, (x.link = l ∨ x.link = o) ∧ 32 ≤ x.slot) → t.narrow = s.narrow ∧
          t = ({ s with narrowAsked := s.narrowAsked.filter (·.1 != l) } : State).emit srcPower 0 evPower 0 0 [l] none) ∧
        ContextsKept s t ∧ t.mem = s.mem)) ∧
    (∀ l, oppositeLink l = none ∨ 768 ≤ l / 4 → (∀ x ∈ s.narrowAsked, x.1 ≠ l) → exec (.linkNarrow l) s = .next s)

/-! ### Reset and memory (R138, R309, R394 to R397) -/

/-- The module right after reset: nothing is loaded, queued or owned, the constant registers hold their constants, the
defaults of R394 stand, and Meridian is held at 0. The values of the registers to which the spec gives none, and what
memory that nothing has written reads as, are the model's choice (logs 1, 2, 5, 10 and 14). -/
def Obligations.ResetState : Prop :=
  (∀ r : CtxRef, (State.reset.ctx r).task = none ∧ (State.reset.ctx r).mode = .program ∧ (State.reset.ctx r).p 0 = true ∧
    (State.reset.ctx r).x 0 = 0 ∧ (State.reset.ctx r).mr 0 = BitVec.allOnes 128 ∧ (State.reset.ctx r).line = [] ∧
    (State.reset.ctx r).sticky = 0 ∧ (State.reset.ctx r).seq.active = false ∧ State.reset.sysRead r 0x000 = 0x0000249600B00001) ∧
  (∀ core n, (holderOf (State.reset.core core) true n).owner = none ∧ (holderOf (State.reset.core core) false n).owner = none ∧
    ((State.reset.core core).region n).owner = none ∧ (State.reset.core core).syncWord n = 0) ∧
  State.reset.mod.number = 0 ∧ State.reset.mod.budget = 3800 ∧ State.reset.mod.owner = none ∧
  State.reset.mer.held = true ∧ State.reset.mer.lock = false ∧ State.reset.mer.xmesh = false ∧ State.reset.mer.epoch = none ∧
  (∀ d, State.reset.dieTime d = 0 ∧ (State.reset.die d).step = 0) ∧ (∀ p, (State.reset.port p).link = none) ∧
  (∀ l, (Sparse.get Link.reset State.reset.links l).enabled = false) ∧ State.reset.cmds = [] ∧ State.reset.nodes = [] ∧
  State.reset.reserved = [] ∧ State.reset.Canonical ∧ (∀ pa, State.reset.mem.read pa = 0) ∧ State.reset.agenda = []

/-- Memory reads back: a stored range reads as what was stored, every other byte as before, the canonical form stays, and
two memories in that form that read alike are equal. Every step keeps the canonical form of global memory, of every
scratchpad and of every cluster's SRAM, from whatever state that has it. -/
def Obligations.MemoryReadsBack : Prop :=
  (∀ s t : State, s.Canonical → step s = .next t → t.Canonical) ∧
  ∀ (m : Memory) (a : Nat) (bs : List Byte),
    (m.store a bs).bytes a bs.length = bs ∧ (∀ b, b < a ∨ a + bs.length ≤ b → (m.store a bs).read b = m.read b) ∧
    (m.wf = true → (m.store a bs).wf = true ∧ ∀ lo hi, (m.clear lo hi).wf = true) ∧
    (∀ we b, (m.storeMasked a we bs).read b =
      if a ≤ b ∧ b < a + bs.length ∧ we.testBit (b - a) = true then bs.getD (b - a) 0 else m.read b) ∧
    ∀ n : Memory, m.wf = true → n.wf = true → (∀ b, m.read b = n.read b) → m = n

/-! ### Words, groups and steps (R56 to R62, R86 to R92, R371) -/

/-- A step runs the decoded word. Where the next step is a group fetch of a context that can run and owes nothing, and
the group at its pc is one word with its stop bit set that decodes to i, which the mode accepts and whose landing pad,
mark and checks of R371 hold nothing back, the step is exec of i in the state with that group formed, then the end of
its cycle: the stores of port 2, the context cycle, the results that land, and the next group. The order of steps is the
model's choice (logs 4 and 5). -/
def Obligations.StepRunsTheDecodedWord : Prop :=
  ∀ (s u : State) (c : CtxRef) (rest : List (Option Instr)) (w : BitVec 64) (i : Instr),
    s.agenda = some (.groupFetch c) :: rest → s.canRun c = true → (s.ctx c).blocked = none → (s.ctx c).bubbles = 0 →
    (s.ctx c).tret = none → (s.ctx c).kend = false → (s.ctx c).entered = false → (s.ctx c).at_ &&& 7 = 0 →
    ((s.setAgenda rest).focus c).formGroup c (s.ctx c).at_.toNat = (.ok [w], u) →
    decodeWord w = .ok i → acceptedIn (s.ctx c).mode i = true → padOk (u.ctx c) [itemOf [] w i] = true →
    u.atMark c [w] = none → u.lateChecks [itemOf [] w i] = .ok →
    step s =
      andThen (exec i ((u.form c 1 [itemOf [] w i]).atWord (stopBit w) 0)) fun t =>
        let t := if t.iss.checked then t.drainPort t.cur else t
        andThen (exec (.resultLanding t.cur) t.countGroup) fun t =>
          andThen (exec (.arrayResultLanding t.cur) t) fun t => .next (t.finishGroup false)

/-- No instruction stops the machine: exec answers a next state for every instruction and event in every state, and so
does every step. That every step goes on is a property of the model, and what memory that nothing has written reads as
its choice (log 2). -/
def Obligations.NothingStops : Prop :=
  (∀ (i : Instr) (s : State), ∃ t, exec i s = .next t) ∧ ∀ s : State, Runs s

/-- A word of a group that has passed its checks has no effect where its guard is false (R59), whichever word it is.
A word that the mode does not accept raises ILG with its group's address in EPC and TADDR, whatever its guard: an
MTS to a register that only a supervisor handler writes, in the program; a word outside the accepted sets, in a
handler. -/
def Obligations.GuardsAndAcceptedWords : Prop :=
  (∀ (i : Instr) (st : Bool) (p : Parts) (s : State), i.parts st = some p → s.iss.checked = true →
     s.me.guard p.g = false → exec i s = .next s) ∧
  (∀ (i : Instr) (st : Bool) (p : Parts) (s : State), i.parts st = some p → s.iss.checked = false →
     acceptedIn s.me.mode i = false →
     exec i s = .next (s.takeTrap s.cur (Trap.plain 1 s.me.at_) s.me.at_))

/-! ### Class I (R90, R122, R126 to R139) -/

/-- ADD, SUB, MUL, MULH, AND, OR, XOR and ANDN write the destination of FS with latency 1, MUL and MULH 3, and set no
flag: wrapping sums and differences, the low and high halves of the product, and bitwise results. MULH reads its sources
signed under SUB 0 and unsigned under SUB 1. -/
def Obligations.SumsProductsAndLogic : Prop :=
  ∀ (g : Guard) (f : FmtA) (s : State),
    (∀ e ∈ [(Instr.add, fun a b : Word => BitVec.ofInt 64 (a.toInt + b.toInt)),
        (Instr.sub, fun a b => BitVec.ofInt 64 (a.toInt - b.toInt)), (Instr.and, fun a b => a &&& b),
        (Instr.or, fun a b => a ||| b), (Instr.xor, fun a b => a ^^^ b), (Instr.andn, fun a b => a &&& ~~~b)],
      Goes (e.1 g f) g s →
        exec (e.1 g f) s = .next (s.put 1 (dstI f (e.2 (s.me.srcA f) (s.me.srcB f))) Flags.none)) ∧
    (Goes (.mul g f) g s → exec (.mul g f) s =
      .next (s.put 3 (dstI f (BitVec.ofInt 64 ((s.me.srcA f).toInt * (s.me.srcB f).toInt))) Flags.none)) ∧
    (Goes (.mulh g f) g s → f.sub = 0 → exec (.mulh g f) s = .next (s.put 3 (dstI f
      ((((s.me.srcA f).signExtend 128) * ((s.me.srcB f).signExtend 128)).extractLsb' 64 64)) Flags.none)) ∧
    (Goes (.mulh g f) g s → f.sub = 1 → exec (.mulh g f) s = .next (s.put 3 (dstI f
      ((((s.me.srcA f).setWidth 128) * ((s.me.srcB f).setWidth 128)).extractLsb' 64 64)) Flags.none))

/-- Shifts take the full 64-bit amount: an amount of 64 or more leaves 0, or copies of the sign in SRA, which is the
floor of the quotient; ROTL turns by the amount modulo 64.
CLZ writes the number of leading zero bits of its source, POPC the number of its one bits, and MIN and MAX the
smaller and the larger source, read signed under SUB 0 and unsigned under SUB 1. -/
def Obligations.ShiftsCountsAndExtremes : Prop :=
  (∀ (g : Guard) (f : FmtA) (s : State) (a n : Word), s.me.srcA f = a → s.me.srcB f = n →
     (Goes (.shl g f) g s → exec (.shl g f) s =
       .next (s.put 1 (dstI f (BitVec.ofNat 64 (a.toNat * 2 ^ n.toNat))) Flags.none)) ∧
     (Goes (.shr g f) g s → exec (.shr g f) s =
       .next (s.put 1 (dstI f (BitVec.ofNat 64 (a.toNat / 2 ^ n.toNat))) Flags.none)) ∧
     (Goes (.sra g f) g s → exec (.sra g f) s =
       .next (s.put 1 (dstI f (BitVec.ofInt 64 (a.toInt / 2 ^ n.toNat))) Flags.none)) ∧
     (Goes (.rotl g f) g s → exec (.rotl g f) s = .next (s.put 1
       (dstI f ((a <<< (n.toNat % 64)) ||| (a >>> (64 - n.toNat % 64)))) Flags.none))) ∧
  (∀ (g : Guard) (f : FmtA) (s : State) (a b : Word), s.me.srcA f = a → s.me.srcB f = b →
     (Goes (.clz g f) g s → ∃ n, exec (.clz g f) s = .next (s.put 1 (dstI f (BitVec.ofNat 64 n)) Flags.none) ∧
       n ≤ 64 ∧ a.toNat < 2 ^ (64 - n) ∧ (a ≠ 0 → 2 ^ (63 - n) ≤ a.toNat)) ∧
     (Goes (.popc g f) g s → exec (.popc g f) s = .next (s.put 1
       (dstI f (BitVec.ofNat 64 (((List.range 64).filter fun i => a.getLsbD i).length))) Flags.none)) ∧
     (∀ e ∈ [(Instr.min, true), (Instr.max, false)], Goes (e.1 g f) g s →
       (f.sub = 0 → exec (e.1 g f) s =
         .next (s.put 1 (dstI f (if decide (a.toInt < b.toInt) = e.2 then a else b)) Flags.none)) ∧
       (f.sub = 1 → exec (e.1 g f) s =
         .next (s.put 1 (dstI f (if decide (a.toNat < b.toNat) = e.2 then a else b)) Flags.none))))

/-- DIV and REM truncate toward zero with latency 18. Division by zero gives all ones and the dividend and sets DZ;
−2^63 by −1 gives −2^63 and 0; every other pair sets no flag. -/
def Obligations.DivisionAndRemainder : Prop :=
  ∀ (g : Guard) (f : FmtA) (s : State) (a b : Word), s.me.srcA f = a → s.me.srcB f = b →
    (b = 0 →
      (Goes (.div g f) g s → exec (.div g f) s = .next (s.put 18 (dstI f (BitVec.allOnes 64)) Flags.dz)) ∧
      (Goes (.rem g f) g s → exec (.rem g f) s = .next (s.put 18 (dstI f a) Flags.dz))) ∧
    (f.sub = 0 → a.toInt = -(2 ^ 63) → b.toInt = -1 →
      (Goes (.div g f) g s → exec (.div g f) s = .next (s.put 18 (dstI f 0x8000000000000000#64) Flags.none)) ∧
      (Goes (.rem g f) g s → exec (.rem g f) s = .next (s.put 18 (dstI f 0) Flags.none))) ∧
    (f.sub = 0 → b ≠ 0 → ¬(a.toInt = -(2 ^ 63) ∧ b.toInt = -1) →
      (Goes (.div g f) g s → ∃ q, exec (.div g f) s = .next (s.put 18 (dstI f q) Flags.none) ∧
        q.toInt = a.toInt.tdiv b.toInt) ∧
      (Goes (.rem g f) g s → ∃ r, exec (.rem g f) s = .next (s.put 18 (dstI f r) Flags.none) ∧
        r.toInt = a.toInt - b.toInt * a.toInt.tdiv b.toInt)) ∧
    (f.sub = 1 → b ≠ 0 →
      (Goes (.div g f) g s → ∃ q, exec (.div g f) s = .next (s.put 18 (dstI f q) Flags.none) ∧
        q.toNat = a.toNat / b.toNat) ∧
      (Goes (.rem g f) g s → ∃ r, exec (.rem g f) s = .next (s.put 18 (dstI f r) Flags.none) ∧
        r.toNat = a.toNat - b.toNat * (a.toNat / b.toNat)))

/-- CMP and CMPI write the condition of R64 to p[DST]; CMPI compares with the sign-extended low 29 bits of its
immediate under the condition in the five bits above them.
SEL chooses by p[AUX]; PAND, POR and PXOR combine two predicates, inverted by SUB[0] and SUB[1]; PNOT inverts one. -/
def Obligations.ComparisonsAndPredicates : Prop :=
  (∀ (g : Guard) (s : State) (a b : Word) (v : Bool),
     (∀ f : FmtA, Goes (.cmp g f) g s → s.me.srcA f = a → s.me.srcB f = b → (v = true ↔ CondHolds f.sub.toNat a b) →
       exec (.cmp g f) s = .next (s.put 1 (.p f.dst.toNat v) Flags.none)) ∧
     (∀ f : FmtB, Goes (.cmpi g f) g s → s.me.x f.opa.toNat = a → b.toInt = (f.imm.setWidth 29).toInt →
       (v = true ↔ CondHolds (f.imm.toNat / 2 ^ 29) a b) →
       exec (.cmpi g f) s = .next (s.put 1 (.p f.dst.toNat v) Flags.none))) ∧
  (∀ (g : Guard) (f : FmtA) (s : State) (u w : Bool),
     u = (s.me.p f.opa.toNat != f.sub.getLsbD 0) → w = (s.me.p f.opb.toNat != f.sub.getLsbD 1) →
     (Goes (.sel g f) g s → exec (.sel g f) s =
       .next (s.put 1 (dstI f (if s.me.p f.aux.toNat then s.me.srcA f else s.me.srcB f)) Flags.none)) ∧
     (∀ e ∈ [(Instr.pand, u && w), (Instr.por, u || w), (Instr.pxor, u != w), (Instr.pnot, !s.me.p f.opa.toNat)],
       Goes (e.1 g f) g s → exec (e.1 g f) s = .next (s.put 1 (.p f.dst.toNat e.2) Flags.none)))

/-- The immediate forms take x[OPA] and the sign-extended IMM34, LEA the address registers; MOVI writes the
sign-extended IMM39, and with HI bits 63 to 39 of its destination, which keeps its low 39 bits.
MFS writes x[DST] with the system register as it stands before its group, and TIME with the Meridian counter of
the core's die; the five rows of MTS send x[OPA] to their system register, which receives it one context cycle later. -/
def Obligations.ImmediatesAndSystemRegisters : Prop :=
  (∀ (g : Guard) (s : State),
     (∀ (f : FmtB) (k a : Word), k.toInt = f.imm.toInt → s.me.x f.opa.toNat = a →
       (∀ e ∈ [(Instr.addi, BitVec.ofInt 64 (a.toInt + k.toInt)), (Instr.andi, a &&& k), (Instr.ori, a ||| k),
           (Instr.xori, a ^^^ k), (Instr.shli, BitVec.ofNat 64 (a.toNat * 2 ^ k.toNat)),
           (Instr.shri, BitVec.ofNat 64 (a.toNat / 2 ^ k.toNat)),
           (Instr.srai, BitVec.ofInt 64 (a.toInt / 2 ^ k.toNat))],
         Goes (e.1 g f) g s → exec (e.1 g f) s = .next (s.put 1 (.x f.dst.toNat e.2) Flags.none)) ∧
       (Goes (.lea g f) g s → exec (.lea g f) s = .next (s.put 1 (.a f.dst.toNat (s.me.a f.opa.toNat + k)) Flags.none))) ∧
     (∀ (f : FmtW) (v : Word),
       (Goes (.movi g f) g s → v.toInt = f.imm.toInt →
         exec (.movi g f) s = .next (s.put 1 (.x f.dst.toNat v) Flags.none)) ∧
       (Goes (.moviHi g f) g s → v.toNat = f.imm.toNat % 2 ^ 25 * 2 ^ 39 + (s.me.x f.dst.toNat).toNat % 2 ^ 39 →
         exec (.moviHi g f) s = .next (s.put 1 (.x f.dst.toNat v) Flags.none)))) ∧
  (∀ (g : Guard) (s : State),
     (∀ f : FmtB, Goes (.mfs g f) g s →
       exec (.mfs g f) s = .next (s.put 1 (.x f.dst.toNat (s.sysRead s.cur (sysIndex f))) Flags.none)) ∧
     (∀ f : FmtA, Goes (.time g f) g s → exec (.time g f) s =
       .next (s.put 1 (.x f.dst.toNat (BitVec.ofNat 64 (s.dieTime (dieOf s.cur.core)))) Flags.none)) ∧
     (∀ f : FmtB, ∀ i ∈ [Instr.mts, .mtsSticky, .mtsPend, .regrelWrite, .tinvcStart], Goes (i g f) g s →
       exec (i g f) s = .next (s.put 1 (.sys (sysIndex f) (s.me.x f.opa.toNat)) Flags.none)))

/-! ### Results in flight and their landing (R90 to R92, R125, R142) -/

/-- Landing takes every due result of the running mode but those of the array out of its line, and no other, whatever
the results write. -/
def Obligations.DueResultsLeaveTheLine : Prop :=
  ∀ (s : State) (c : CtxRef), ∃ t, exec (.resultLanding c) s = .next t ∧
    (t.ctx c).curLine = (s.ctx c).curLine.filter (fun p => decide ((s.ctx c).clock < p.due) || p.eff.isArray) ∧
    (t.ctx c).mode = (s.ctx c).mode ∧ (t.ctx c).ccyc = (s.ctx c).ccyc ∧ (t.ctx c).hcyc = (s.ctx c).hcyc

/-- A result to a register that is due writes that register and sets its flags in STICKY, and nothing else: x0, p0 and
m0 keep their constants, and a vector register changes only in the bytes that its write enable marks.
A write of a system register that is due: PMBOUND takes 32 bits, PEND one, STICKY nine; EPC, TADDR, TINVA and TESTIM
all 64; KIHAND a group address; TCAUSE and MDLINFO their fields. Reserved bits are ignored, and no other register, context
or byte changes. In the completion handler a result to x60 to x63 writes the shadow and no register of the program (R248).
REGREL hands on each region of its bitmap that the context owns (R215); TINVC with START, where none is in progress, starts
an invalidation at the 28 dies, and with one in progress has no effect (R314); TRET holds what the handler asks for, a value
with none of its three bits set has no effect (R377). -/
def Obligations.RegisterResultsLand : Prop :=
  (∀ (s : State) (r : CtxRef) (p : Pending) (file n : Nat),
     (s.ctx r).curLine = [p] → p.due ≤ (s.ctx r).clock → (s.ctx r).mode ≠ .completion →
     (∃ v, p.eff = .x n v ∧ file = 0) ∨ (∃ v, p.eff = .a n v ∧ file = 1) ∨
       (∃ v, p.eff = .p n v ∧ n < 16 ∧ file = 2) ∨ (∃ v we, p.eff = .v n v we ∧ file = 3) ∨
       (∃ v, p.eff = .m n v ∧ file = 4) ∨ (∃ v, p.eff = .q n v ∧ file = 5) ∨ (∃ v, p.eff = .b n v ∧ file = 6) →
     ∃ t, exec (.resultLanding r) s = .next t ∧ (t.ctx r).curLine = [] ∧
       (t.ctx r).sticky = ((s.ctx r).sticky ||| p.flags) ∧
       (∀ v, p.eff = .x n v → (t.ctx r).x n = if n = 0 then 0 else v) ∧
       (∀ v, p.eff = .a n v → (t.ctx r).a n = v) ∧
       (∀ v, p.eff = .p n v → (t.ctx r).p n = (n = 0 || v)) ∧
       (∀ v we, p.eff = .v n v we → ∀ j, j < 128 → ((t.ctx r).vr n).extractLsb' (8 * j) 8 =
         if we.getLsbD j then v.extractLsb' (8 * j) 8 else ((s.ctx r).vr n).extractLsb' (8 * j) 8) ∧
       (∀ v, p.eff = .m n v → (t.ctx r).mr n = if n = 0 then BitVec.allOnes 128 else v) ∧
       (∀ v, p.eff = .q n v → (t.ctx r).qr n = v) ∧
       (∀ v, p.eff = .b n v → (t.ctx r).b n = v) ∧
       RegistersKept (s.ctx r) (t.ctx r) (fun k i => k = file ∧ i = n) ∧ SpecialsKept s t r ∧ OnlyContext s t r) ∧
  (∀ (s : State) (r : CtxRef) (p : Pending) (n : Nat) (v : Word),
     (s.ctx r).curLine = [p] → p.due ≤ (s.ctx r).clock → p.eff = .sys n v → p.flags = Flags.none →
     ∀ e ∈ [(0x00A, 0x00000000FFFFFFFF#64), (0x00B, 1), (0x010, 0x1FF), (0x018, BitVec.allOnes 64),
         (0x019, 0x0000FFFF007FFFFF#64), (0x01A, BitVec.allOnes 64), (0x113, 0xFFFFFFFFFFFFFFF8#64),
         (0x116, 0x0000FF3F07FFFFFF#64), (0x117, BitVec.allOnes 64), (0x11A, BitVec.allOnes 64)],
       n = e.1 → ∃ t, exec (.resultLanding r) s = .next t ∧ t.sysRead r n = v &&& e.2 ∧
         (∀ m, m ≠ n → t.sysRead r m = s.sysRead r m) ∧
         RegistersKept (s.ctx r) (t.ctx r) (fun _ _ => False) ∧ OnlyContext s t r) ∧
  (∀ (s : State) (r : CtxRef) (p : Pending) (n : Nat) (v : Word),
     (s.ctx r).kline = [p] → p.due ≤ (s.ctx r).kcyc → (s.ctx r).mode = .completion → p.eff = .x n v → 60 ≤ n → n ≤ 63 →
     ∃ t, exec (.resultLanding r) s = .next t ∧ (t.ctx r).kline = [] ∧ (t.ctx r).line = (s.ctx r).line ∧
       (t.ctx r).x n = v ∧ (t.ctx r).bank = (s.ctx r).bank ∧ (t.ctx r).sticky = ((s.ctx r).sticky ||| p.flags) ∧
       RegistersKept (s.ctx r) (t.ctx r) (fun k i => k = 0 ∧ i = n) ∧ SpecialsKept s t r ∧ OnlyContext s t r) ∧
  (∀ (s : State) (r : CtxRef) (p : Pending) (v : Word), (s.ctx r).curLine = [p] → p.due ≤ (s.ctx r).clock →
     p.flags = Flags.none →
     (p.eff = .sys 0x107 v → ∃ t, exec (.resultLanding r) s = .next t ∧
       (∀ g, g < 16 → v.getLsbD g = true → ((s.core r.core).region g).owner = some r.ctx →
         ((t.core r.core).region g).owner = ((s.core r.core).region g).next ∧ ((t.core r.core).region g).next = none ∧
         ((t.core r.core).region g).lastTenant = some (s.tenantOf r) ∧
         (((t.core r.core).region g).zeroing = true ↔ ((s.core r.core).region g).zeroing = true ∨
           ∃ c, ((s.core r.core).region g).next = some c ∧ s.tenantOf ⟨r.core, c⟩ ≠ s.tenantOf r)) ∧
       (∀ g, 16 ≤ g ∨ v.getLsbD g = false ∨ ((s.core r.core).region g).owner ≠ some r.ctx →
         (t.core r.core).region g = (s.core r.core).region g) ∧
       (∀ k, k ≠ r.core → t.core k = s.core k) ∧ (t.core r.core).tiles = (s.core r.core).tiles ∧
       (t.core r.core).slots = (s.core r.core).slots ∧ (t.core r.core).sync = (s.core r.core).sync ∧
       (∀ o, o ≠ r → t.ctx o = s.ctx o) ∧ RegistersKept (s.ctx r) (t.ctx r) (fun _ _ => False) ∧
       BytesKept s t 0 (fun _ => False)) ∧
     (p.eff = .sys 0x118 v → ∃ t, exec (.resultLanding r) s = .next t ∧
       RegistersKept (s.ctx r) (t.ctx r) (fun _ _ => False) ∧ OnlyContext s t r ∧
       (v.getLsbD 6 = false → t.invals = s.invals ∧ t.sysRead r 0x118 = (v &&& 0x3F) ||| (s.sysRead r 0x118 &&& ~~~0x3F#64)) ∧
       (v.getLsbD 6 = true → (s.sysRead r 0x118).getLsbD 7 = true → t.invals = s.invals ∧ t.msgs = s.msgs ∧
         t.sysRead r 0x118 = s.sysRead r 0x118) ∧
       (v.getLsbD 6 = true → (s.sysRead r 0x118).getLsbD 7 = false → t.sysRead r 0x118 = (v &&& 0x3F) ||| 0x80 ∧
         ∃ x, t.invals = s.invals ++ [x] ∧ x.tenant = v.toNat % 16 ∧ x.size = v.toNat / 16 % 4 ∧
           x.va = (s.sysRead r 0x117).toNat ∧ x.ctx = some r ∧ (∀ d, d ∈ x.todo ↔ d < 28) ∧
           ∀ d, d < 28 → ∃ m ∈ t.msgs, m.msg = .inval x.id d ∧ m.src = r.core ∧ m.dst = dieSrc d)) ∧
     (p.eff = .sys 0x11C v → ∃ t, exec (.resultLanding r) s = .next t ∧
       (t.ctx r).tret = (if v &&& 7 = 0 then (s.ctx r).tret else some v) ∧ (t.ctx r).mode = (s.ctx r).mode ∧
       (∀ m, t.sysRead r m = s.sysRead r m) ∧ RegistersKept (s.ctx r) (t.ctx r) (fun _ _ => False) ∧ OnlyContext s t r))

/-- A word of class I, V, Q, M or D or a load of class L that is performed leaves every byte, every other context and
its own context as they are but for its results in flight: registers, flags, special registers and the pc change only
as results land. The words of these classes that do more are stated elsewhere: VFDIV and VFSQRT, which hold their unit;
MMA, MMAI and MLUT, which hold the array; MCLAIM and MREL, which change an owner; DPUB, which writes a sync word. -/
def Obligations.ResultsWaitInFlight : Prop :=
  ∀ (g : Guard) (s t : State), s.iss.checked = true →
    (∀ f : FmtA, ∀ i ∈ [Instr.add, .sub, .mul, .mulh, .div, .rem, .and, .or, .xor, .andn, .shl, .shr, .sra, .rotl, .clz,
        .popc, .min, .max, .cmp, .sel, .pand, .por, .pxor, .pnot, .time, .vadd, .vsub, .vmul, .vmin, .vmax, .vand, .vor,
        .vxor, .vlut3, .vshl, .vshr, .vfsh, .vpopc, .vclz, .vrot, .vperm, .vbcast, .vsel, .vcmp, .vfadd, .vfsub, .vfmul,
        .vfma, .vfmin, .vfmax, .vfabs, .vfneg, .vcvt, .vrmax, .vrmin, .vradd, .mand, .mor, .mnot, .mpop, .vswt,
        .vspickStart, .vspickScan, .vspickFinal, .qclr, .qdot, .qfma, .qadd, .qaddq, .qneg, .qrnd, .qtst, .qtstNar,
        .qfrom, .drd, .dsgd, .dmom], exec (i g f) s = .next t → OnlyInFlight s t) ∧
    (∀ f : FmtB, ∀ i ∈ [Instr.mfs, .mts, .mtsSticky, .mtsPend, .regrelWrite, .tinvcStart, .lea, .addi, .andi, .ori,
        .xori, .shli, .shri, .srai, .cmpi], exec (i g f) s = .next t → OnlyInFlight s t) ∧
    (∀ f : FmtW, ∀ i ∈ [Instr.movi, .moviHi], exec (i g f) s = .next t → OnlyInFlight s t) ∧
    (∀ f : FmtL, ∀ i ∈ [Instr.ldb, .ldh, .ldw, .ldd, .vld, .vlds, .cld, .ldnb, .qsave, .qload, .mlda, .msave, .mload],
      exec (i g f) s = .next t → OnlyInFlight s t) ∧
    (∀ f : FmtM, ∀ i ∈ [Instr.mzero, .dclr], exec (i g f) s = .next t → OnlyInFlight s t)

/-! ### Class C (R72, R95 to R118, R302 to R305) -/

/-- A taken BR, BRC or BRM goes to the group address plus 8 times its signed offset and owes 3 bubble groups; BRC is
taken where the condition of R64 holds on its two x registers; BRM is taken on a mask of ones, not on a mask of zeros,
and traps with NUNI on any other mask, its register in TADDR.
PBR and CALL write a b register with latency 1, the target of PBR or the group after CALL's, and CALL branches with
3 bubbles. BRT and RET branch to a b register with 4 − d bubbles, d being the context cycles since the PBR or CALL that
wrote it issued; a target that is not a multiple of 8 traps with ALIGN.
JTB reads entry x[JA] of a table of addresses in owned scratchpad data and goes there with 8 bubbles, awaiting a
landing pad of its label; it changes no register and no byte. An index not below the table's size traps with JBND. -/
def Obligations.BranchInstructions : Prop :=
  (∀ (g : Guard) (f : FmtJ) (s : State),
     (Goes (.br g f) g s → exec (.br g f) s =
       .next (s.branch (s.me.at_ + BitVec.ofInt 64 (8 * (f.jhi ++ f.jlo).toInt)) 3)) ∧
     (Goes (.brc g f) g s → ∀ taken : Bool,
       (taken = true ↔ CondHolds (f.jhi.toNat / 2 ^ 13) (s.me.x f.ja.toNat) (s.me.x f.jb.toNat)) →
       exec (.brc g f) s = .next (if taken then
         s.branch (s.me.at_ + BitVec.ofInt 64 (8 * (f.jhi.setWidth 13 ++ f.jlo).toInt)) 3 else s)) ∧
     (Goes (.brm g f) g s → s.me.mr f.ja.toNat = 0 → exec (.brm g f) s = .next s) ∧
     (Goes (.brm g f) g s → s.me.mr f.ja.toNat = BitVec.allOnes 128 → exec (.brm g f) s =
       .next (s.branch (s.me.at_ + BitVec.ofInt 64 (8 * (f.jhi ++ f.jlo).toInt)) 3)) ∧
     (Goes (.brm g f) g s → s.iss.checked = false → s.me.mr f.ja.toNat ≠ 0 →
       s.me.mr f.ja.toNat ≠ BitVec.allOnes 128 →
       exec (.brm g f) s = .next (s.takeTrap s.cur (Trap.plain 8 (f.ja.setWidth 64)) s.me.at_))) ∧
  (∀ (g : Guard) (f : FmtJ) (s : State),
     (Goes (.pbr g f) g s → ∀ base : Word, base = (if f.ja.getLsbD 5 then s.me.a f.jb.toNat else s.me.at_) →
       exec (.pbr g f) s = .next ((s.put 1 (.b (f.ja.toNat % 4)
         (base + BitVec.ofInt 64 (8 * (f.jhi ++ f.jlo).toInt))) Flags.none).setMe fun c => c.markB (f.ja.toNat % 4))) ∧
     (Goes (.call g f) g s → exec (.call g f) s =
       .next (((s.put 1 (.b f.ja.toNat s.nextGroup) Flags.none).setMe fun c => c.markB f.ja.toNat).branch
         (s.me.at_ + BitVec.ofInt 64 (8 * (f.jhi ++ f.jlo).toInt)) 3)) ∧
     (∀ i ∈ [Instr.brt, .ret], Goes (i g f) g s → ∀ b : Word, s.me.b f.ja.toNat = b →
       (b.toNat % 8 = 0 → exec (i g f) s = .next (s.branch b (4 - s.me.sinceB f.ja.toNat))) ∧
       (b.toNat % 8 ≠ 0 → s.iss.checked = false →
         exec (i g f) s = .next (s.takeTrap s.cur (Trap.plain 4 b) s.me.at_)))) ∧
  (∀ (g : Guard) (f : FmtJ) (s : State) (i base e t : Word), Goes (.jtb g f) g s →
     s.me.x f.ja.toNat = i → s.me.a f.jb.toNat = base → e = base + 8 * i →
     t = BitVec.ofNat 64 (leNat (s.here.read e.toNat 8)) →
     (i.toNat < f.jhi.toNat → base.toNat % 8 = 0 → OwnScratch s e.toNat 8 → t.toNat % 8 = 0 →
       ∃ u, exec (.jtb g f) s = .next u ∧ u.iss.redirect = some t ∧ u.iss.bubbles = 8 ∧ u.iss.taken = true ∧
         u.iss.pad = some (s.me.at_, f.jlo) ∧ u.cur = s.cur ∧ u.cores = s.cores ∧ u.clusters = s.clusters ∧
         u.mem = s.mem) ∧
     (s.iss.checked = false → f.jhi.toNat ≤ i.toNat →
       exec (.jtb g f) s = .next (s.takeTrap s.cur (Trap.plain 9 i) s.me.at_)))

/-- NOP and LPAD change nothing; PMARK sets PMCNT to 0; YIELD gives up the stage and changes no core. TWAIT goes on once
its core's counter has reached x[JA], and before that its context waits and keeps its place.
TFENCE spends bubble groups while results are in flight; then it traps where a selected flag of STICKY is set, with
MISS for MDL and ARITH otherwise and the flags found in TADDR, and else has no effect. -/
def Obligations.MarksWaitsAndArithmeticFence : Prop :=
  (∀ (g : Guard) (f : FmtJ) (s : State),
     (Goes (.nop g f) g s → exec (.nop g f) s = .next s) ∧
     (Goes (.lpad g f) g s → exec (.lpad g f) s = .next s) ∧
     (Goes (.pmark g f) g s → exec (.pmark g f) s = .next (s.setMe fun c => { c with pmcnt := 0 })) ∧
     (Goes (.yield g f) g s → ∃ t, exec (.yield g f) s = .next t ∧ t.iss.pass = true ∧ t.iss.redirect = s.iss.redirect ∧
       t.cores = s.cores ∧ t.clusters = s.clusters ∧ t.mem = s.mem) ∧
     (Goes (.twait g f) g s → (s.me.x f.ja.toNat).toNat ≤ s.dieTime (dieOf s.cur.core) →
       exec (.twait g f) s = .next s) ∧
     (Goes (.twait g f) g s → s.iss.checked = false → s.dieTime (dieOf s.cur.core) < (s.me.x f.ja.toNat).toNat →
       exec (.twait g f) s = .next (s.setMe fun c => { c with blocked := some true }))) ∧
  (∀ (g : Guard) (f : FmtJ) (s : State) (hit : BitVec 16), Goes (.tfence g f) g s → s.iss.checked = false →
     hit = s.me.sticky.setWidth 16 &&& f.jlo →
     (s.me.line ≠ [] → exec (.tfence g f) s = .next (s.setMe Ctx.tick)) ∧
     (s.me.line = [] → hit = 0 → exec (.tfence g f) s = .next s) ∧
     (s.me.line = [] → hit ≠ 0 → exec (.tfence g f) s = .next (s.takeTrap s.cur
       (Trap.plain (if (hit &&& Flags.mdl.setWidth 16) ≠ 0 then 14 else 13) (hit.setWidth 64)) s.me.at_)))

/-- LSEQ completes where its descriptor is aligned, owned and well formed and no nest is active: it starts its nest on the
next n groups, every index 0, with 6 bubbles; where a COUNT is 0 or the body cannot be formed, the sequencer stays as it
is and fetch goes where forming the body stopped. LBR completes in every state of a program: with a loop count left it
counts LC down, rotates a24 to a31 and p8 to p15 with the results in flight to them, sets p8 and branches; then the
epilogue count counts down with p8 clear, the last time without a branch; at the end nothing changes. The counts land with
latency 1. A taken LBR owes no bubble where its span of whole groups is short enough and goes backward, else 3. When the
body is looked over, and that p6 and p7 stay where no pass runs, is the model's reading (log 23). -/
def Obligations.LoopSequencer : Prop :=
  (∀ (g : Guard) (f : FmtJ) (s : State) (n : Nat) (desc : List Byte) (q : LoopSeq), Goes (.lseq g f) g s →
     n = f.jhi.toNat % 256 + 1 → desc = lseqBytes s.here (s.me.a f.jb.toNat).toNat → q.desc = desc →
     s.iss.checked = true ∨ ((s.me.a f.jb.toNat).toNat % 8 = 0 ∧ OwnScratch s (s.me.a f.jb.toNat).toNat desc.length ∧
       lseqBad desc = false ∧ s.me.seq.active = false) →
     ((s.bodyEnd s.cur n s.nextGroup.toNat).1 = true → (∀ l, l < q.levels → q.count l ≠ 0) →
       ∃ t, exec (.lseq g f) s = .next t ∧ t.me.seq.active = true ∧ t.me.seq.desc = desc ∧ t.me.seq.base = s.nextGroup ∧
         t.me.seq.n = n ∧ t.me.seq.g = 0 ∧ (∀ l, t.me.seq.index l = 0) ∧ t.iss.redirect = some s.nextGroup ∧
         t.iss.bubbles = 6 ∧ RegistersKept s.me t.me (fun _ _ => False)) ∧
     ((s.bodyEnd s.cur n s.nextGroup.toNat).1 = false ∨ (∃ l, l < q.levels ∧ q.count l = 0) →
       ∃ t, exec (.lseq g f) s = .next t ∧ t.me = s.me ∧ t.iss.bubbles = 6 ∧
         t.iss.redirect = some (BitVec.ofNat 64 (s.bodyEnd s.cur n s.nextGroup.toNat).2.1))) ∧
  (∀ (g : Guard) (f : FmtJ) (s u : State) (lc ec tgt : Word), Goes (.lbr g f) g s → s.me.mode = .program →
     s.me.x f.ja.toNat = lc → s.me.x f.jb.toNat = ec → tgt = s.me.at_ + BitVec.ofInt 64 (8 * (f.jhi ++ f.jlo).toInt) →
     u = (s.put 1 (if lc ≠ 0 then .x f.ja.toNat (lc - 1) else .x f.jb.toNat (ec - 1)) Flags.none).setMe
       (fun c => c.rotate.onBank .program fun b => b.setP 8 (decide (lc ≠ 0))) →
     (lc = 0 → ec = 0 → exec (.lbr g f) s = .next s) ∧
     (lc = 0 → ec = 1 → exec (.lbr g f) s = .next u) ∧
     ((lc ≠ 0 ∨ 1 < ec.toNat) →
       exec (.lbr g f) s = .next ((u.lbrBubbles tgt).2.branch tgt (u.lbrBubbles tgt).1) ∧ (u.lbrBubbles tgt).2.me = u.me) ∧
     u.me.line = (s.me.line ++ [(⟨s.me.ccyc + 1, if lc ≠ 0 then .x f.ja.toNat (lc - 1) else .x f.jb.toNat (ec - 1),
       Flags.none⟩ : Pending)]).map (fun p : Pending => { p with eff := p.eff.rotate }) ∧
     u.me.p 8 = decide (lc ≠ 0) ∧
     (∀ i, i < 7 → u.me.a (25 + i) = s.me.a (24 + i)) ∧ u.me.a 24 = s.me.a 31 ∧
     (∀ i, i < 7 → u.me.p (9 + i) = s.me.p (8 + i)) ∧ (∀ i, i < 24 → u.me.a i = s.me.a i) ∧
     (∀ i, i < 8 → u.me.p i = s.me.p i) ∧ (∀ i, u.me.x i = s.me.x i) ∧ u.iss = s.iss) ∧
  (∀ (n : Nat) (w : Word) (v : Bool), n < 7 →
     Effect.rotate (.a (24 + n) w) = .a (25 + n) w ∧ Effect.rotate (.a 31 w) = .a 24 w ∧
     Effect.rotate (.p (8 + n) v) = .p (9 + n) v ∧ Effect.rotate (.p 15 v) = .p 8 v ∧
     Effect.rotate (.a n w) = .a n w ∧ Effect.rotate (.p n v) = .p n v ∧ Effect.rotate (.x n w) = .x n w) ∧
  (∀ (s : State) (tgt : Word) (m own : Nat), tgt.toNat % 8 = 0 → own = (s.nextGroup - s.me.at_).toNat / 8 →
     (s.me.at_.toNat ≤ tgt.toNat → (s.lbrBubbles tgt).1 = 3) ∧
     (0 < m → m ≤ 2816 → s.me.at_.toNat = tgt.toNat + 8 * m →
       (∀ v, s.scanSpan s.cur m tgt.toNat 0 0 = (none, v) → (s.lbrBubbles tgt).1 = 3) ∧
       (∀ stops run v, s.scanSpan s.cur m tgt.toNat 0 0 = (some (stops, run), v) →
         (s.lbrBubbles tgt).1 = if stops + 1 ≤ 256 ∧ run + own ≤ 11 then 0 else 3)))

/-- FENCE completes where its snapshot is empty, without effect, and else where the context has fewer than four closed
gates: a gate on its range, its space and its successor classes enters the context's gates, and its snapshot holds every
uncompleted write in flight of its predecessor classes that R304 names: the stores of QSAVE and MSAVE, those at port 2 among
them, and the timed stores of STVA, the remote writes, the commands, and the runs of closed scatter-accumulate windows. It
changes no register. With four closed gates and no stopped command it blocks; and a closed gate of successor class L blocks a
group with a scalar access to its range. That module scope takes in no host memory is the model's reading
(log 53). -/
def Obligations.FenceOpensAGate : Prop :=
  (∀ (g : Guard) (f : FmtL) (s : State) (e : Gate) (n : Nat) (a : Word), e ∈ s.closedGates s.cur → e.succ.getLsbD succL = true →
    (∀ k ∈ s.cmds, k.isStopped = false) → s.iss.checked = false → f.sz.toNat ≤ 3 → n = 2 ^ f.sz.toNat →
    a = s.me.a f.base.toNat + s.me.x f.idx.toNat + BitVec.ofInt 64 (f.off.toInt * n) → a.toNat % n = 0 →
    OwnScratch s a.toNat n → e.glob = false → e.base < a.toNat + n → a.toNat < e.base + e.len → e.base < 2 ^ 64 →
    (∀ i ∈ [Instr.ldb, .ldh, .ldw, .ldd], Goes (i g f) g s →
      exec (i g f) s = .next (s.setMe fun c => { c with blocked := some false })) ∧
    (∀ i ∈ [Instr.stb, .sth, .stw, .std], Goes (i g f) g s → AllRaw s a.toNat n →
      exec (i g f) s = .next (s.setMe fun c => { c with blocked := some false }))) ∧
  ∀ (g : Guard) (f : FmtA) (s : State) (e : Gate), Goes (.fence g f) g s → e = s.fenceGate s.cur g f →
    (e.members = [] → exec (.fence g f) s = .next s) ∧
    (e.members ≠ [] → s.iss.checked = true ∨ (s.closedGates s.cur).length < 4 →
      exec (.fence g f) s =
        .next (({ s with nextId := s.nextId + 1 } : State).setMe fun c => { c with gates := c.gates ++ [e] }) ∧
      ∀ t, exec (.fence g f) s = .next t → t.me.gates = s.me.gates ++ [e] ∧
        RegistersKept s.me t.me (fun _ _ => False) ∧ OnlyContext s t s.cur) ∧
    (e.members ≠ [] → s.iss.checked = false → 4 ≤ (s.closedGates s.cur).length → (∀ k ∈ s.cmds, k.isStopped = false) →
      exec (.fence g f) s = .next (s.setMe fun c => { c with blocked := some false })) ∧
    e.base = (s.me.x f.opa.toNat).toNat ∧ e.len = (s.me.x f.opb.toNat).toNat ∧ e.glob = fenceGlob f ∧
    e.succ = fenceSucc f ∧ e.id = s.nextId ∧
    (∀ p a bs, fencePred f succL = true → p ∈ s.me.line → p.eff = .store a bs →
      s.rangeIn s.cur (fenceScope f) e { glob := false, addr := a, len := bs.length, write := true } = true →
      GateMember.store p.due a bs.length ∈ e.members) ∧
    (∀ p ∈ s.me.port2, fencePred f succL = true →
      s.rangeIn s.cur (fenceScope f) e { glob := false, addr := p.2.1, len := p.2.2.length, write := true } = true →
      GateMember.store s.me.clock p.2.1 p.2.2.length ∈ e.members) ∧
    (∀ w ∈ s.me.stva, fencePred f succL = true → e.meetsWrite w = true →
      localInScope (fenceScope f) s.cur.core s.cur.core w.addr = true → GateMember.write w.id ∈ e.members) ∧
    (∀ w, fencePred f succG = true → w ∈ s.me.rwq ∨ (∃ k ∈ s.cores, w ∈ k.2.incoming ∧ w.src = s.cur) →
      e.meetsWrite w = true →
      (w.module = s.mod.number → localInScope (fenceScope f) s.cur.core w.core w.addr = true) →
      (w.module ≠ s.mod.number → 4 ≤ fenceScope f) → GateMember.write w.id ∈ e.members) ∧
    (∀ k ∈ s.ctxCmds s.cur, fencePred f (if k.isE then succE else succK) = true →
      (∃ x ∈ k.ranges, s.rangeIn s.cur (fenceScope f) e x = true) → GateMember.cmd k.id ∈ e.members) ∧
    (∀ w ∈ s.me.saeClosed, ∀ x ∈ w.runs, fencePred f succE = true →
      s.rangeIn s.cur (fenceScope f) e { glob := false, addr := x.1.addr, len := szBytes x.1.sz, write := true } = true →
      GateMember.run x.1.id ∈ e.members)

/-- TEND of a context with no copy left: its last scatter-accumulate window closes, the context issues nothing more and
gives up the stage; with a command, a remote write or a timed write of its own left, none of them stopped, it waits.
TRAP and SVC in a group that has passed its checks leave the trap to the end of the cycle; by themselves, with no
result in flight, they enter the tenant's handler with the next group in EPC and their code in TCAUSE. -/
def Obligations.EndsAndSoftwareTraps : Prop :=
  (∀ (g : Guard) (f : FmtJ) (s : State), Goes (.tend g f) g s →
     (s.ctxCmds s.cur = [] → s.me.rwq = [] → s.me.stva = [] → (∀ k ∈ s.cores, ∀ w ∈ k.2.incoming, w.src ≠ s.cur) → s.msgs = [] →
       ∃ t, exec (.tend g f) s = .next t ∧ t.me.ending = true ∧ t.me.saeOpen = [] ∧
         (∀ e ∈ s.closedGates s.cur, ∀ due a n, .store due a n ∈ e.members → s.memberPending s.cur (.store due a n) = true →
           t.memberPending s.cur (.store due a n) = false) ∧
         (s.me.saeOpen = [] → s.closedGates s.cur = [] → OnlyContext s t s.cur) ∧
         (t.core s.cur.core).passing = true ∧ RegistersKept s.me t.me (fun _ _ => False)) ∧
     (s.iss.checked = false → s.ctxCmds s.cur ≠ [] ∨ s.me.rwq ≠ [] ∨ s.me.stva ≠ [] →
       (∀ k ∈ s.ctxCmds s.cur, k.isStopped = false) →
       (∀ e ∈ s.closedGates s.cur, ∀ k ∈ s.gateCmds e, k.isStopped = false) →
       exec (.tend g f) s = .next (s.setMe fun c => { c with blocked := some true }))) ∧
  (∀ (g : Guard) (f : FmtJ) (s : State), ∀ e ∈ [(Instr.trap, 15), (Instr.svc, 16)], Goes (e.1 g f) g s →
     (s.iss.checked = true → ∃ t, exec (e.1 g f) s = .next t ∧ t.iss.trap = some (e.2, f.jlo.toNat) ∧
       t.cores = s.cores ∧ t.clusters = s.clusters ∧ t.mem = s.mem ∧ t.cur = s.cur) ∧
     (s.iss.checked = false → s.me.mode = .program → s.me.line = [] → 8 ≤ (s.svec s.cur).toNat →
       ∃ t, exec (e.1 g f) s = .next t ∧ t.me.mode = .supervisor ∧ t.me.hpc = s.svec s.cur &&& ~~~7#64 ∧
         t.me.epc = s.me.at_ + 8 ∧ t.me.tcause = BitVec.ofNat 64 (e.2 + 2 ^ 32 * f.jlo.toNat) ∧ t.me.taddr = 0 ∧
         t.me.ccyc = s.me.ccyc + 1 ∧ t.me.bank = s.me.bank ∧ t.me.v = s.me.v ∧ t.me.m = s.me.m ∧ t.me.q = s.me.q))

/-! ### Traps (R117, R368 to R377) -/

/-- A trap of a program whose tenant has a handler: EPC takes the address given, TCAUSE its fields and TADDR the trap's
value; the context goes on in supervisor mode at its tenant's vector with a handler cycle count of 0, and its registers
of both banks, its flags, its counts and its results in flight stay, as does every other context and every byte.
A trap taken inside a handler ends the task: its context is free. A trap of a program whose tenant has no handler
asks for its task's suspension, with EPC, TCAUSE and TADDR written. -/
def Obligations.TrapEntries : Prop :=
  (∀ (s : State) (r : CtxRef) (t : Trap) (epc : Word), (s.ctx r).mode = .program → 8 ≤ (s.svec r).toNat → t.cause ≠ 7 →
     t.cause < 2 ^ 8 → t.ccause < 2 ^ 8 → t.tsub < 2 ^ 4 → t.chan < 4 → t.code < 2 ^ 16 →
     ∀ c d : Ctx, s.ctx r = c → (s.takeTrap r t epc).ctx r = d →
       d.epc = epc ∧ d.taddr = t.addr ∧
       d.tcause.toNat = t.cause + 2 ^ 8 * t.ccause + 2 ^ 16 * t.tsub + 2 ^ 20 * t.chan + 2 ^ 32 * t.code ∧
       d.mode = .supervisor ∧ d.hpc.toNat = (s.svec r).toNat / 8 * 8 ∧ d.hcyc = 0 ∧
       d.bank = c.bank ∧ d.sbank = c.sbank ∧ d.v = c.v ∧ d.m = c.m ∧ d.q = c.q ∧ d.sticky = c.sticky ∧ d.pc = c.pc ∧
       d.ccyc = c.ccyc ∧ d.pmcnt = c.pmcnt ∧ d.line = c.line ∧ d.seq = c.seq ∧ d.pad = c.pad ∧
       OnlyContext s (s.takeTrap r t epc) r) ∧
  (∀ (s : State) (r : CtxRef) (t : Trap) (epc : Word), t.cause ≠ 7 →
     ((s.ctx r).mode ≠ .program → (s.ctx r).task.isSome = true → ((s.takeTrap r t epc).ctx r).task = none) ∧
     ((s.ctx r).mode = .program → (s.svec r).toNat < 8 →
       ((s.takeTrap r t epc).ctx r).saving = some 1 ∧ ((s.takeTrap r t epc).ctx r).mode = .program ∧
       ((s.takeTrap r t epc).ctx r).epc = epc ∧ ((s.takeTrap r t epc).ctx r).taddr = t.addr ∧
       ((s.takeTrap r t epc).ctx r).bank = (s.ctx r).bank))

/-- The three returns of a handler whose results have landed, by the bits of TRET: KILL ends the task, SUSPEND asks
for its record, RESUME goes on in the program at EPC; a landing pad is still awaited only at the group it was awaited
at. That of the landing pad is the model's reading (log 25). -/
def Obligations.ReturnsFromATrap : Prop :=
  ∀ (s : State) (r : CtxRef) (v : Word), (s.ctx r).mode = .supervisor → (s.ctx r).sline = [] →
    (∀ x ∈ (s.ctx r).port2, x.1 ≠ .supervisor) → (s.ctx r).tret = some v →
    (v.getLsbD 2 = true → (s.ctx r).task.isSome = true →
      ∃ t, exec (.tretKill r) s = .next t ∧ (t.ctx r).task = none) ∧
    (v.getLsbD 2 = false → v.getLsbD 1 = true →
      ∃ t, exec (.tretSuspend r) s = .next t ∧ (t.ctx r).saving = some 1 ∧ (t.ctx r).mode = .program ∧
        (t.ctx r).tret = none ∧ (t.ctx r).bank = (s.ctx r).bank ∧ (t.ctx r).epc = (s.ctx r).epc) ∧
    (v.getLsbD 2 = false → v.getLsbD 1 = false → v.getLsbD 0 = true →
      ∃ t, exec (.tretResume r) s = .next t ∧ (t.ctx r).mode = .program ∧ (t.ctx r).pc = (s.ctx r).epc ∧
        (t.ctx r).tret = none ∧ (t.ctx r).bank = (s.ctx r).bank ∧ (t.ctx r).line = (s.ctx r).line ∧
        (t.ctx r).sticky = (s.ctx r).sticky ∧
        ((s.ctx r).epc = (s.ctx r).pc → (t.ctx r).pad = (s.ctx r).pad) ∧
        ((s.ctx r).epc ≠ (s.ctx r).pc → (t.ctx r).pad = none) ∧ OnlyContext s t r)

/-! ### Class L (R209 to R238, R270 to R278) -/

/-- The scalar loads move their bytes, least significant first, from an aligned address: sign-extended but where LX[0]
is 1 or the access has 8 bytes, to x[DT], or a[DT] where LX[1] is 1 at 8 bytes, with latency 6 from scratchpad data the
context owns or the sync page, and 14 from a cluster window. LDNB waits for x[IDX] to pass and then loads so.
The line loads bring 128 bytes from an aligned address to v[DT] under a byte mask: VLD and LDNB from owned scratchpad
data with latency 6, CLD from a cluster window with 14. VLDS brings lane i from a[BASE] + OFF·128 + i·x[IDX], for each
lane that the mask enables. -/
def Obligations.Loads : Prop :=
  (∀ (g : Guard) (f : FmtL) (s : State) (n a u : Nat) (v : Word), f.sz.toNat ≤ 3 → n = 2 ^ f.sz.toNat → a % n = 0 →
     NoGate s → u = leNat (s.localRead s.cur.core a n) →
     v = (if f.lx.getLsbD 0 = true ∨ n = 8 then BitVec.ofNat 64 u else BitVec.ofInt 64 (BitVec.ofNat (8 * n) u).toInt) →
     ∀ d : Effect, d = (if f.sz = 3 ∧ f.lx.getLsbD 1 = true then .a f.dt.toNat v else .x f.dt.toNat v) →
     (OwnScratch s a n ∨ (0x1FF000 ≤ a ∧ a + n ≤ 0x200000) →
       (∀ i ∈ [Instr.ldb, .ldh, .ldw, .ldd], Goes (i g f) g s →
         a = (s.me.a f.base.toNat + s.me.x f.idx.toNat + BitVec.ofInt 64 (f.off.toInt * n)).toNat →
         exec (i g f) s = .next (s.put 6 d Flags.none)) ∧
       (Goes (.ldnb g f) g s → a = (s.me.a f.base.toNat + BitVec.ofInt 64 (f.off.toInt * n)).toNat →
         (s.me.x f.idx.toNat).toNat ≤ s.dieTime (dieOf s.cur.core) →
         exec (.ldnb g f) s = .next (s.put 6 d Flags.none))) ∧
     (OwnCluster s a n → Goes (.cld g f) g s →
       a = (s.me.a f.base.toNat + s.me.x f.idx.toNat + BitVec.ofInt 64 (f.off.toInt * n)).toNat →
       exec (.cld g f) s = .next (s.put 14 d Flags.none))) ∧
  (∀ (g : Guard) (f : FmtL) (s : State) (a : Nat), NoGate s → f.sz = 6 →
     (∀ i lat, (i = Instr.vld ∧ lat = 6 ∧ OwnScratch s a 128) ∨ (i = Instr.cld ∧ lat = 14 ∧ OwnCluster s a 128) →
       Goes (i g f) g s → a = (s.me.a f.base.toNat + s.me.x f.idx.toNat + BitVec.ofInt 64 (f.off.toInt * 128)).toNat →
       a % 128 = 0 → ∃ val, exec (i g f) s = .next (s.put lat (.v f.dt.toNat val (s.me.mr f.msk.toNat)) Flags.none) ∧
         ∀ j, j < 128 → s.localByte s.cur.core (a + j) = [val.extractLsb' (8 * j) 8]) ∧
     (Goes (.ldnb g f) g s → a = (s.me.a f.base.toNat + BitVec.ofInt 64 (f.off.toInt * 128)).toNat → a % 128 = 0 →
       OwnScratch s a 128 → (s.me.x f.idx.toNat).toNat ≤ s.dieTime (dieOf s.cur.core) →
       ∃ val, exec (.ldnb g f) s = .next (s.put 6 (.v f.dt.toNat val (s.me.mr f.msk.toNat)) Flags.none) ∧
         ∀ j, j < 128 → s.localByte s.cur.core (a + j) = [val.extractLsb' (8 * j) 8]) ∧
     (∀ (w : Nat) (at_ : Nat → Nat), w = 2 ^ (f.lx.toNat % 4) → w ≤ 4 →
       (∀ i, at_ i = (s.me.a f.base.toNat + BitVec.ofInt 64 (f.off.toInt * 128)
         + BitVec.ofNat 64 i * s.me.x f.idx.toNat).toNat) →
       (∀ i, i < 128 / w → (s.me.mr f.msk.toNat).getLsbD (w * i) = true → at_ i % w = 0 ∧ OwnScratch s (at_ i) w) →
       Goes (.vlds g f) g s → ∃ val we, exec (.vlds g f) s = .next (s.put 6 (.v f.dt.toNat val we) Flags.none) ∧
         (∀ j, j < 128 → we.getLsbD j = (s.me.mr f.msk.toNat).getLsbD (j / w * w)) ∧
         (∀ i, i < 128 / w → (s.me.mr f.msk.toNat).getLsbD (w * i) = true →
           leNat (s.localRead s.cur.core (at_ i) w) = (val.extractLsb' (8 * w * i) (8 * w)).toNat)))

/-- The scalar stores write the low bytes of their register, least significant first, to an aligned address of owned
RAW scratchpad data, and CST to a cluster window: those bytes read back as stored, and every other byte, every register,
flag and special register of every context, and every unit stays.
The line stores: VST and CST store the bytes of v[DT] that their mask enables at an aligned address; VSTS stores each
enabled lane at a[BASE] + OFF·128 + i·x[IDX], and where no later enabled lane meets a lane's bytes, they read back as
stored. Every other byte, every context and every unit stays. -/
def Obligations.Stores : Prop :=
  (∀ (g : Guard) (f : FmtL) (s : State) (n a : Nat) (v : Word), f.sz.toNat ≤ 3 → n = 2 ^ f.sz.toNat → a % n = 0 →
     a = (s.me.a f.base.toNat + s.me.x f.idx.toNat + BitVec.ofInt 64 (f.off.toInt * n)).toNat →
     v = (if f.sz = 3 ∧ f.lx.getLsbD 1 = true then s.me.a f.dt.toNat else s.me.x f.dt.toNat) →
     NoGate s → AllRaw s a n →
     ∀ i, (i ∈ [Instr.stb, .sth, .stw, .std] ∧ OwnScratch s a n) ∨ (i = Instr.cst ∧ OwnCluster s a n) →
       Goes (i g f) g s → ∃ t, exec (i g f) s = .next t ∧
         leNat (t.localRead s.cur.core a n) = v.toNat % 2 ^ (8 * n) ∧
         BytesKept s t s.cur.core (StoredBytes a n) ∧ ContextsKept s t ∧ UnitsKept s t) ∧
  (∀ (g : Guard) (f : FmtL) (s : State) (a : Nat) (m : BitVec 128) (v : BitVec 1024), NoGate s → f.sz = 6 →
     m = s.me.mr f.msk.toNat → v = s.me.vr f.dt.toNat →
     (∀ i, (i = Instr.vst ∧ OwnScratch s a 128) ∨ (i = Instr.cst ∧ OwnCluster s a 128) → Goes (i g f) g s →
       a = (s.me.a f.base.toNat + s.me.x f.idx.toNat + BitVec.ofInt 64 (f.off.toInt * 128)).toNat → a % 128 = 0 →
       AllRaw s a 128 → ∃ t, exec (i g f) s = .next t ∧
         (∀ j, j < 128 → m.getLsbD j = true → t.localByte s.cur.core (a + j) = [v.extractLsb' (8 * j) 8]) ∧
         BytesKept s t s.cur.core (fun b => StoredBytes a 128 b ∧ m.getLsbD (b - a) = true) ∧
         ContextsKept s t ∧ UnitsKept s t) ∧
     (∀ (w : Nat) (at_ : Nat → Nat), w = 2 ^ (f.lx.toNat % 4) → w ≤ 4 →
       (∀ i, at_ i = (s.me.a f.base.toNat + BitVec.ofInt 64 (f.off.toInt * 128)
         + BitVec.ofNat 64 i * s.me.x f.idx.toNat).toNat) →
       (∀ i, i < 128 / w → m.getLsbD (w * i) = true →
         at_ i % w = 0 ∧ OwnScratch s (at_ i) w ∧ AllRaw s (at_ i) w) →
       Goes (.vsts g f) g s → ∃ t, exec (.vsts g f) s = .next t ∧
         (∀ i, i < 128 / w → m.getLsbD (w * i) = true →
           (∀ j, i < j → j < 128 / w → m.getLsbD (w * j) = true → at_ j + w ≤ at_ i ∨ at_ i + w ≤ at_ j) →
           leNat (t.localRead s.cur.core (at_ i) w) = (v.extractLsb' (8 * w * i) (8 * w)).toNat) ∧
         BytesKept s t s.cur.core
           (fun b => ∃ i, i < 128 / w ∧ m.getLsbD (w * i) = true ∧ StoredBytes (at_ i) w b) ∧
         ContextsKept s t ∧ UnitsKept s t))

/-- A local access to an aligned address of no admitted space traps with ACCF and a misaligned one with ALIGN, with the
address in TADDR; the group issues nothing. -/
def Obligations.AccessTraps : Prop :=
  ∀ (g : Guard) (f : FmtL) (s : State) (n : Nat) (a : Word), f.sz.toNat ≤ 3 → n = 2 ^ f.sz.toNat →
    a = s.me.a f.base.toNat + s.me.x f.idx.toNat + BitVec.ofInt 64 (f.off.toInt * n) → s.iss.checked = false →
    (a.toNat % n ≠ 0 → ∀ i ∈ [Instr.ldb, .ldh, .ldw, .ldd, .stb, .sth, .stw, .std, .cld, .cst], Goes (i g f) g s →
      exec (i g f) s = .next (s.takeTrap s.cur (Trap.plain 4 a) s.me.at_)) ∧
    (a.toNat % n = 0 → 0x1FF000 < a.toNat + n → ∀ i ∈ [Instr.stb, .sth, .stw, .std], Goes (i g f) g s →
      exec (i g f) s = .next (s.takeTrap s.cur (Trap.plain 3 a) s.me.at_)) ∧
    (a.toNat % n = 0 → 0x200000 < a.toNat + n → ∀ i ∈ [Instr.ldb, .ldh, .ldw, .ldd], Goes (i g f) g s →
      exec (i g f) s = .next (s.takeTrap s.cur (Trap.plain 3 a) s.me.at_)) ∧
    (a.toNat % n = 0 → ¬OwnCluster s a.toNat n → ∀ i ∈ [Instr.cld, .cst], Goes (i g f) g s →
      exec (i g f) s = .next (s.takeTrap s.cur (Trap.plain 3 a) s.me.at_))

/-- RWR, RWS and RWVA put one write at the end of the context's queue, with its target, bytes, sync word or time as the
registers give them, and change nothing else: a valid window holds the range below the sync page, and the queue has room.
RWS also needs a sync index below 512 and no release that it must wait for. -/
def Obligations.RemoteWritesAreQueued : Prop :=
  ∀ (g : Guard) (f : FmtL) (s : State) (n : Nat) (a : Word) (w : Word), (f.sz = 3 ∧ n = 8) ∨ (f.sz = 6 ∧ n = 128) →
    w = Sparse.get 0 s.me.rwin (f.lx.toNat % 4) → w.getLsbD 63 = true → a.toNat % n = 0 →
    4096 * (w.toNat / 2 ^ 16 % 2 ^ 9) ≤ a.toNat →
    a.toNat + n ≤ 4096 * (w.toNat / 2 ^ 16 % 2 ^ 9 + w.toNat / 2 ^ 32 % 2 ^ 10) → a.toNat + n ≤ 0x1FF000 →
    s.me.rwq.length < 16 →
    ∀ i arrive time late, Goes (i g f) g s →
      (i = Instr.rwr ∧ a = s.me.a f.base.toNat + s.me.x f.idx.toNat + BitVec.ofInt 64 (f.off.toInt * n) ∧
        arrive = none ∧ time = none ∧ late = none) ∨
      (i = Instr.rws ∧ a = s.me.a f.base.toNat + BitVec.ofInt 64 (f.off.toInt * n) ∧
        (s.me.x f.idx.toNat).toNat < 512 ∧
        s.releaseBlocked s.cur (rwsRef f s) (some (coreAt (w.toNat % 64) (w.toNat / 2 ^ 8 % 16))) = false ∧
        arrive = some (s.me.x f.idx.toNat).toNat ∧ time = none ∧ late = none) ∨
      (i = Instr.rwva ∧ a = s.me.a f.base.toNat + BitVec.ofInt 64 ((f.off.setWidth 11).toInt * n) ∧ arrive = none ∧
        time = some (s.me.x f.idx.toNat).toNat ∧
        late = (if f.lx.getLsbD 2 then some (f.off.toNat / 2 ^ 11) else none)) →
      ∃ t r, exec (i g f) s = .next t ∧ t.me.rwq = s.me.rwq ++ [r] ∧ r.src = s.cur ∧
        r.core = coreAt (w.toNat % 64) (w.toNat / 2 ^ 8 % 16) ∧ r.module = w.toNat / 2 ^ 12 % 16 ∧
        r.addr = a.toNat ∧ r.arrive = arrive ∧ r.time = time ∧ r.late = late ∧
        (f.sz = 3 → leNat r.bytes = (s.me.x f.dt.toNat).toNat ∧ r.bytes.length = 8) ∧
        (f.sz = 6 → r.bytes = vecBytes (s.me.vr f.dt.toNat) ∧ r.we = s.me.mr f.msk.toNat) ∧
        RegistersKept s.me t.me (fun _ _ => False) ∧ OnlyContext s t s.cur

/-- STVA of 1 to 8 bytes, or of the bytes of a line that its mask enables: while its time is to come the store enters the
context's share of the buffer and no byte changes; once its counter has reached T the bytes are stored at once, and nothing
else changes where it is not late. A late one counts in MDLINFO with MDL in the same cycle, and its word gets LATE at the end
of that cycle, after the L slots (R231, R275). That no timed write of the core was performed earlier in the same cycle is
assumed, since the one with the greater T stands (R276; log 28). -/
def Obligations.TimedStores : Prop :=
  (∀ (g : Guard) (f : FmtL) (s : State) (a n T : Nat) (we : BitVec 128) (bytes : List Byte) (late : Bool),
    (f.sz.toNat ≤ 3 ∧ n = 2 ^ f.sz.toNat ∧ we = BitVec.ofNat 128 (2 ^ n - 1) ∧ bytes = natBytes n (s.me.x f.dt.toNat).toNat) ∨
      (f.sz = 6 ∧ n = 128 ∧ we = s.me.mr f.msk.toNat ∧ bytes = vecBytes (s.me.vr f.dt.toNat)) → a % n = 0 →
    a = (s.me.a f.base.toNat + BitVec.ofInt 64 ((f.off.setWidth 11).toInt * n)).toNat → T = (s.me.x f.idx.toNat).toNat →
    NoGate s → AllRaw s a n → (∀ lo k, maskSpan we = some (lo, k) → OwnScratch s (a + lo) k) → s.me.stva.length < 16 →
    Goes (.stva g f) g s → late = decide (T + s.me.mlambda.toNat < s.dieTime (dieOf s.cur.core)) →
    ∃ t w, exec (.stva g f) s = .next t ∧ w.addr = a ∧ w.time = some T ∧ w.core = s.cur.core ∧ w.bytes = bytes ∧ w.we = we ∧
      w.src = s.cur ∧ w.lambda = s.me.mlambda.toNat ∧ w.late = (if f.lx.getLsbD 2 then some (f.off.toNat / 2 ^ 11) else none) ∧
      RegistersKept s.me t.me (fun _ _ => False) ∧ (∀ o, o ≠ s.cur → t.ctx o = s.ctx o) ∧ UnitsKept s t ∧
      (s.dieTime (dieOf s.cur.core) < T → t.me.stva = s.me.stva ++ [w] ∧ OnlyContext s t s.cur) ∧
      (T ≤ s.dieTime (dieOf s.cur.core) → s.timedRecent s.cur.core = [] →
        TimedWriteDone s t s.cur.core w false ∧
        (late = false → ContextsKept s t ∧ (t.core s.cur.core).lateNow = (s.core s.cur.core).lateNow) ∧
        (late = true → s.cur.core < 768 → s.mod.number < 16 →
          (t.core s.cur.core).lateNow = (s.core s.cur.core).lateNow ++ w.late.toList ∧
          LateCounted s.me t.me fun v => LateFields v w.late false s.mod.number s.cur.core))) ∧
  ∀ (s : State) (core n : Nat), ((s.endCycle core).core core).lateNow = [] ∧ ((s.endCycle core).core core).syncWord n =
    if n ∈ (s.core core).lateNow then (s.core core).syncWord n ||| (1#64 <<< 49) else (s.core core).syncWord n

/-- The sync instructions on an aligned word of the sync page. SARR and SREL make an arrival at a word that is no
version, SWAIT goes on where its condition holds, SACQ takes its operand from a semaphore that holds it, and SSET writes
bits 51 to 0 unless they are a barrier whose phase could not complete. No other word changes, nor any context. SARR and SREL
at a version, SACQ at a word that is no semaphore and SSET of such a barrier trap with SYNCP and the address in TADDR; an
SWAIT or SACQ whose condition fails blocks, and changes no word.
An arrival (R230): it adds one to the count of a flag or semaphore up to its greatest value, and to that of a barrier,
where the last one of a phase sets the count to 0 and flips the phase; no other bit changes. The completion of a command
also adds one to a version below its greatest value. -/
def Obligations.SyncWords : Prop :=
  (∀ (g : Guard) (f : FmtL) (s : State) (a : Word) (n : Nat) (w v : Word), f.sz = 3 →
     a = s.me.a f.base.toNat + s.me.x f.idx.toNat + BitVec.ofInt 64 (f.off.toInt * 8) →
     a.toNat = 0x1FF000 + 8 * n → n < 512 → w = s.here.syncWord n → v = s.me.x f.dt.toNat →
     ∀ i (u : Word), Goes (i g f) g s →
       (i = Instr.sarr ∧ swKind w ≠ 2 ∧ u = swArrive w) ∨
       (i = Instr.srel ∧ swKind w ≠ 2 ∧ s.releaseBlocked s.cur (s.syncRef s.cur.core n) none = false ∧ u = swArrive w) ∨
       (i = Instr.swait ∧ u = w ∧
         ((swKind w = 1 ∧ w.getLsbD 48 ≠ v.getLsbD 0) ∨ (swKind w = 2 ∧ v.toNat % 2 ^ 48 ≤ w.toNat % 2 ^ 48) ∨
           (swKind w ≠ 1 ∧ swKind w ≠ 2 ∧ v.toNat % 2 ^ 32 ≤ w.toNat % 2 ^ 32))) ∨
       (i = Instr.sacq ∧ swKind w = 3 ∧ v.toNat % 2 ^ 32 ≤ w.toNat % 2 ^ 32 ∧
         u.toNat = w.toNat - v.toNat % 2 ^ 32) ∨
       (i = Instr.sset ∧ u.toNat = v.toNat % 2 ^ 52 ∧
         (swKind v = 1 → v.toNat % 2 ^ 32 < v.toNat / 2 ^ 32 % 2 ^ 16)) →
       ∃ t, exec (i g f) s = .next t ∧ (t.core s.cur.core).syncWord n = u ∧
         (∀ k m, (k ≠ s.cur.core ∨ m ≠ n) → (t.core k).syncWord m = (s.core k).syncWord m) ∧ ContextsKept s t ∧
         (∀ k, (t.core k).scratch = (s.core k).scratch) ∧ t.clusters = s.clusters ∧ t.mem = s.mem) ∧
  (∀ (g : Guard) (f : FmtL) (s : State) (a : Word) (n : Nat) (w v : Word), f.sz = 3 →
     a = s.me.a f.base.toNat + s.me.x f.idx.toNat + BitVec.ofInt 64 (f.off.toInt * 8) →
     a.toNat = 0x1FF000 + 8 * n → n < 512 → w = s.here.syncWord n → v = s.me.x f.dt.toNat → s.iss.checked = false →
     ∀ i, Goes (i g f) g s →
       (((i = Instr.sarr ∨ i = Instr.srel) ∧ swKind w = 2) ∨ (i = Instr.sacq ∧ swKind w ≠ 3) ∨
           (i = Instr.sset ∧ swKind v = 1 ∧ v.toNat / 2 ^ 32 % 2 ^ 16 ≤ v.toNat % 2 ^ 32) →
         exec (i g f) s = .next (s.takeTrap s.cur (Trap.plain 5 a) s.me.at_)) ∧
       ((i = Instr.swait ∧ ((swKind w = 1 ∧ w.getLsbD 48 = v.getLsbD 0) ∨ (swKind w = 2 ∧ w.toNat % 2 ^ 48 < v.toNat % 2 ^ 48) ∨
             (swKind w ≠ 1 ∧ swKind w ≠ 2 ∧ w.toNat % 2 ^ 32 < v.toNat % 2 ^ 32))) ∨
           (i = Instr.sacq ∧ swKind w = 3 ∧ w.toNat % 2 ^ 32 < v.toNat % 2 ^ 32) →
         exec (i g f) s = .next (s.setMe fun c => { c with blocked := some false }))) ∧
  (∀ w : Word,
     ((swKind w = 0 ∨ swKind w = 3) → (swArrive w).toNat =
       (if w.toNat % 2 ^ 32 = 2 ^ 32 - 1 then w.toNat else w.toNat + 1)) ∧
     (swKind w = 1 → w.toNat % 2 ^ 32 + 1 = w.toNat / 2 ^ 32 % 2 ^ 16 →
       swCount (swArrive w) = 0 ∧ (swArrive w).getLsbD 48 = !w.getLsbD 48 ∧
         ∀ i, 32 ≤ i → i ≠ 48 → (swArrive w).getLsbD i = w.getLsbD i) ∧
     (swKind w = 1 → w.toNat % 2 ^ 32 + 1 ≠ w.toNat / 2 ^ 32 % 2 ^ 16 → w.toNat % 2 ^ 32 + 1 < 2 ^ 32 →
       (swArrive w).toNat = w.toNat + 1) ∧
     (swKind w = 2 → swArrive w = w ∧
       (swComplete w).toNat = if w.toNat % 2 ^ 48 = 2 ^ 48 - 1 then w.toNat else w.toNat + 1) ∧
     (swKind w ≠ 2 → swComplete w = swArrive w))

/-- SAEQ to an aligned word of owned scratchpad data or of a cluster window puts one entry in the open window, which closes
with its 64th entry; a refused entry takes no place and is counted, with the first one's cause and address: 1 misaligned, 2
outside, 3 the sync page, 4 a region not owned. One to a region of which the context is next owner blocks. SAEF with nothing left
to apply answers the count and clears the report. An entry to a block that is not RAW is accepted by the model's
reading (log 27). -/
def Obligations.ScatterAccumulateQueue : Prop :=
  ∀ (g : Guard) (f : FmtL) (s : State) (n : Nat) (a : Word), 1 ≤ f.sz.toNat → f.sz.toNat ≤ 3 → n = 2 ^ f.sz.toNat →
    a = s.me.a f.base.toNat + s.me.x f.idx.toNat + BitVec.ofInt 64 (f.off.toInt * n) →
    (Goes (.saeq g f) g s → a.toNat % n = 0 → OwnScratch s a.toNat n ∨ OwnCluster s a.toNat n → s.me.saeLen < 128 →
      ∃ t e, exec (.saeq g f) s = .next t ∧ e.addr = a.toNat ∧ e.sz = f.sz ∧ e.op = f.lx ∧ e.kind = f.msk ∧
        e.val.toNat = (s.me.x f.dt.toNat).toNat % 2 ^ (8 * n) ∧
        (s.me.saeOpen.length < 63 → t.me.saeOpen = s.me.saeOpen ++ [e] ∧ t.me.saeClosed = s.me.saeClosed) ∧
        (s.me.saeOpen.length = 63 → t.me.saeOpen = [] ∧
          ∃ id, t.me.saeClosed = s.me.saeClosed ++ [{ id := id, runs := runsOf (s.me.saeOpen ++ [e]) }]) ∧
        RegistersKept s.me t.me (fun _ _ => False) ∧ OnlyContext s t s.cur) ∧
    (Goes (.saeq g f) g s → s.iss.checked = false → a.toNat % n = 0 → a.toNat + n ≤ 0x1FF000 →
      (s.here.region (a.toNat / 0x20000)).owner ≠ some s.cur.ctx → (s.here.region (a.toNat / 0x20000)).next = some s.cur.ctx →
      exec (.saeq g f) s = .next (s.setMe fun c => { c with blocked := some false })) ∧
    (∀ why, Goes (.saeq g f) g s → (a.toNat % n ≠ 0 ∧ why = 1) ∨
        (a.toNat % n = 0 ∧ 0x200000 ≤ a.toNat ∧ ¬OwnCluster s a.toNat n ∧ why = 2) ∨
        (a.toNat % n = 0 ∧ 0x1FF000 ≤ a.toNat ∧ a.toNat + n ≤ 0x200000 ∧ why = 3) ∨
        (a.toNat % n = 0 ∧ a.toNat + n ≤ 0x1FF000 ∧ (s.here.region (a.toNat / 0x20000)).owner ≠ some s.cur.ctx ∧
          (s.here.region (a.toNat / 0x20000)).next ≠ some s.cur.ctx ∧ why = 4) →
      ∃ t, exec (.saeq g f) s = .next t ∧ t.me.saeErr = min (s.me.saeErr + 1) 0xFFFF ∧ t.me.saeOpen = s.me.saeOpen ∧
        (s.me.saeErr = 0 → s.me.saeCause = 0 →
          t.me.saeCause = why ∧ t.me.saeAddr = a) ∧
        RegistersKept s.me t.me (fun _ _ => False) ∧ OnlyContext s t s.cur) ∧
    (Goes (.saef g f) g s → s.me.saeOpen = [] → s.me.saeClosed = [] →
      ∃ t, exec (.saef g f) s = .next t ∧ t.me.saeErr = 0 ∧ t.me.saeCause = 0 ∧ t.me.saeAddr = 0 ∧
        t.me.curLine = s.me.curLine ++ [⟨s.me.clock + 1, .x f.dt.toNat (BitVec.ofNat 64 s.me.saeErr), Flags.none⟩] ∧
        RegistersKept s.me t.me (fun _ _ => False) ∧ OnlyContext s t s.cur)

/-! ### Class V (R140 to R158) -/

/-- The integer lane operations with latency 2: wrapping sums, differences and products under SUB 0, the clamped ones
with NV under SUB 1, the high half of the product under SUB 2, and the smaller and larger lane. A lane that the mask does
not enable is not written and sets no flag. -/
def Obligations.IntegerLanes : Prop :=
  ∀ (g : Guard) (f : FmtA) (s : State) (w : Nat) (signed : Bool) (lo hi : Int) (a b : Nat → Int),
    (f.fmt, w, signed) ∈ [(0x10#6, 8, true), (0x11, 8, false), (0x12, 16, true), (0x13, 16, false), (0x14, 32, true),
      (0x15, 32, false)] →
    lo = (if signed then -(2 ^ (w - 1)) else 0) → hi = (if signed then 2 ^ (w - 1) - 1 else 2 ^ w - 1) →
    (∀ n, a n = laneNum signed w (s.me.vr f.opa.toNat) n) → (∀ n, b n = laneNum signed w (s.me.vr f.opb.toNat) n) →
    (∀ e ∈ [(Instr.vadd, fun x y : Int => x + y), (Instr.vsub, fun x y => x - y), (Instr.vmul, fun x y => x * y)],
      Goes (e.1 g f) g s →
      (f.sub = 0 → WritesLanes (e.1 g f) s 2 f.dst.toNat w (Enabled s f w)
        (fun n u => (u : Int) = e.2 (a n) (b n) % 2 ^ w) Flags.none) ∧
      (f.sub = 1 → ∃ fl, WritesLanes (e.1 g f) s 2 f.dst.toNat w (Enabled s f w)
          (fun n u => (u : Int) = max lo (min hi (e.2 (a n) (b n))) % 2 ^ w) fl ∧
        ((fl = Flags.nv ∧ ∃ n, n < 1024 / w ∧ Enabled s f w n ∧ (e.2 (a n) (b n) < lo ∨ hi < e.2 (a n) (b n))) ∨
          (fl = Flags.none ∧
            ∀ n, n < 1024 / w → Enabled s f w n → lo ≤ e.2 (a n) (b n) ∧ e.2 (a n) (b n) ≤ hi)))) ∧
    (Goes (.vmul g f) g s → f.sub = 2 → WritesLanes (.vmul g f) s 2 f.dst.toNat w (Enabled s f w)
      (fun n u => (u : Int) = a n * b n / 2 ^ w % 2 ^ w) Flags.none) ∧
    (f.sub = 0 → (Goes (.vmin g f) g s → WritesLanes (.vmin g f) s 2 f.dst.toNat w (Enabled s f w)
        (fun n u => (u : Int) = min (a n) (b n) % 2 ^ w) Flags.none) ∧
      (Goes (.vmax g f) g s → WritesLanes (.vmax g f) s 2 f.dst.toNat w (Enabled s f w)
        (fun n u => (u : Int) = max (a n) (b n) % 2 ^ w) Flags.none))

/-- VAND, VOR, VXOR and VLUT3 write each bit of the bytes that their mask enables, VLUT3 the bit of IMM8 that the three
input bits number; MAND and MOR combine two masks, inverted by SUB[0] and SUB[1], MNOT inverts one and MPOP counts its one
bits. All take latency 2 and set no flag.
The lane shifts, counts and moves with latency 2 and no flag. VSHL and VSHR shift by a lane or a literal, VSHR by floor
division; VFSH funnels across two registers; VROT turns, VPERM permutes with zero for an index past the end, VBCAST
repeats one lane or the low bits of an x register, and VSEL writes every lane by its mask. -/
def Obligations.BitwiseLanesAndMoves : Prop :=
  (∀ (g : Guard) (f : FmtA) (s : State) (a b c : BitVec 1024) (u t : BitVec 128), a = s.me.vr f.opa.toNat →
     b = s.me.vr f.opb.toNat → c = s.me.vr f.aux.toNat →
     u = (s.me.mr f.opa.toNat ^^^ if f.sub.getLsbD 0 then BitVec.allOnes 128 else 0) →
     t = (s.me.mr f.opb.toNat ^^^ if f.sub.getLsbD 1 then BitVec.allOnes 128 else 0) →
     (∀ e ∈ [(Instr.vand, a &&& b), (Instr.vor, a ||| b), (Instr.vxor, a ^^^ b)], Goes (e.1 g f) g s →
       exec (e.1 g f) s = .next (s.put 2 (.v f.dst.toNat e.2 (s.me.mr f.msk.toNat)) Flags.none)) ∧
     (Goes (.vlut3 g f) g s → ∃ val, exec (.vlut3 g f) s =
         .next (s.put 2 (.v f.dst.toNat val (s.me.mr f.msk.toNat)) Flags.none) ∧
       ∀ k, k < 1024 → val.getLsbD k = (f.prof ++ BitVec.ofBool f.sga ++ BitVec.ofBool f.sgb).getLsbD
         (4 * (a.getLsbD k).toNat + 2 * (b.getLsbD k).toNat + (c.getLsbD k).toNat)) ∧
     (∀ e ∈ [(Instr.mand, u &&& t), (Instr.mor, u ||| t), (Instr.mnot, ~~~s.me.mr f.opa.toNat)], Goes (e.1 g f) g s →
       exec (e.1 g f) s = .next (s.put 2 (.m f.dst.toNat e.2) Flags.none)) ∧
     (Goes (.mpop g f) g s → exec (.mpop g f) s = .next (s.put 2 (.x f.dst.toNat (BitVec.ofNat 64
       ((List.range 128).filter fun i => (s.me.mr f.opa.toNat).getLsbD i).length)) Flags.none))) ∧
  (∀ (g : Guard) (f : FmtA) (s : State) (w L : Nat) (signed : Bool) (a b k : Nat → Nat),
     (f.fmt, w, signed) ∈ [(0x10#6, 8, true), (0x11, 8, false), (0x12, 16, true), (0x13, 16, false), (0x14, 32, true),
       (0x15, 32, false)] → L = 1024 / w →
     (∀ n, a n = laneAt w (s.me.vr f.opa.toNat) n) → (∀ n, b n = laneAt w (s.me.vr f.opb.toNat) n) →
     (∀ n, k n = if f.sub = 1 then f.aux.toNat else b n) →
     (Goes (.vshl g f) g s → WritesLanes (.vshl g f) s 2 f.dst.toNat w (Enabled s f w)
       (fun n u => u = a n * 2 ^ k n % 2 ^ w) Flags.none) ∧
     (Goes (.vshr g f) g s → WritesLanes (.vshr g f) s 2 f.dst.toNat w (Enabled s f w)
       (fun n u => (u : Int) = laneNum signed w (s.me.vr f.opa.toNat) n / 2 ^ k n % 2 ^ w) Flags.none) ∧
     (Goes (.vpopc g f) g s → WritesLanes (.vpopc g f) s 2 f.dst.toNat w (Enabled s f w)
       (fun n u => u = ((List.range w).filter fun i => (a n).testBit i).length) Flags.none) ∧
     (Goes (.vclz g f) g s → WritesLanes (.vclz g f) s 2 f.dst.toNat w (Enabled s f w)
       (fun n u => u ≤ w ∧ a n < 2 ^ (w - u) ∧ (a n ≠ 0 → 2 ^ (w - 1 - u) ≤ a n)) Flags.none) ∧
     (Goes (.vfsh g f) g s → f.aux.toNat < L → WritesLanes (.vfsh g f) s 2 f.dst.toNat w (Enabled s f w)
       (fun n u => u = if n + f.aux.toNat < L then a (n + f.aux.toNat) else b (n + f.aux.toNat - L)) Flags.none) ∧
     (Goes (.vrot g f) g s → f.aux.toNat < L → WritesLanes (.vrot g f) s 2 f.dst.toNat w (Enabled s f w)
       (fun n u => u = a ((if f.sub = 0 then n + f.aux.toNat else n + L - f.aux.toNat) % L)) Flags.none) ∧
     (Goes (.vperm g f) g s → WritesLanes (.vperm g f) s 2 f.dst.toNat w (Enabled s f w)
       (fun n u => u = if b n < L then a (b n) else 0) Flags.none) ∧
     (Goes (.vbcast g f) g s →
       (f.sub.toNat ≤ 1 → f.aux.toNat + 64 * f.sub.toNat < L → WritesLanes (.vbcast g f) s 2 f.dst.toNat w (Enabled s f w)
         (fun _ u => u = a (f.aux.toNat + 64 * f.sub.toNat)) Flags.none) ∧
       (f.sub = 2 → WritesLanes (.vbcast g f) s 2 f.dst.toNat w (Enabled s f w)
         (fun _ u => u = (s.me.x f.opa.toNat).toNat % 2 ^ w) Flags.none)) ∧
     (Goes (.vsel g f) g s → WritesLanes (.vsel g f) s 2 f.dst.toNat w (fun _ => True)
       (fun n u => (Enabled s f w n → u = a n) ∧ (¬Enabled s f w n → u = b n)) Flags.none))

/-- VCMP writes the whole of its mask register with latency 2: every bit of an enabled lane's bytes is the condition, every
other bit 0. Integer lanes compare as their format reads them, codes 6 to 9 on the encodings. Real lanes compare by value
order, NaR below every real; a NaN makes only ne true. NV comes from a signalling NaN, and from a quiet one with lt, le,
gt and ge. -/
def Obligations.LaneComparisons : Prop :=
  ∀ (g : Guard) (f : FmtA) (s : State) (w : Nat), Goes (.vcmp g f) g s →
    (∀ signed, (f.fmt, w, signed) ∈ [(0x10#6, 8, true), (0x11, 8, false), (0x12, 16, true), (0x13, 16, false),
        (0x14, 32, true), (0x15, 32, false)] →
      ∃ m, exec (.vcmp g f) s = .next (s.put 2 (.m f.dst.toNat m) Flags.none) ∧
        ∀ j n, j < 128 → n = j / (w / 8) → (m.getLsbD j = true ↔ Enabled s f w n ∧ OrderHolds f.sub.toNat
          (laneNum signed w (s.me.vr f.opa.toNat) n < laneNum signed w (s.me.vr f.opb.toNat) n)
          (laneNum signed w (s.me.vr f.opa.toNat) n = laneNum signed w (s.me.vr f.opb.toNat) n)
          (laneAt w (s.me.vr f.opa.toNat) n < laneAt w (s.me.vr f.opb.toNat) n))) ∧
    (isTap f.fmt = true ∨ isIeee f.fmt = true → w = fmtWidth f.fmt → f.sub.toNat ≤ 5 → ∀ x y : Nat → Val,
      (∀ n, x n = decodeVal (fmtOf f.fmt) (laneAt w (s.me.vr f.opa.toNat) n)) →
      (∀ n, y n = decodeVal (fmtOf f.fmt) (laneAt w (s.me.vr f.opb.toNat) n)) →
      ∃ m fl, exec (.vcmp g f) s = .next (s.put 2 (.m f.dst.toNat m) fl) ∧
        (∀ j n, j < 128 → n = j / (w / 8) → (m.getLsbD j = true ↔ Enabled s f w n ∧
          if (x n).isNan || (y n).isNan then f.sub = 1
          else OrderHolds f.sub.toNat (valLt (x n) (y n) = true) (valEq (x n) (y n) = true) False)) ∧
        ((fl = Flags.nv ∧ ∃ n, n < 1024 / w ∧ Enabled s f w n ∧ ((x n).isNan || (y n).isNan) = true ∧
            ((x n).isSignalling || (y n).isSignalling || decide (2 ≤ f.sub.toNat)) = true) ∨
          (fl = Flags.none ∧ ∀ n, n < 1024 / w → Enabled s f w n → ((x n).isNan || (y n).isNan) = true →
            ((x n).isSignalling || (y n).isSignalling || decide (2 ≤ f.sub.toNat)) = false)))

/-- The real lane operations round the exact result of real operands once, with latency 4, 5 for VFMA and 12 for VFDIV and
VFSQRT, which also start the interval of their unit; a NaR operand, a zero divisor or a negative radicand of a tapered
format gives NaR. An IEEE lane follows R34 for every kind of operands: a NaN or an invalid operation gives the canonical
NaN, with NV for a signalling operand or an invalid operation; infinities and zeros take their sign rules, and a division by
zero sets DZ. VFABS and VFNEG clear and invert the sign, VFMIN and VFMAX return an operand, −0 below +0, and a signalling NaN
sets their NV; VCVT rounds each source lane once into the target format, integer formats among them. -/
def Obligations.RealLanes : Prop :=
  ∀ (g : Guard) (f : FmtA) (s : State) (w : Nat), w = fmtWidth f.fmt →
    (∀ (nf : NumFmt) (a b c : Nat → Nat) (x y z : Nat → Val),
      isTap f.fmt = true ∨ isIeee f.fmt = true → nf = fmtOf f.fmt →
      (∀ n, a n = laneAt w (s.me.vr f.opa.toNat) n ∧ x n = decodeVal nf (a n)) →
      (∀ n, b n = laneAt w (s.me.vr f.opb.toNat) n ∧ y n = decodeVal nf (b n)) →
      (∀ n, c n = laneAt w (s.me.vr f.aux.toNat) n ∧ z n = decodeVal nf (c n)) →
      (∀ e ∈ [(Instr.vfadd, 4, Q.add), (Instr.vfsub, 4, Q.sub), (Instr.vfmul, 4, Q.mul)], Goes (e.1 g f) g s →
        ∃ fl, WritesLanes (e.1 g f) s e.2.1 f.dst.toNat w (Enabled s f w) (fun n u =>
            (∀ p q, x n = .real p → y n = .real q → (isTap f.fmt || !(e.2.2 p q).isZero) = true →
              u = (roundVal nf (.real (e.2.2 p q))).1) ∧
            (isTap f.fmt = true → x n = .nar ∨ y n = .nar → u = 2 ^ (w - 1))) fl ∧
          (isTap f.fmt = true → (∃ n, n < 1024 / w ∧ Enabled s f w n ∧ (x n = .nar ∨ y n = .nar)) →
            fl &&& Flags.narf = Flags.narf)) ∧
      (Goes (.vfma g f) g s → ∃ fl, WritesLanes (.vfma g f) s 5 f.dst.toNat w (Enabled s f w) (fun n u =>
        (∀ p q r, x n = .real p → y n = .real q → z n = .real r →
          (isTap f.fmt || (!(p.mul q).isZero && !((p.mul q).add r).isZero)) = true →
          u = (roundVal nf (.real ((p.mul q).add r))).1) ∧
        (isTap f.fmt = true → x n = .nar ∨ y n = .nar ∨ z n = .nar → u = 2 ^ (w - 1))) fl) ∧
      (∀ e ∈ [(Instr.vfdiv, true), (Instr.vfsqrt, false)], Goes (e.1 g f) g s → s.iss.checked = true →
        ∃ val we fl, exec (e.1 g f) s = .next ((s.put 12 (.v f.dst.toNat val we) fl).startDivide s.iss.slot) ∧
          (∀ j, j < 128 → (we.getLsbD j = true ↔ Enabled s f w (j / (w / 8)))) ∧
          ∀ n, n < 1024 / w → Enabled s f w n →
            (e.2 = true → ∀ p q, x n = .real p → y n = .real q → p.isZero = false → q.isZero = false →
              laneAt w val n = (roundVal nf (.real (p.div q))).1) ∧
            (e.2 = false → ∀ p, x n = .real p → p.isNeg = false → laneAt w val n = (roundVal nf (.real p.sqrtRep)).1) ∧
            (isTap f.fmt = true → x n = .nar ∨ (e.2 = true ∧ (y n = .nar ∨ (y n).isZero = true)) ∨
              (e.2 = false ∧ ∃ p, x n = .real p ∧ p.isNeg = true) → laneAt w val n = 2 ^ (w - 1))) ∧
      (∀ e ∈ [(Instr.vfmin, true), (Instr.vfmax, false)], Goes (e.1 g f) g s → ∃ fl,
        WritesLanes (e.1 g f) s 4 f.dst.toNat w (Enabled s f w) (fun n u =>
          (∀ p q, x n = .real p → y n = .real q → p.lt q = e.2 → p.eqv q = false → u = a n) ∧
          (∀ p q, x n = .real p → y n = .real q → q.lt p = e.2 → p.eqv q = false → u = b n) ∧
          ((x n).isNan = true → (y n).isNan = false → u = b n) ∧ ((y n).isNan = true → (x n).isNan = false → u = a n) ∧
          ((x n).isNan = true → (y n).isNan = true → u = canonOf nf) ∧
          (x n = .negZero → y n = .real Q.zero → u = if e.2 = true then a n else b n) ∧
          (x n = .real Q.zero → y n = .negZero → u = if e.2 = true then b n else a n) ∧
          ((x n).isNan = false → (y n).isNan = false → (isTap f.fmt = true → x n ≠ .nar ∧ y n ≠ .nar) →
            (valLt (x n) (y n) = true → u = if e.2 = true then a n else b n) ∧
            (valLt (y n) (x n) = true → u = if e.2 = true then b n else a n)) ∧
          (x n = .nar ∨ y n = .nar → u = 2 ^ (w - 1))) fl ∧
          (isIeee f.fmt = true → ((∃ n, n < 1024 / w ∧ Enabled s f w n ∧ ((x n).isSignalling || (y n).isSignalling) = true) ∧
              fl = Flags.nv) ∨
            ((∀ n, n < 1024 / w → Enabled s f w n → ((x n).isSignalling || (y n).isSignalling) = false) ∧ fl = Flags.none)) ∧
          (isTap f.fmt = true → (∃ n, n < 1024 / w ∧ Enabled s f w n ∧ (x n = .nar ∨ y n = .nar)) → fl = Flags.narf)) ∧
      (∀ e ∈ [(Instr.vfabs, false), (Instr.vfneg, true)], Goes (e.1 g f) g s → ∃ fl,
        WritesLanes (e.1 g f) s 2 f.dst.toNat w (Enabled s f w) (fun n u =>
          (isTap f.fmt = true → u = if (e.2 = true ∨ 2 ^ (w - 1) ≤ a n) ∧ a n ≠ 0 then 2 ^ w - a n else a n) ∧
          (isIeee f.fmt = true → u = (if (x n).isNan then canonOf nf else a n % 2 ^ (w - 1)) +
            if e.2 = true ∧ a n < 2 ^ (w - 1) then 2 ^ (w - 1) else 0)) fl ∧
        (isIeee f.fmt = true → (∃ n, n < 1024 / w ∧ Enabled s f w n ∧ (x n).isSignalling = true) → fl = Flags.nv) ∧
        (isTap f.fmt = true → (∃ n, n < 1024 / w ∧ Enabled s f w n ∧ x n = .nar) → fl = Flags.narf))) ∧
    (isIeee f.fmt = true → ∀ e ∈ [(Instr.vfadd, RealOp.add, 4, [f.opa, f.opb]), (.vfsub, .sub, 4, [f.opa, f.opb]),
        (.vfmul, .mul, 4, [f.opa, f.opb]), (.vfma, .fma, 5, [f.opa, f.opb, f.aux]), (.vfdiv, .div, 12, [f.opa, f.opb]),
        (.vfsqrt, .sqrt, 12, [f.opa])], Goes (e.1 g f) g s → s.iss.checked = true ∨ e.2.2.1 < 12 →
      ∃ val we fl t, t = s.put e.2.2.1 (.v f.dst.toNat val we) fl ∧
        exec (e.1 g f) s = .next (if e.2.2.1 < 12 then t else t.startDivide s.iss.slot) ∧
        ∀ n, n < 1024 / w → Enabled s f w n → ∀ r k,
          IeeeGives e.2.1 (e.2.2.2.map fun q => decodeVal (fmtOf f.fmt) (laneAt w (s.me.vr q.toNat) n)) r k →
          laneAt w val n = (roundVal (fmtOf f.fmt) r).1 ∧ fl &&& k = k) ∧
    (∀ e ∈ [(0x18#6, 0x7E00, 0x7C00, 0xFC00, 0x8000), (0x19, 0x7FC0, 0x7F80, 0xFF80, 0x8000),
        (0x1A, 0x7FC00000, 0x7F800000, 0xFF800000, 0x80000000)],
      (roundVal (fmtOf e.1) (.nan false)).1 = e.2.1 ∧ (roundVal (fmtOf e.1) (.inf false)).1 = e.2.2.1 ∧
        (roundVal (fmtOf e.1) (.inf true)).1 = e.2.2.2.1 ∧ (roundVal (fmtOf e.1) .negZero).1 = e.2.2.2.2 ∧
        (roundVal (fmtOf e.1) (.real Q.zero)).1 = 0) ∧
    (isInt f.fmt = true ∨ isTap f.fmt = true ∨ isIeee f.fmt = true → isInt f.aux = true ∨ isTap f.aux = true ∨
        isIeee f.aux = true → ∀ ws part, ws = fmtWidth f.aux → part = f.sub.toNat → part < max ws w / min ws w →
      Goes (.vcvt g f) g s → ∃ fl, WritesLanes (.vcvt g f) s 3 f.dst.toNat w
        (fun d => Enabled s f w d ∧ (w ≤ ws → 1024 / ws * part ≤ d ∧ d < 1024 / ws * (part + 1)))
        (fun d u => u = (convertVal (fmtOf f.fmt) (decodeVal (fmtOf f.aux) (laneAt ws (s.me.vr f.opa.toNat)
          (if w ≤ ws then d - 1024 / ws * part else 1024 / w * part + d)))).1) fl)

/-- The reductions take the enabled lanes in order: VRADD the exact sum, rounded or clamped once, VRMAX and VRMIN the
extreme, or the end of the format where no lane is enabled; the value goes to lane 0 with zeros elsewhere, or extended to
an x register. A sum with a NaR, NaN or infinite lane is NaR or the canonical NaN, with NARF. An IEEE extreme passes NaN
lanes over unless every lane holds one, orders −0 below +0, and sets NV for a signalling lane. -/
def Obligations.Reductions : Prop :=
  ∀ (g : Guard) (f : FmtA) (s : State) (w : Nat) (on : List Nat), w = fmtWidth f.fmt →
    on = (List.range (1024 / w)).filter (fun n => (s.me.mr f.msk.toNat).getLsbD (w / 8 * n)) →
    (∀ signed, (f.fmt, w, signed) ∈ [(0x10#6, 8, true), (0x11, 8, false), (0x12, 16, true), (0x13, 16, false),
        (0x14, 32, true), (0x15, 32, false)] → ∀ (a : Nat → Int) (lo hi : Int),
      (∀ n, a n = laneNum signed w (s.me.vr f.opa.toNat) n) →
      lo = (if signed then -(2 ^ (w - 1)) else 0) → hi = (if signed then 2 ^ (w - 1) - 1 else 2 ^ w - 1) →
      ∀ i lat r fl, Goes (i g f) g s →
        (i = Instr.vradd ∧ lat = 6 ∧ r = max lo (min hi (on.map a).sum) ∧
          fl = if lo ≤ (on.map a).sum ∧ (on.map a).sum ≤ hi then Flags.none else Flags.nv) ∨
        (i = Instr.vrmax ∧ lat = 4 ∧ fl = Flags.none ∧
          ((on = [] ∧ r = lo) ∨ ∃ n ∈ on, r = a n ∧ ∀ m ∈ on, a m ≤ r)) ∨
        (i = Instr.vrmin ∧ lat = 4 ∧ fl = Flags.none ∧
          ((on = [] ∧ r = hi) ∨ ∃ n ∈ on, r = a n ∧ ∀ m ∈ on, r ≤ a m)) →
        (f.sub = 0 → ∃ val, exec (i g f) s = .next (s.put lat (.v f.dst.toNat val (BitVec.allOnes 128)) fl) ∧
          (laneAt w val 0 : Int) = r % 2 ^ w ∧ ∀ n, 0 < n → n < 1024 / w → laneAt w val n = 0) ∧
        (f.sub = 1 → exec (i g f) s = .next (s.put lat (.x f.dst.toNat (BitVec.ofInt 64 r)) fl))) ∧
    (isTap f.fmt = true ∨ isIeee f.fmt = true → ∀ (nf : NumFmt) (a : Nat → Nat) (x : Nat → Val), nf = fmtOf f.fmt →
      (∀ n, a n = laneAt w (s.me.vr f.opa.toNat) n ∧ x n = decodeVal nf (a n)) →
      ∀ i, i ∈ [(Instr.vradd, 6), (Instr.vrmax, 4), (Instr.vrmin, 4)] → Goes (i.1 g f) g s → ∃ r fl,
        (f.sub = 0 → exec (i.1 g f) s =
          .next (s.put i.2 (.v f.dst.toNat (BitVec.ofNat 1024 r) (BitVec.allOnes 128)) fl)) ∧
        (f.sub = 1 → exec (i.1 g f) s = .next (s.put i.2 (.x f.dst.toNat
          (if isTap f.fmt then BitVec.ofInt 64 (BitVec.ofNat w r).toInt else BitVec.ofNat 64 r)) fl)) ∧
        (i.2 = 6 → r = (readQuire nf (quireAddAll Quire.zero (on.map x)).1).1) ∧
        (i.1 g f = .vrmax g f → on = [] → r = if isTap f.fmt then 2 ^ (w - 1) + 1 else (roundVal nf (.inf true)).1) ∧
        (i.1 g f = .vrmin g f → on = [] → r = if isTap f.fmt then 2 ^ (w - 1) - 1 else (roundVal nf (.inf false)).1) ∧
        (i.2 = 6 → (∃ n ∈ on, (x n).real? = none) → r = (if isTap f.fmt then 2 ^ (w - 1) else canonOf nf) ∧
          fl &&& Flags.narf = Flags.narf) ∧
        (i.2 = 6 → ∀ m : Nat → Int, (∀ n ∈ on, (x n).real? = some (Q.mk' (m n) (2 ^ 240))) →
          (on.map fun n => (m n).natAbs).sum < 2 ^ 511 →
          r = (roundVal nf (.real (Q.mk' (on.map m).sum (2 ^ 240)))).1) ∧
        (i.2 = 4 → isIeee f.fmt = true → on ≠ [] →
          ((∀ n ∈ on, (x n).isNan = true) → r = canonOf nf) ∧
          ((∃ n ∈ on, (x n).isNan = false) → ∃ n ∈ on, (x n).isNan = false ∧ r = a n) ∧
          ((∃ n ∈ on, (x n).isSignalling = true) → fl = Flags.nv) ∧
          ((∀ n ∈ on, (x n).isSignalling = false) → fl = Flags.none)) ∧
        (i.1 g f = .vrmax g f → isIeee f.fmt = true → ∀ n ∈ on, (x n).isNan = false → valLt (decodeVal nf r) (x n) = false ∧
          (decodeVal nf r = .negZero → x n ≠ .real Q.zero)) ∧
        (i.1 g f = .vrmin g f → isIeee f.fmt = true → ∀ n ∈ on, (x n).isNan = false → valLt (x n) (decodeVal nf r) = false ∧
          (decodeVal nf r = .real Q.zero → x n ≠ .negZero)) ∧
        (i.2 = 4 → (∃ n ∈ on, x n = .nar) → r = 2 ^ (w - 1) ∧ fl = Flags.narf) ∧
        (i.2 = 4 → on ≠ [] → (∀ n ∈ on, ∃ p, x n = .real p) → fl = Flags.none ∧ ∃ n ∈ on, r = a n) ∧
        (i.1 g f = .vrmax g f → ∀ n ∈ on, ∀ p q, decodeVal nf r = .real p → x n = .real q → p.lt q = false) ∧
        (i.1 g f = .vrmin g f → ∀ n ∈ on, ∀ p q, decodeVal nf r = .real p → x n = .real q → q.lt p = false))

/-- Sampling. VSWT writes in every lane the weight of its score, 0 where the mask does not enable it, and adds their exact
total to its quire. VSPICK starts with the exact product of the quire and its random word; its scans take 2^32 times each
enabled lane's weight from the budget and answer the first lane that brings it below zero; the final one answers the
sentinel with GNONE where none does, and a budget below zero at entry is left as it is. -/
def Obligations.Sampling : Prop :=
  ∀ (g : Guard) (f : FmtA) (s : State),
    (∀ (nf : NumFmt) (smax kappa : Q), Goes (.vswt g f) g s → nf = fmtOf f.fmt →
      (decodeVal nf (laneAt 32 (s.me.vr f.opb.toNat) 0)).real? = some smax →
      (decodeVal nf (laneAt 32 (s.me.vr f.opb.toNat) 1)).real? = some kappa →
      ∃ val q fl fq, exec (.vswt g f) s =
          .next ((s.put 6 (.v f.dst.toNat val (BitVec.allOnes 128)) fl).put 6 (.q f.aux.toNat q) fq) ∧
        (∀ n, n < 32 → (Enabled s f 32 n → ∀ x, (decodeVal nf (laneAt 32 (s.me.vr f.opa.toNat) n)).real? = some x →
            laneAt 32 val n = expE ((x.sub smax).mul kappa) % 2 ^ 32) ∧ (¬Enabled s f 32 n → laneAt 32 val n = 0)) ∧
        (q, fq) = quireAdd (s.me.qr f.aux.toNat) (totalOf ((List.range 32).map (laneAt 32 val)))) ∧
    (∀ (qv q : Quire) (k : Nat), Goes (.vspickStart g f) g s → qv = s.me.qr f.aux.toNat → qv.nar = false →
      k = laneAt 32 (s.me.vr f.opb.toNat) 0 → q.nar = false → q.val.toInt = qv.val.toInt * k →
      exec (.vspickStart g f) s = .next (s.put 6 (.q f.aux.toNat q) Flags.none)) ∧
    (∀ (B : Nat → Quire) (base : Nat), base = laneAt 32 (s.me.vr f.opb.toNat) 1 → B 0 = s.me.qr f.aux.toNat →
      (∀ n, (Enabled s f 32 n → B (n + 1) = (quireAdd (B n)
            (match (decodeVal t32e2 (laneAt 32 (s.me.vr f.opa.toNat) n)).real? with
              | some t => .real (t.scale 32).neg
              | none => .nar)).1) ∧
        (¬Enabled s f 32 n → B (n + 1) = B n)) →
      ∀ e ∈ [(Instr.vspickScan, false), (Instr.vspickFinal, true)], Goes (e.1 g f) g s →
        (∀ n, n < 32 → (∀ m, m ≤ n → (B m).nar = false ∧ (B m).isNeg = false) → (B (n + 1)).isNeg = true →
          ∃ fl, exec (e.1 g f) s = .next ((s.put 6 (.q f.aux.toNat (B (n + 1))) fl).put 6
            (.x f.dst.toNat (BitVec.ofNat 64 (base + n))) Flags.none)) ∧
        (∀ n, n ≤ 32 → (∀ m, m < n → (B m).nar = false ∧ (B m).isNeg = false) → (B n).isNeg = false →
          n = 32 ∨ (B n).nar = true → ∃ fl u, u = s.put 6 (.q f.aux.toNat (B n)) fl ∧ exec (e.1 g f) s =
            .next (if e.2 = true then u.put 6 (.x f.dst.toNat (BitVec.allOnes 64)) Flags.gnone else u)) ∧
        ((B 0).isNeg = true → exec (e.1 g f) s = .next (s.put 6 (.q f.aux.toNat (B 0)) Flags.none)))

/-! ### Classes Q, M and D (R160 to R207) -/

/-- The Q slot. QCLR gives zero and QNEG the negation, whose one overflow is −2^271; QADDQ and QFROM add or subtract a
quire or a cell of an owned tile exactly by R32, QADD the value of an x register; QRND rounds once into a format; QTST
orders a quire against zero, the NaR state below every real, or tests that state. -/
def Obligations.QuireArithmetic : Prop :=
  ∀ (g : Guard) (f : FmtA) (s : State) (c a : Quire) (sign : Int), c = s.me.qr f.dst.toNat → a = s.me.qr f.opa.toNat →
    sign = (if f.sub = 1 then -1 else 1) →
    (Goes (.qclr g f) g s → exec (.qclr g f) s = .next (s.put 1 (.q f.dst.toNat ⟨false, 0⟩) Flags.none)) ∧
    (Goes (.qneg g f) g s →
      (c.nar = true → exec (.qneg g f) s = .next (s.put 4 (.q f.dst.toNat c) Flags.none)) ∧
      (c.nar = false → c.val.toInt = -(2 ^ 511) →
        exec (.qneg g f) s = .next (s.put 4 (.q f.dst.toNat ⟨true, 0⟩) Flags.qov)) ∧
      (c.nar = false → c.val.toInt ≠ -(2 ^ 511) →
        exec (.qneg g f) s = .next (s.put 4 (.q f.dst.toNat ⟨false, -c.val⟩) Flags.none))) ∧
    (Goes (.qaddq g f) g s → ∃ r fl, exec (.qaddq g f) s = .next (s.put 4 (.q f.dst.toNat r) fl) ∧
      QuireSum c ((quireUnits a).map (sign * ·)) r fl) ∧
    (∀ cell : Quire, cell = s.here.cell f.opa.toNat (f.prof ++ BitVec.ofBool f.sga ++ BitVec.ofBool f.sgb).toNat →
      Goes (.qfrom g f) g s → Owns s true f.opa.toNat →
      ∃ r fl, exec (.qfrom g f) s = .next (s.put 4 (.q f.dst.toNat r) fl) ∧
        QuireSum c ((quireUnits cell).map (sign * ·)) r fl) ∧
    (Goes (.qfrom g f) g s → s.iss.checked = false → ¬Owns s true f.opa.toNat → exec (.qfrom g f) s =
      .next (s.takeTrap s.cur (Trap.plain 3 (BitVec.ofNat 64 (0x100 + f.opa.toNat))) s.me.at_)) ∧
    (∀ v : Val, v = decodeVal (fmtOf f.fmt) ((s.me.x f.opa.toNat).toNat % 2 ^ fmtWidth f.fmt) → Goes (.qadd g f) g s →
      (v.real? = none → c.nar = false → ∃ fl, exec (.qadd g f) s = .next (s.put 4 (.q f.dst.toNat ⟨true, 0⟩) fl) ∧
        fl = if v.isSignalling then Flags.narf ||| Flags.nv else Flags.narf) ∧
      (∀ n p : Int, v.real? = some (Q.mk' n (2 ^ 240)) → p = sign * n →
        ∃ r fl, exec (.qadd g f) s = .next (s.put 4 (.q f.dst.toNat r) fl) ∧ QuireSum c (some p) r fl)) ∧
    (∀ r : Nat × Flags, r = roundVal (fmtOf f.fmt) (if a.nar then .nar else .real (Q.mk' a.val.toInt (2 ^ 240))) →
      Goes (.qrnd g f) g s → exec (.qrnd g f) s = .next (s.put 4 (.x f.dst.toNat
        (if isSignedInt f.fmt || isTap f.fmt then BitVec.ofInt 64 (BitVec.ofNat (fmtWidth f.fmt) r.1).toInt
          else BitVec.ofNat 64 r.1)) r.2)) ∧
    (∀ v : Bool, Goes (.qtst g f) g s → (v = true ↔ OrderHolds f.sub.toNat (a.nar = true ∨ a.val.toInt < 0)
        (a.nar = false ∧ a.val.toInt = 0) False) →
      exec (.qtst g f) s = .next (s.put 2 (.p f.dst.toNat v) Flags.none)) ∧
    (Goes (.qtstNar g f) g s → exec (.qtstNar g f) s = .next (s.put 2 (.p f.dst.toNat a.nar) Flags.none))

/-- QDOT adds the products of its enabled lanes in increasing order, QFMA the product of two x registers, by the profile:
exactly under profile 0, so that real products that are multiples of 2^−240 leave their exact sum. No enabled lane leaves
the quire as it is under profiles 0 and 3. QSAVE stores a 128-byte image, VAL, NARS and zeros, 8 cycles later; QLOAD brings
one back, the NaR state where its STATUS bit is 1. -/
def Obligations.QuireSumsAndImages : Prop :=
  ∀ (g : Guard) (s : State),
    (∀ (f : FmtA) (w : Nat) (el : Bool → Nat → Val) (lanes : List Nat) (c : Quire) (ps : List Val), w = fmtWidth f.fmt →
      (∀ u n, el u n = decodeVal (if isInt f.fmt then .int w (!u) else fmtOf f.fmt) n) → c = s.me.qr f.dst.toNat →
      lanes = (List.range (1024 / w)).filter (fun n => (s.me.mr f.msk.toNat).getLsbD (w / 8 * n)) →
      ∀ i lat, (i = Instr.qdot ∧ lat = 6 ∧ ps = lanes.map (fun n => (prodVal f.prof.toNat (isIeee f.fmt)
            (el f.sga (laneAt w (s.me.vr f.opa.toNat) n)) (el f.sgb (laneAt w (s.me.vr f.opb.toNat) n))).1)) ∨
          (i = Instr.qfma ∧ lat = 4 ∧ ps = [(prodVal f.prof.toNat (isIeee f.fmt)
            (el f.sga ((s.me.x f.opa.toNat).toNat % 2 ^ w)) (el f.sgb ((s.me.x f.opb.toNat).toNat % 2 ^ w))).1]) →
        Goes (i g f) g s → ∃ fl, exec (i g f) s = .next (s.put lat (.q f.dst.toNat
            (profileSum f.prof.toNat c (if f.sub = 1 then ps.map Val.neg else ps)).1) fl) ∧
          (ps = [] → f.prof = 0 ∨ f.prof = 3 → exec (i g f) s = .next (s.put lat (.q f.dst.toNat c) Flags.none)) ∧
          (f.prof = 0 → c.nar = false → ∀ ns : List Int, ps = ns.map (fun n => .real (Q.mk' n (2 ^ 240))) →
            (ns.map Int.natAbs).sum + c.val.toInt.natAbs < 2 ^ 511 →
            ∃ r : Quire, exec (i g f) s = .next (s.put lat (.q f.dst.toNat r) Flags.none) ∧ r.nar = false ∧
              r.val.toInt = c.val.toInt + (if f.sub = 1 then -ns.sum else ns.sum))) ∧
    (∀ (f : FmtL) (a : Nat), a = (s.me.a f.base.toNat + s.me.x f.idx.toNat + BitVec.ofInt 64 (f.off.toInt * 128)).toNat →
      f.sz = 6 → a % 128 = 0 → OwnScratch s a 128 → NoGate s →
      (Goes (.qsave g f) g s → ∃ bs, exec (.qsave g f) s = .next (s.put 8 (.store a bs) Flags.none) ∧
        leNat bs = (s.me.qr f.dt.toNat).val.toNat + 2 ^ 512 * (s.me.qr f.dt.toNat).nar.toNat ∧ bs.length = 128) ∧
      (Goes (.qload g f) g s → ∀ n, n = leNat (s.here.read a 128) → exec (.qload g f) s =
        .next (s.put 8 (.q f.dt.toNat (if n / 2 ^ 512 % 2 = 1 then ⟨true, 0⟩ else ⟨false, BitVec.ofNat 512 n⟩))
          Flags.none)))

/-- MCLAIM grants named slots or tiles when each is unowned, or owned without a pending release, and a count the lowest
numbered unowned ones; a grant makes its context their owner and goes to x[DST], and 0 grants nothing. MREL marks every
named one that the context owns for release at the next cycle or later, and it is owned until then. -/
def Obligations.ClaimsAndReleases : Prop :=
  ∀ (g : Guard) (f : FmtA) (s : State) (tile : Bool) (limit : Nat) (x : Word), tile = f.sub.getLsbD 0 →
    limit = (if tile then 8 else 64) → x = s.me.x f.opa.toNat →
    (∀ grant : Word, Goes (.mclaim g f) g s → s.iss.checked = true ∨ f.sub.getLsbD 2 = false →
      (f.sub.getLsbD 1 = false → (tile = true → x.toNat < 256) →
        (∀ n, n < limit → x.getLsbD n = true → Unowned s.here tile n ∨
          (Owns s tile n ∧ (holderOf s.here tile n).release = none)) → grant = x) →
      (f.sub.getLsbD 1 = false → (tile = true ∧ 256 ≤ x.toNat) ∨ (∃ n, n < limit ∧ x.getLsbD n = true ∧
        ¬Unowned s.here tile n ∧ ¬(Owns s tile n ∧ (holderOf s.here tile n).release = none)) → grant = 0) →
      (f.sub.getLsbD 1 = true → ∀ free : List Nat, (∀ n, n ∈ free ↔ n < limit ∧ Unowned s.here tile n) →
        free.Pairwise (· < ·) →
        grant = if x.toNat = 0 ∨ limit < x.toNat ∨ free.length < x.toNat then 0
          else BitVec.ofNat 64 ((free.take x.toNat).map (2 ^ ·)).sum) →
      ∃ t, exec (.mclaim g f) s = .next t ∧
        t.me.curLine = s.me.curLine ++ [⟨s.me.clock + 1, .x f.dst.toNat grant, Flags.none⟩] ∧
        (∀ n, n < limit → grant.getLsbD n = true → Owns t tile n ∧ (holderOf t.here tile n).release = none) ∧
        (∀ b n, b ≠ tile ∨ grant.getLsbD n = false → holderOf t.here b n = holderOf s.here b n) ∧
        RegistersKept s.me t.me (fun _ _ => False) ∧ BytesKept s t 0 (fun _ => False)) ∧
    (Goes (.mrel g f) g s → ∃ t, exec (.mrel g f) s = .next t ∧
      (∀ n, n < limit → x.getLsbD n = true → Owns s tile n → (holderOf s.here tile n).release = none →
        holderOf t.here tile n = { holderOf s.here tile n with release := some (s.me.ccyc + 1) }) ∧
      (∀ b n, b ≠ tile ∨ limit ≤ n ∨ x.getLsbD n = false ∨ ¬Owns s tile n ∨ (holderOf s.here tile n).release ≠ none →
        holderOf t.here b n = holderOf s.here b n) ∧
      ContextsKept s t ∧ BytesKept s t 0 (fun _ => False))

/-- The M slot. MLDA brings 16 rows of 96 bytes, packed or a stride apart, and the side band or zeros, to an owned slot 10
cycles later. MMA, MMAI and MLUT enter the array with the two slot images they read, keep it for their interval of 4 with
32-bit elements, 2 or 1, and are due 12 cycles later. MZERO and DCLR clear all or some rows 2 cycles later, MSAVE and MLOAD
move a tile image in 132 cycles. A tile or slot that the context does not own traps with ACCF, whichever of these
instructions names it, the tile before the slots. -/
def Obligations.MatrixInstructions : Prop :=
  ∀ (g : Guard) (s : State),
    (∀ (f : FmtL) (a st : Word), f.sz = 4 → st = (if f.lx.getLsbD 0 then s.me.x f.idx.toNat else 96) →
      a = s.me.a f.base.toNat + (if f.lx.getLsbD 0 then 0 else s.me.x f.idx.toNat)
        + BitVec.ofInt 64 (f.off.toInt * 16) →
      Owns s false f.dt.toNat → a.toNat % 16 = 0 → st.toNat % 16 = 0 → NoGate s →
      (∀ r, r < 16 → OwnScratch s (a + BitVec.ofNat 64 r * st).toNat 96) →
      (f.lx.getLsbD 1 = true → OwnScratch s (a + 16 * st).toNat 64) → Goes (.mlda g f) g s →
      ∃ img, exec (.mlda g f) s = .next (s.put 10 (.slot f.dt.toNat img) Flags.none) ∧
        (∀ r k, r < 16 → k < 96 → (img.extractLsb' (768 * r + 8 * k) 8).toNat
          = leNat (s.here.read ((a + BitVec.ofNat 64 r * st).toNat + k) 1)) ∧
        (∀ k, k < 64 → (img.extractLsb' (12288 + 8 * k) 8).toNat
          = if f.lx.getLsbD 1 then leNat (s.here.read ((a + 16 * st).toNat + k) 1) else 0)) ∧
    (∀ (f : FmtM) (i : Guard → FmtM → Instr) (n : Nat), (i g f).wfWord = true → s.iss.checked = true →
      (i = Instr.mlut ∧ n = 1) ∨ ((i = Instr.mma ∨ i = Instr.mmai) ∧
        n = if fmtWidth f.fmta = 32 ∨ fmtWidth f.fmtb = 32 then 4 else 2) → Goes (i g f) g s →
      ∃ t w, exec (i g f) s = .next t ∧ decodeWord w = .ok (i g f) ∧ t.me.curLine = s.me.curLine ++
          [⟨s.me.clock + 12, .array w (s.here.slotImg f.osa.toNat) (s.here.slotImg f.osb.toNat), Flags.none⟩] ∧
        t.me.arrNext = s.me.ccyc + n ∧ t.here.arrBusy = (s.here.cyc + n, s.cur.ctx) ∧
        RegistersKept s.me t.me (fun _ _ => False) ∧ OnlyContext s t s.cur) ∧
    (∀ f : FmtM, Owns s true f.tile.toNat →
      (Goes (.mzero g f) g s → exec (.mzero g f) s =
        .next (s.put 2 (.tile f.tile.toNat 0xFFFF#16 []) Flags.none)) ∧
      (Goes (.dclr g f) g s → f.mx.toNat + f.klen.toNat + 1 ≤ 16 → ∃ rows : BitVec 16, exec (.dclr g f) s =
          .next (s.put 2 (.tile f.tile.toNat rows []) Flags.none) ∧
        ∀ r, r < 16 → (rows.getLsbD r = true ↔ f.mx.toNat ≤ r ∧ r ≤ f.mx.toNat + f.klen.toNat))) ∧
    (∀ (f : FmtL) (a : Nat), a = (s.me.a f.base.toNat + s.me.x f.idx.toNat + BitVec.ofInt 64 (f.off.toInt * 128)).toNat →
      f.sz = 6 → Owns s true f.dt.toNat → a % 128 = 0 → OwnScratch s a 16512 → NoGate s →
      (Goes (.msave g f) g s → ∃ bs, exec (.msave g f) s = .next (s.put 132 (.store a bs) Flags.none) ∧
        bs.length = 16512 ∧ ∀ c, c < 256 →
          leNat ((bs.drop (64 * c)).take 64) = (s.here.cell f.dt.toNat c).val.toNat ∧
          (leNat ((bs.drop 16384).take 32)).testBit c = (s.here.cell f.dt.toNat c).nar) ∧
      (Goes (.mload g f) g s → ∀ bs, bs = s.here.read a 16512 → ∃ cells, exec (.mload g f) s =
          .next (s.put 132 (.tile f.dt.toNat 0xFFFF#16 cells) Flags.none) ∧ ∀ c, c < 256 →
        Sparse.get Quire.zero cells c = if (leNat ((bs.drop 16384).take 32)).testBit c then ⟨true, 0⟩
          else ⟨false, BitVec.ofNat 512 (leNat ((bs.drop (64 * c)).take 64))⟩)) ∧
    (∀ f : FmtM, ∀ i ∈ [Instr.mzero, .dclr], ¬Owns s true f.tile.toNat → Goes (i g f) g s → s.iss.checked = false →
      exec (i g f) s = .next (s.takeTrap s.cur (Trap.plain 3 (BitVec.ofNat 64 (0x100 + f.tile.toNat))) s.me.at_)) ∧
    (∀ f : FmtM, ∀ i ∈ [Instr.mma, .mmai, .mlut], Goes (i g f) g s → s.iss.checked = false → ∀ n : Nat,
      (¬Owns s true f.tile.toNat ∧ n = 0x100 + f.tile.toNat) ∨
        (Owns s true f.tile.toNat ∧ ¬Owns s false f.osa.toNat ∧ n = 0x200 + f.osa.toNat) ∨
        (Owns s true f.tile.toNat ∧ Owns s false f.osa.toNat ∧ ¬Owns s false f.osb.toNat ∧ n = 0x200 + f.osb.toNat) →
      exec (i g f) s = .next (s.takeTrap s.cur (Trap.plain 3 (BitVec.ofNat 64 n)) s.me.at_)) ∧
    (∀ f : FmtL, ∀ i ∈ [Instr.msave, .mload], ¬Owns s true f.dt.toNat → Goes (i g f) g s → s.iss.checked = false →
      exec (i g f) s = .next (s.takeTrap s.cur (Trap.plain 3 (BitVec.ofNat 64 (0x100 + f.dt.toNat))) s.me.at_)) ∧
    (∀ f : FmtL, ¬Owns s false f.dt.toNat → Goes (.mlda g f) g s → s.iss.checked = false →
      exec (.mlda g f) s = .next (s.takeTrap s.cur (Trap.plain 3 (BitVec.ofNat 64 (0x200 + f.dt.toNat))) s.me.at_))

/-- The D slot. DRD rounds a part of a tile row once into the enabled lanes of a vector register 8 cycles later; DSGD
and DMOM apply the update rule with its two rounding points to them 10 cycles later. DPUB sets the version of a
version word of the sync page that is below the new one. A tile that the context does not own traps with ACCF. A NaR cell,
step or factor, or a NaR or NaN stored value, gives NaR or the canonical NaN with NARF; an infinite stored value stays
infinite, and is invalid under a zero factor. A stored value that is a signalling NaN sets NV, which is the model's reading (log 20). -/
def Obligations.UpdateInstructions : Prop :=
  ∀ (g : Guard) (s : State),
    (∀ (f : FmtA) (w lo : Nat) (nf : NumFmt) (cell : Nat → Quire) (x st : Nat → Val), w = fmtWidth f.fmt → nf = fmtOf f.fmt →
      isTap f.fmt = true ∨ isIeee f.fmt = true ∨ isInt f.fmt = true →
      lo = 16 * (f.aux.toNat / 8) → lo + 16 ≤ 1024 / w →
      (∀ d, cell d = s.here.cell (f.aux.toNat % 8) (16 * f.sub.toNat + (d - lo))) →
      (∀ d, x d = decodeVal nf (laneAt w (s.me.vr f.opa.toNat) d)) →
      (∀ h, st h = decodeVal t32e2 ((s.me.x f.opb.toNat).toNat / 2 ^ (32 * h) % 2 ^ 32)) →
      Owns s true (f.aux.toNat % 8) →
      (Goes (.drd g f) g s → ∃ fl, WritesLanes (.drd g f) s 8 f.dst.toNat w
        (fun d => lo ≤ d ∧ d < lo + 16 ∧ Enabled s f w d) (fun d u => u = (readQuire nf (cell d)).1 % 2 ^ w) fl) ∧
      (∀ e ∈ [(Instr.dsgd, Val.real Q.one), (Instr.dmom, st 1)], Goes (e.1 g f) g s → isInt f.fmt = false →
        ∃ fl, WritesLanes (e.1 g f) s 10 f.dst.toNat w (fun d => lo ≤ d ∧ d < lo + 16 ∧ Enabled s f w d)
          (fun d u => (∀ b p m c, e.2 = .real b → x d = .real p → st 0 = .real m → (cell d).nar = false →
              decodeVal t32e2 (roundVal t32e2 (.real (Q.mk' (cell d).val.toInt (2 ^ 240)))).1 = .real c →
              (b.mul p).isZero = false → u = (roundVal nf (.real ((b.mul p).add (m.mul c)))).1 % 2 ^ w) ∧
            (x d = .nar ∨ (x d).isNan = true ∨ e.2 = .nar ∨ st 0 = .nar ∨ (cell d).nar = true →
              u = if isTap f.fmt then 2 ^ (w - 1) else canonOf nf) ∧
            (∀ b z, e.2 = .real b → x d = .inf z → st 0 ≠ .nar → (cell d).nar = false →
              u = if b.isZero then canonOf nf else (roundVal nf (.inf (xor b.isNeg z))).1) ∧
            (∀ b m c, e.2 = .real b → (x d).isZero = true ∨ (b.isZero = true ∧ ∃ p, x d = .real p) → st 0 = .real m →
              (cell d).nar = false →
              decodeVal t32e2 (roundVal t32e2 (.real (Q.mk' (cell d).val.toInt (2 ^ 240)))).1 = .real c →
              u = (roundVal nf (.real (m.mul c))).1 % 2 ^ w)) fl ∧
          ((∃ d, lo ≤ d ∧ d < lo + 16 ∧ Enabled s f w d ∧ (x d = .nar ∨ (x d).isNan = true ∨ e.2 = .nar ∨ st 0 = .nar ∨
            (cell d).nar = true)) → fl &&& Flags.narf = Flags.narf) ∧
          ((∃ b d, lo ≤ d ∧ d < lo + 16 ∧ Enabled s f w d ∧ e.2 = .real b ∧ b.isZero = true ∧ (x d).isInf = true ∧
            st 0 ≠ .nar ∧ (cell d).nar = false) → fl &&& Flags.nv = Flags.nv) ∧
          ((∃ d, lo ≤ d ∧ d < lo + 16 ∧ Enabled s f w d ∧ x d = .nan true) → fl &&& Flags.nv = Flags.nv))) ∧
    (∀ f : FmtA, ∀ i ∈ [Instr.drd, .dsgd, .dmom], ¬Owns s true (f.aux.toNat % 8) → Goes (i g f) g s →
      s.iss.checked = false →
      exec (i g f) s = .next (s.takeTrap s.cur (Trap.plain 3 (BitVec.ofNat 64 (0x100 + f.aux.toNat % 8))) s.me.at_)) ∧
    (∀ (f : FmtL) (a w v : Word) (n : Nat), f.sz = 3 →
      a = s.me.a f.base.toNat + s.me.x f.idx.toNat + BitVec.ofInt 64 (f.off.toInt * 8) → a.toNat = 0x1FF000 + 8 * n →
      n < 512 → w = s.here.syncWord n → v = s.me.x f.dt.toNat → Goes (.dpub g f) g s → swKind w = 2 →
      (w.toNat % 2 ^ 48 < v.toNat % 2 ^ 48 → s.releaseBlocked s.cur (s.syncRef s.cur.core n) none = false →
        ∃ t, exec (.dpub g f) s = .next t ∧
          (t.here.syncWord n).toNat = w.toNat - w.toNat % 2 ^ 48 + v.toNat % 2 ^ 48 ∧
          (∀ k m, (k ≠ s.cur.core ∨ m ≠ n) → (t.core k).syncWord m = (s.core k).syncWord m) ∧ ContextsKept s t ∧
          (∀ k, (t.core k).scratch = (s.core k).scratch) ∧ t.clusters = s.clusters ∧ t.mem = s.mem) ∧
      (v.toNat % 2 ^ 48 ≤ w.toNat % 2 ^ 48 → s.iss.checked = false →
        exec (.dpub g f) s = .next (s.takeTrap s.cur (Trap.plain 5 a) s.me.at_)))

/-- What lands in the units. A due slot image replaces its slot, a due row set the cells of those rows, and every other
slot and cell stays; a due image is handed to port 2, which stores its bytes in scratchpad data. Array results that are due leave the line, and each cell
of their tile takes the sum of their products as it then stands: under profile 0 real products that are multiples of 2^−240
leave their exact sum, a special A element leaves NaR, and a cell in the NaR state stays; an MLUT product is the
activation with the sign of its weight bit. -/
def Obligations.UnitResultsLand : Prop :=
  (∀ (g : Guard) (f : FmtM) (i : Instr) (a b : BitVec 12800) (row col len w v : Nat) (c : Quire) (x y : Nat → Val) (ns : List Int),
    w = fmtWidth f.fmta → v = fmtWidth f.fmtb → ns.length = len →
    (i = .mma g f ∧ f.prof = 0 ∧ len = passOf f ∧
      (∀ k, x k = elemVal f.fmta (codeUnsigned f.fmta) (a.extractLsb' (768 * row + w * k) w).toNat) ∧
      (∀ k, y k = if f.fmtb = 0x21 then btRowElem b col (32 * (f.mx.toNat % 4) + k)
        else elemVal f.fmtb (codeUnsigned f.fmtb) (b.extractLsb' (768 * col + v * (32 * (f.mx.toNat % 4) + k)) v).toNat)) ∨
    (i = .mmai g f ∧ isInt f.fmta = true ∧ (isInt f.fmtb = true ∨ f.fmtb = 0x23) ∧ len = passOf f ∧
      (∀ k, x k = decodeVal (.int w (!f.sga)) (a.extractLsb' (768 * row + w * k) w).toNat) ∧
      (∀ k, y k = decodeVal (.int v (!f.sgb)) (b.extractLsb' (768 * col + v * (32 * (f.mx.toNat % 4) + k)) v).toNat)) ∨
    (i = .mlut g f ∧ len = (if f.klen = 0 then 96 else f.klen.toNat) ∧
      (∀ k, x k = elemVal f.fmta (codeUnsigned f.fmta) (a.extractLsb' (768 * row + 8 * k) 8).toNat) ∧
      (∀ k, y k = .real (if b.getLsbD (768 * col + 96 * (f.mx.toNat % 8) + k) then Q.one else Q.one.neg))) →
    (c.nar = true → (arrayCell i a b row col c).1 = c) ∧
    (c.nar = false → (∀ k, k < len → ∃ p q : Q, x k = .real p ∧ y k = .real q ∧ p.mul q = Q.mk' (ns.getD k 0) (2 ^ 240)) →
      (ns.map Int.natAbs).sum + c.val.toInt.natAbs < 2 ^ 511 →
      (arrayCell i a b row col c).1.nar = false ∧ (arrayCell i a b row col c).1.val.toInt = c.val.toInt + ns.sum) ∧
    (c.nar = false → (∃ k, k < len ∧ (x k).real? = none) → (arrayCell i a b row col c).1.nar = true)) ∧
  ∀ (s : State) (r : CtxRef) (p : Pending),
    ((s.ctx r).curLine = [p] → p.due ≤ (s.ctx r).clock → p.eff.isArray = false →
      ∃ t, exec (.resultLanding r) s = .next t ∧
        (∀ n img, p.eff = .slot n img → ∀ k m, (t.core k).slotImg m =
          if k = r.core ∧ m = n then img else (s.core k).slotImg m) ∧
        (∀ n rows cells, p.eff = .tile n rows cells → ∀ m c, m < 8 → n < 8 → c < 256 → (t.core r.core).cell m c =
          if m = n ∧ rows.getLsbD (c / 16) = true then Sparse.get Quire.zero cells c else (s.core r.core).cell m c) ∧
        (∀ a bs, p.eff = .store a bs → (t.ctx r).port2 = (s.ctx r).port2 ++ [((s.ctx r).mode, a, bs)] ∧
          BytesKept s t 0 (fun _ => False) ∧ UnitsKept s t ∧ RegistersKept (s.ctx r) (t.ctx r) (fun _ _ => False))) ∧
    (∀ a bs, (s.ctx r).port2 = [((s.ctx r).mode, a, bs)] → a + bs.length ≤ scratchEnd →
      (∀ b, a ≤ b → b < a + bs.length → s.localRelief r.core b = 0) →
      ((s.drainPort r).ctx r).port2 = [] ∧ (s.drainPort r).localRead r.core a bs.length = bs ∧
        BytesKept s (s.drainPort r) r.core (StoredBytes a bs.length) ∧ UnitsKept s (s.drainPort r)) ∧
    (∃ t, exec (.arrayResultLanding r) s = .next t ∧
      (t.ctx r).line = (s.ctx r).line.filter (fun q => decide ((s.ctx r).ccyc < q.due) || !q.eff.isArray) ∧
      (∀ w a b i, (s.ctx r).line = [p] → p.due ≤ (s.ctx r).ccyc → p.eff = .array w a b → decodeWord w = .ok i →
        (∀ m c, m < 8 → c < 256 → (t.core r.core).cell m c = if m = arrayTile i
          then (arrayCell i a b (c / 16) (c % 16) ((s.core r.core).cell m c)).1 else (s.core r.core).cell m c) ∧
        RegistersKept (s.ctx r) (t.ctx r) (fun _ _ => False) ∧ BytesKept s t 0 (fun _ => False)))

/-! ### Class K (R239 to R247, R251, R316) -/

/-- A command of the K slot that finds its share and no stopped command on its channel, its record aligned in owned
scratchpad data, and a free place, enters its channel's queue with what it holds from issue on: TO, FROM, CNT, the bytes of
its record and the nest registers of a KCPN. A share of zero traps with ACCF, a stopped command on the channel with CPYF, its cause, channel and address in TCAUSE and
TADDR, which ends a refused one, and a full queue blocks the group. KDRAIN goes
on once the queue is empty; KRES continues the stopped command and KRES.DROP discards it, which cancels
the formed collective that it is a party of, unless its last plane has landed everywhere. -/
def Obligations.ChannelCommands : Prop :=
  ∀ (g : Guard) (f : FmtK) (s : State) (share : Nat) (queue : List Cmd), share = Sparse.get 0 s.me.shares f.ch.toNat →
    queue = s.chanCmds s.cur f.ch.toNat →
    (∀ i n, (i, n) ∈ [(Instr.kcp, 0), (.kcpOpimg, 0), (.kcpn, 0), (.kenc, 0), (.krec, 0), (.kseal, 0), (.ksealUnseal, 0),
        (.ktab, 0), (.kcan, 0), (.ktsk, 0), (.kcpv, 32), (.ktr, 32), (.gstep, 32), (.gmask, 32), (.knmc, 128),
        (.kcol, 128)] → (i g f).wfWord = true → Goes (i g f) g s →
      (queue.length < share → (∀ k ∈ queue, k.isStopped = false) → (∀ k ∈ s.cmds, k.id ≠ s.nextId) →
        (n ≠ 0 → (s.me.a f.lrec.toNat).toNat % 32 = 0 ∧ OwnScratch s (s.me.a f.lrec.toNat).toNat n) →
        ∃ t k, exec (i g f) s = .next t ∧ t.cmds = s.cmds ++ [k] ∧ k.id = s.nextId ∧ t.nextId = s.nextId + 1 ∧
          k.ctx = some s.cur ∧ k.tenant = s.tenantOf s.cur ∧ k.chan = f.ch.toNat ∧ k.instr = some (i g f) ∧
          k.tgt = (s.me.a f.tgt.toNat).toNat ∧ k.frm = (s.me.a f.frm.toNat).toNat ∧ k.cnt = (s.me.x f.cnt.toNat).toNat ∧
          k.record = s.here.read (s.me.a f.lrec.toNat).toNat n ∧ k.state = .queued ∧ k.done = 0 ∧
          (i g f = .kcpn g f → ∀ j, j < 10 → k.nest[j]? = some (s.me.a (f.kx.toNat % 32 + j))) ∧
          ContextsKept s t ∧ UnitsKept s t ∧ BytesKept s t 0 (fun _ => False)) ∧
      (s.iss.checked = false → share = 0 → exec (i g f) s =
        .next (s.takeTrap s.cur (Trap.plain 3 (BitVec.ofNat 64 (0x300 + f.ch.toNat))) s.me.at_)) ∧
      (s.iss.checked = false → n = 0 → share ≠ 0 → share ≤ queue.length → (∀ k ∈ queue, k.isStopped = false) →
        NoGate s → exec (i g f) s = .next (s.setMe fun c => { c with blocked := some false }))) ∧
    (∀ i ∈ [Instr.kcp, .kcpOpimg, .kcpn, .kenc, .krec, .kseal, .ksealUnseal, .ktab, .kcan, .ktsk, .kcpv, .ktr, .gstep, .gmask,
        .knmc, .kcol, .kdrain], Goes (i g f) g s → s.iss.checked = false → share ≠ 0 →
      ∀ k c a, queue.find? Cmd.isStopped = some k → k.state = .stopped c a → ∃ t, exec (i g f) s = .next t ∧
        t = s.takeTrap s.cur { cause := 7, ccause := c.code, tsub := c.sub, chan := f.ch.toNat, code := 0, addr := BitVec.ofNat 64 a }
          s.me.at_ ∧
        (s.me.mode = .program → 8 ≤ (s.svec s.cur).toNat → c.sub < 16 → (t.ctx s.cur).mode = .supervisor ∧
          (t.ctx s.cur).epc = s.me.at_ ∧ (t.ctx s.cur).taddr.toNat = a % 2 ^ 64 ∧
          (t.ctx s.cur).tcause.toNat = 7 + 2 ^ 8 * c.code + 2 ^ 16 * c.sub + 2 ^ 20 * f.ch.toNat) ∧
        (c = .refused → ∀ x ∈ t.cmds, x.id ≠ k.id)) ∧
    (Goes (.kdrain g f) g s → share ≠ 0 →
      (queue = [] → exec (.kdrain g f) s = .next s) ∧
      (s.iss.checked = false → queue ≠ [] → (∀ k ∈ queue, k.isStopped = false) → NoGate s →
        exec (.kdrain g f) s = .next (s.setMe fun c => { c with blocked := some false }))) ∧
    (∀ i ∈ [Instr.kres, .kresDrop], Goes (i g f) g s → share ≠ 0 → (∀ k ∈ queue, k.isStopped = false) →
      exec (i g f) s = .next s) ∧
    (∀ k : Cmd, share ≠ 0 → queue.find? Cmd.isStopped = some k →
      (Goes (.kres g f) g s → ∃ t u, exec (.kres g f) s = .next t ∧ (u = k.since ∨ u = s.fabric) ∧
        t.cmds = s.cmds.map (fun c => if c.id = k.id then { k with state := t.stateOf k.id, since := u } else c) ∧ (t.stateOf k.id = .running ∨ t.stateOf k.id = .queued) ∧
        ContextsKept s t ∧ UnitsKept s t ∧ BytesKept s t 0 (fun _ => False)) ∧
      (Goes (.kresDrop g f) g s → ∃ t, exec (.kresDrop g f) s = .next t ∧
        t.cmds = s.cmds.filter (fun c => c.id != k.id) ∧
        (∀ c ∈ s.colls, c.formed = true → c.beyondCancel = false → (∀ d ∈ s.colls, d.id = c.id → d = c) →
          (∃ p ∈ c.parties, p.cmd = k.id) → ∃ d ∈ t.colls, d.id = c.id ∧ d.cancel = true) ∧
        ((∀ c ∈ s.colls, ∀ p ∈ c.parties, p.cmd ≠ k.id) → UnitsKept s t ∧ BytesKept s t 0 (fun _ => False) ∧
          ∀ r, RegistersKept (s.ctx r) (t.ctx r) (fun _ _ => False))))
end

