-- ==== Sys2Proof/Laws/Sparse.lean ====
section
/-! SUPPORT. Sparse tables: reading after writing, and the canonical form that writing keeps. -/
namespace Sys2Proof.Machine

namespace Sparse
variable {α : Type} {d : α} {m : Sparse α} {n l : Nat} {x : α}

theorem get_erase_same : Sparse.get d (Sparse.erase m n) n = d := by
  induction m with
  | nil => rfl
  | cons e m ih =>
    obtain ⟨k, v⟩ := e
    by_cases h : k = n <;> simp [Sparse.erase, Sparse.get, h, ih]

theorem get_erase_other (h : l ≠ n) : Sparse.get d (Sparse.erase m n) l = Sparse.get d m l := by
  induction m with
  | nil => rfl
  | cons e m ih =>
    obtain ⟨k, v⟩ := e
    by_cases hk : k = n
    · subst hk; simp [Sparse.erase, Sparse.get, ih, Ne.symm h]
    · simp [Sparse.erase, Sparse.get, hk, ih]

theorem get_insert_other (h : l ≠ n) : Sparse.get d (Sparse.insert m n x) l = Sparse.get d m l := by
  induction m with
  | nil => simp [Sparse.insert, Sparse.get, Ne.symm h]
  | cons e m ih =>
    obtain ⟨k, v⟩ := e
    by_cases hk : n < k <;> simp [Sparse.insert, Sparse.get, hk, ih, Ne.symm h]

/-- An inserted key that was not listed reads as its value. -/
theorem get_insert_same (h : ∀ e ∈ m, e.1 ≠ n) : Sparse.get d (Sparse.insert m n x) n = x := by
  induction m with
  | nil => simp [Sparse.insert, Sparse.get]
  | cons e m ih =>
    obtain ⟨k, v⟩ := e
    have hk : k ≠ n := h (k, v) (by simp)
    by_cases hl : n < k
    · simp [Sparse.insert, Sparse.get, hl]
    · simp [Sparse.insert, Sparse.get, hl, hk, ih fun e he => h e (by simp [he])]

theorem erase_keys : ∀ e ∈ Sparse.erase m n, e.1 ≠ n := by
  induction m with
  | nil => simp [Sparse.erase]
  | cons e m ih =>
    obtain ⟨k, v⟩ := e
    by_cases hk : k = n
    · simpa [Sparse.erase, hk] using ih
    · simp only [Sparse.erase, hk, if_false, List.mem_cons, forall_eq_or_imp]
      exact ⟨hk, ih⟩

theorem get_put_same : Sparse.get d (Sparse.put m n x) n = x := get_insert_same erase_keys

theorem get_put_other (h : l ≠ n) : Sparse.get d (Sparse.put m n x) l = Sparse.get d m l := by
  rw [Sparse.put, get_insert_other h, get_erase_other h]

theorem get_put : Sparse.get d (Sparse.put m n x) l = if l = n then x else Sparse.get d m l := by
  by_cases h : l = n
  · subst h; simp [get_put_same]
  · simp [h, get_put_other h]

theorem get_set [DecidableEq α] : Sparse.get d (Sparse.set d m n x) l = if l = n then x else Sparse.get d m l := by
  unfold Sparse.set
  by_cases hx : x = d
  · by_cases h : l = n
    · subst h; simp [hx, get_erase_same]
    · simp [hx, h, get_erase_other h]
  · by_cases h : l = n
    · subst h; simp [hx, get_insert_same erase_keys]
    · simp [hx, h, get_insert_other h, get_erase_other h]

/-! ### The canonical form -/

/-- Every key lies above a bound. -/
def Above (b : Nat) (m : Sparse α) : Prop := ∀ e ∈ m, b < e.1

theorem rising_cons {k : Nat} {v : α} : Sparse.rising ((k, v) :: m) = true ↔ Above k m ∧ Sparse.rising m = true := by
  induction m generalizing k v with
  | nil => simp [Sparse.rising, Above]
  | cons e m ih =>
    obtain ⟨j, w⟩ := e
    simp only [Sparse.rising, Bool.and_eq_true, decide_eq_true_eq, Above, List.mem_cons, forall_eq_or_imp]
    constructor
    · rintro ⟨hlt, hr⟩
      exact ⟨⟨hlt, fun e he => Nat.lt_trans hlt ((ih.mp hr).1 e he)⟩, hr⟩
    · rintro ⟨⟨hlt, -⟩, hr⟩
      exact ⟨hlt, hr⟩

theorem mem_erase {e : Nat × α} (h : e ∈ Sparse.erase m n) : e ∈ m := by
  induction m with
  | nil => simp [Sparse.erase] at h
  | cons f m ih =>
    obtain ⟨k, v⟩ := f
    by_cases hk : k = n
    · simp only [Sparse.erase, hk, if_true] at h; exact List.mem_cons_of_mem _ (ih h)
    · simp only [Sparse.erase, hk, if_false, List.mem_cons] at h
      rcases h with h | h
      · simp [h]
      · exact List.mem_cons_of_mem _ (ih h)

theorem mem_insert {e : Nat × α} (h : e ∈ Sparse.insert m n x) : e = (n, x) ∨ e ∈ m := by
  induction m with
  | nil => simpa [Sparse.insert] using h
  | cons f m ih =>
    obtain ⟨k, v⟩ := f
    by_cases hk : n < k
    · simpa [Sparse.insert, hk] using h
    · simp only [Sparse.insert, hk, if_false, List.mem_cons] at h
      rcases h with h | h
      · simp [h]
      · rcases ih h with h | h
        · exact .inl h
        · exact .inr (List.mem_cons_of_mem _ h)

theorem rising_erase (h : Sparse.rising m = true) : Sparse.rising (Sparse.erase m n) = true := by
  induction m with
  | nil => rfl
  | cons f m ih =>
    obtain ⟨k, v⟩ := f
    rw [rising_cons] at h
    by_cases hk : k = n
    · simpa [Sparse.erase, hk] using ih h.2
    · simp only [Sparse.erase, hk, if_false, rising_cons]
      exact ⟨fun e he => h.1 e (mem_erase he), ih h.2⟩

theorem rising_insert (h : Sparse.rising m = true) (hn : ∀ e ∈ m, e.1 ≠ n) :
    Sparse.rising (Sparse.insert m n x) = true := by
  induction m with
  | nil => rfl
  | cons f m ih =>
    obtain ⟨k, v⟩ := f
    rw [rising_cons] at h
    have hk : k ≠ n := hn (k, v) (by simp)
    by_cases hl : n < k
    · simp only [Sparse.insert, hl, if_true, rising_cons]
      refine ⟨fun e he => ?_, h⟩
      rcases List.mem_cons.mp he with rfl | he
      · exact hl
      · exact Nat.lt_trans hl (h.1 e he)
    · simp only [Sparse.insert, hl, if_false, rising_cons]
      refine ⟨fun e he => ?_, ih h.2 fun e he => hn e (by simp [he])⟩
      rcases mem_insert he with rfl | he
      · show k < n
        omega
      · exact h.1 e he

theorem rising_filter (p : Nat × α → Bool) (h : Sparse.rising m = true) : Sparse.rising (m.filter p) = true := by
  induction m with
  | nil => rfl
  | cons f m ih =>
    obtain ⟨k, v⟩ := f
    rw [rising_cons] at h
    by_cases hp : p (k, v) = true
    · simp only [List.filter_cons, hp, if_true, rising_cons]
      exact ⟨fun e he => h.1 e (List.mem_filter.mp he).1, ih h.2⟩
    · simp only [List.filter_cons, hp]; exact ih h.2

variable [DecidableEq α]

theorem wf_iff : Sparse.wf d m = true ↔ Sparse.rising m = true ∧ ∀ e ∈ m, e.2 ≠ d := by
  simp [Sparse.wf, List.all_eq_true]

theorem wf_nil : Sparse.wf d ([] : Sparse α) = true := by simp [Sparse.wf, Sparse.rising]

theorem wf_set (h : Sparse.wf d m = true) : Sparse.wf d (Sparse.set d m n x) = true := by
  rw [wf_iff] at h ⊢
  unfold Sparse.set
  by_cases hx : x = d
  · simp only [hx, if_true]
    exact ⟨rising_erase h.1, fun e he => h.2 e (mem_erase he)⟩
  · simp only [hx, if_false]
    refine ⟨rising_insert (rising_erase h.1) erase_keys, fun e he => ?_⟩
    rcases mem_insert he with rfl | he
    · exact hx
    · exact h.2 e (mem_erase he)

theorem wf_filter (p : Nat × α → Bool) (h : Sparse.wf d m = true) : Sparse.wf d (m.filter p) = true := by
  rw [wf_iff] at h ⊢
  exact ⟨rising_filter p h.1, fun e he => h.2 e (List.mem_filter.mp he).1⟩

end Sparse
end Sys2Proof.Machine
end

