-- ==== Sys2Proof/Laws/Memory.lean ====
section
/-! SUPPORT. Memory: what a byte reads as after each memory operation, and the canonical form that each keeps. -/
namespace Sys2Proof.Machine

theorem Memory.read_write (m : Memory) (a b : Nat) (v : Byte) :
    (m.write a v).read b = if b = a then v else m.read b := Sparse.get_set

/-- A store leaves every byte outside the stored ones. -/
theorem Memory.read_store_outside {bs : List Byte} {m : Memory} {a b : Nat} (h : b < a ∨ a + bs.length ≤ b) :
    (m.store a bs).read b = m.read b := by
  induction bs generalizing m a with
  | nil => rfl
  | cons v bs ih =>
    simp only [List.length_cons] at h
    rw [Memory.store, ih (by omega), Memory.read_write, if_neg (by omega)]

/-- A stored byte reads as what was stored. -/
theorem Memory.read_store_inside {bs : List Byte} {m : Memory} {a k : Nat} (h : k < bs.length) :
    (m.store a bs).read (a + k) = bs[k] := by
  induction bs generalizing m a k with
  | nil => simp at h
  | cons v bs ih =>
    cases k with
    | zero => simp [Memory.store, Memory.read_store_outside, Memory.read_write]
    | succ k =>
      simp only [List.length_cons, Nat.add_lt_add_iff_right] at h
      simpa [Memory.store, Nat.add_assoc, Nat.add_comm 1 k] using ih (m := m.write a v) (a := a + 1) h

theorem Memory.read_storeMasked_outside {bs : List Byte} {m : Memory} {a b we : Nat}
    (h : b < a ∨ a + bs.length ≤ b) : (m.storeMasked a we bs).read b = m.read b := by
  induction bs generalizing m a we with
  | nil => rfl
  | cons v bs ih =>
    simp only [List.length_cons] at h
    rw [Memory.storeMasked, ih (by omega)]
    split
    · rw [Memory.read_write, if_neg (by omega)]
    · rfl

/-- A byte of a masked store: the new byte where its enable is 1, the old byte where it is 0. -/
theorem Memory.read_storeMasked_inside {bs : List Byte} {m : Memory} {a k we : Nat} (h : k < bs.length) :
    (m.storeMasked a we bs).read (a + k) = if we.testBit k then bs[k] else m.read (a + k) := by
  induction bs generalizing m a k we with
  | nil => simp at h
  | cons v bs ih =>
    cases k with
    | zero =>
      rw [Memory.storeMasked, Memory.read_storeMasked_outside (by omega)]
      simp only [Nat.add_zero, Nat.testBit_zero, List.getElem_cons_zero]
      by_cases hw : we % 2 = 1 <;> simp [hw, Memory.read_write]
    | succ k =>
      simp only [List.length_cons, Nat.add_lt_add_iff_right] at h
      have e : a + (k + 1) = a + 1 + k := by omega
      rw [Memory.storeMasked, e, ih h, Nat.testBit_succ]
      by_cases hw : (we / 2).testBit k
      · simp [hw]
      · simp only [hw, Bool.false_eq_true, if_false]
        by_cases h2 : (we % 2 == 1) = true <;> simp [h2, Memory.read_write, show a + 1 + k ≠ a by omega]

theorem Memory.read_clear (m : Memory) (lo hi a : Nat) :
    (m.clear lo hi).read a = if lo ≤ a ∧ a < hi then Memory.blank else m.read a := by
  unfold Memory.clear Memory.read
  induction m with
  | nil => simp [Sparse.get]
  | cons e m ih =>
    obtain ⟨k, v⟩ := e
    by_cases hk : k = a
    · subst hk
      by_cases hin : lo ≤ k ∧ k < hi
      · have : (decide (k < lo) || decide (hi ≤ k)) = false := by simp; omega
        simp only [List.filter_cons, this, Bool.false_eq_true, if_false, ih, hin, and_self, if_true]
      · have : (decide (k < lo) || decide (hi ≤ k)) = true := by simp; omega
        simp only [List.filter_cons, this, if_true, Sparse.get, hin, if_false]
    · simp only [List.filter_cons]
      split <;> simp [Sparse.get, hk, ih]

/-! ### The canonical form -/

theorem Memory.wf_write {m : Memory} (h : m.wf = true) (a : Nat) (v : Byte) : (m.write a v).wf = true :=
  Sparse.wf_set h
theorem Memory.wf_store {bs : List Byte} {m : Memory} (h : m.wf = true) (a : Nat) : (m.store a bs).wf = true := by
  induction bs generalizing m a with
  | nil => exact h
  | cons v bs ih => exact ih (Memory.wf_write h a v) _
theorem Memory.wf_storeMasked {bs : List Byte} {m : Memory} (h : m.wf = true) (a we : Nat) :
    (m.storeMasked a we bs).wf = true := by
  induction bs generalizing m a we with
  | nil => exact h
  | cons v bs ih =>
    rw [Memory.storeMasked]
    split
    · exact ih (Memory.wf_write h a v) _ _
    · exact ih h _ _
theorem Memory.wf_clear {m : Memory} (h : m.wf = true) (lo hi : Nat) : (m.clear lo hi).wf = true := Sparse.wf_filter _ h
theorem Memory.wf_nil : Memory.wf [] = true := Sparse.wf_nil
theorem State.reset_mem_wf : State.reset.mem.wf = true := Sparse.wf_nil

end Sys2Proof.Machine
end

