-- ==== Sys2Proof/Laws/Canonical.lean ====
section
/-! SUPPORT. The canonical form of every memory of a state: it depends on three parts of the state only, and each operation
that writes one of them keeps it. -/
namespace Sys2Proof.Machine
variable {s t : State}

/-- A step that leaves global memory, the cores and the clusters keeps the form. -/
theorem State.Canonical.of_eq (h : s.Canonical) (hm : t.mem = s.mem) (hk : t.cores = s.cores)
    (hc : t.clusters = s.clusters) : t.Canonical := by
  simpa [State.Canonical, State.core, State.cluster, hm, hk, hc] using h

theorem State.Canonical.with_mem {m : Memory} (h : s.Canonical) (hm : m.wf = true) :
    ({ s with mem := m } : State).Canonical := ⟨hm, h.2⟩

theorem State.Canonical.setCore {k : Core} (h : s.Canonical) (n : Nat) (hk : k.scratch.wf = true) :
    (s.setCore n k).Canonical := by
  refine ⟨h.1, fun m => ?_, h.2.2⟩
  rw [State.core, State.setCore, Sparse.get_put]
  split
  · exact hk
  · exact h.2.1 m

theorem State.Canonical.modCore {f : Core → Core} (h : s.Canonical) (n : Nat)
    (hf : (f (s.core n)).scratch.wf = true) : (s.modCore n f).Canonical := h.setCore n hf

theorem State.Canonical.setCluster {k : Cluster} (h : s.Canonical) (n : Nat) (hk : k.sram.wf = true) :
    (s.setCluster n k).Canonical := by
  refine ⟨h.1, h.2.1, fun m => ?_⟩
  rw [State.cluster, State.setCluster, Sparse.get_put]
  split
  · exact hk
  · exact h.2.2 m

/-- A change of contexts alone keeps the form. -/
theorem State.Canonical.modCtx {f : Ctx → Ctx} (h : s.Canonical) (r : CtxRef) : (s.modCtx r f).Canonical :=
  h.setCore _ (h.2.1 _)

theorem State.Canonical.localStore (h : s.Canonical) (core a we : Nat) (bs : List Byte) :
    (s.localStore core a we bs).Canonical := by
  unfold State.localStore
  split
  · exact h.setCluster _ (Memory.wf_storeMasked (h.2.2 _) _ _)
  · exact h.modCore _ (Memory.wf_storeMasked (h.2.1 _) _ _)

theorem State.Canonical.storeAt (h : s.Canonical) (l : Loc) (bs : List Byte) : (s.storeAt l bs).Canonical := by
  cases l with
  | loc core a => exact h.localStore core a _ bs
  | phys pa => exact h.with_mem (Memory.wf_store h.1 _)

theorem State.Canonical.setLocalRelief (h : s.Canonical) (core a st : Nat) : (s.setLocalRelief core a st).Canonical := by
  unfold State.setLocalRelief
  split
  · exact h.setCluster _ (h.2.2 _)
  · exact h.modCore _ (h.2.1 _)

theorem State.reset_canonical : State.reset.Canonical :=
  ⟨State.reset_mem_wf, fun n => by simp [State.core, State.reset, Sparse.get, Core.reset, Memory.wf_nil],
    fun n => by simp [State.cluster, State.reset, Sparse.get, Cluster.reset, Memory.wf_nil]⟩

end Sys2Proof.Machine
end

