-- ==== Sys2Proof/Laws/Encoding.lean ====
section
/-! SUPPORT. The formats and the common fields of a word are read back from their bits, and the bits from the fields. -/
namespace Sys2Proof

theorem ofBool_append_eq {w : Nat} (n : Nat) (x : BitVec w) :
    BitVec.ofBool (x.getLsbD n) ++ x.extractLsb' 0 n = x.extractLsb' 0 (1 + n) := by
  apply BitVec.eq_of_getLsbD_eq
  intro i hi
  rw [BitVec.getLsbD_append]
  simp only [BitVec.getLsbD_extractLsb', Nat.zero_add, hi, decide_true, Bool.true_and]
  by_cases h : i < n
  · simp [h]
  · have e : i = n := by omega
    subst e; simp

/-! ### Fields of bits -/

theorem FmtA.ofBits_bits (f : FmtA) : FmtA.ofBits f.bits = f := by
  obtain ⟨a, b, c, d, e, g, h, k, l, m⟩ := f
  simp only [FmtA.bits, FmtA.ofBits, FmtA.mk.injEq]
  refine ⟨?_, ?_, ?_, ?_, ?_, ?_, ?_, ?_, ?_, ?_⟩
  all_goals first
    | (apply BitVec.eq_of_getLsbD_eq
       intro i hi
       simp only [BitVec.getLsbD_extractLsb', BitVec.getLsbD_append, hi, decide_true, Bool.true_and]
       repeat (first | rw [if_pos (by omega)] | rw [if_neg (by omega)])
       congr 1; omega)
    | (simp only [BitVec.getLsbD_append]
       repeat (first | rw [if_pos (by omega)] | rw [if_neg (by omega)])
       simp)
theorem FmtB.ofBits_bits (f : FmtB) : FmtB.ofBits f.bits = f := by
  obtain ⟨a, b, c⟩ := f
  simp only [FmtB.bits, FmtB.ofBits, FmtB.mk.injEq]
  refine ⟨?_, ?_, ?_⟩
  all_goals first
    | (apply BitVec.eq_of_getLsbD_eq
       intro i hi
       simp only [BitVec.getLsbD_extractLsb', BitVec.getLsbD_append, hi, decide_true, Bool.true_and]
       repeat (first | rw [if_pos (by omega)] | rw [if_neg (by omega)])
       congr 1; omega)
    | (simp only [BitVec.getLsbD_append]
       repeat (first | rw [if_pos (by omega)] | rw [if_neg (by omega)])
       simp)
theorem FmtJ.ofBits_bits (f : FmtJ) : FmtJ.ofBits f.bits = f := by
  obtain ⟨a, b, c, d⟩ := f
  simp only [FmtJ.bits, FmtJ.ofBits, FmtJ.mk.injEq]
  refine ⟨?_, ?_, ?_, ?_⟩
  all_goals first
    | (apply BitVec.eq_of_getLsbD_eq
       intro i hi
       simp only [BitVec.getLsbD_extractLsb', BitVec.getLsbD_append, hi, decide_true, Bool.true_and]
       repeat (first | rw [if_pos (by omega)] | rw [if_neg (by omega)])
       congr 1; omega)
    | (simp only [BitVec.getLsbD_append]
       repeat (first | rw [if_pos (by omega)] | rw [if_neg (by omega)])
       simp)
theorem FmtL.ofBits_bits (f : FmtL) : FmtL.ofBits f.bits = f := by
  obtain ⟨a, b, c, d, e, g, h⟩ := f
  simp only [FmtL.bits, FmtL.ofBits, FmtL.mk.injEq]
  refine ⟨?_, ?_, ?_, ?_, ?_, ?_, ?_⟩
  all_goals first
    | (apply BitVec.eq_of_getLsbD_eq
       intro i hi
       simp only [BitVec.getLsbD_extractLsb', BitVec.getLsbD_append, hi, decide_true, Bool.true_and]
       repeat (first | rw [if_pos (by omega)] | rw [if_neg (by omega)])
       congr 1; omega)
    | (simp only [BitVec.getLsbD_append]
       repeat (first | rw [if_pos (by omega)] | rw [if_neg (by omega)])
       simp)
theorem FmtK.ofBits_bits (f : FmtK) : FmtK.ofBits f.bits = f := by
  obtain ⟨a, b, c, d, e, g, h, k, l⟩ := f
  simp only [FmtK.bits, FmtK.ofBits, FmtK.mk.injEq]
  refine ⟨?_, ?_, ?_, ?_, ?_, ?_, ?_, ?_, ?_⟩
  all_goals first
    | (apply BitVec.eq_of_getLsbD_eq
       intro i hi
       simp only [BitVec.getLsbD_extractLsb', BitVec.getLsbD_append, hi, decide_true, Bool.true_and]
       repeat (first | rw [if_pos (by omega)] | rw [if_neg (by omega)])
       congr 1; omega)
    | (simp only [BitVec.getLsbD_append]
       repeat (first | rw [if_pos (by omega)] | rw [if_neg (by omega)])
       simp)
theorem FmtM.ofBits_bits (f : FmtM) : FmtM.ofBits f.bits = f := by
  obtain ⟨a, b, c, d, e, g, h, k, l, m⟩ := f
  simp only [FmtM.bits, FmtM.ofBits, FmtM.mk.injEq]
  refine ⟨?_, ?_, ?_, ?_, ?_, ?_, ?_, ?_, ?_, ?_⟩
  all_goals first
    | (apply BitVec.eq_of_getLsbD_eq
       intro i hi
       simp only [BitVec.getLsbD_extractLsb', BitVec.getLsbD_append, hi, decide_true, Bool.true_and]
       repeat (first | rw [if_pos (by omega)] | rw [if_neg (by omega)])
       congr 1; omega)
    | (simp only [BitVec.getLsbD_append]
       repeat (first | rw [if_pos (by omega)] | rw [if_neg (by omega)])
       simp)
theorem FmtW.ofBits_bits (f : FmtW) : FmtW.ofBits f.bits = f := by
  obtain ⟨a, b, c⟩ := f
  simp only [FmtW.bits, FmtW.ofBits, FmtW.mk.injEq]
  refine ⟨?_, ?_, ?_⟩
  all_goals first
    | (apply BitVec.eq_of_getLsbD_eq
       intro i hi
       simp only [BitVec.getLsbD_extractLsb', BitVec.getLsbD_append, hi, decide_true, Bool.true_and]
       repeat (first | rw [if_pos (by omega)] | rw [if_neg (by omega)])
       congr 1; omega)
    | (simp only [BitVec.getLsbD_append]
       repeat (first | rw [if_pos (by omega)] | rw [if_neg (by omega)])
       simp)
theorem Parts.ofWord_word (p : Parts) : Parts.ofWord p.word = p := by
  obtain ⟨s, c, o, ⟨pg, gn⟩, b⟩ := p
  simp only [Parts.word, Parts.ofWord, Parts.mk.injEq, Guard.mk.injEq]
  refine ⟨?_, ?_, ?_, ⟨?_, ?_⟩, ?_⟩
  all_goals first
    | (apply BitVec.eq_of_getLsbD_eq
       intro i hi
       simp only [BitVec.getLsbD_extractLsb', BitVec.getLsbD_append, hi, decide_true, Bool.true_and]
       repeat (first | rw [if_pos (by omega)] | rw [if_neg (by omega)])
       congr 1; omega)
    | (simp only [BitVec.getLsbD_append]
       repeat (first | rw [if_pos (by omega)] | rw [if_neg (by omega)])
       simp)

/-! ### Bits of fields -/

/-- Two neighbouring fields as one. -/
theorem join {w : Nat} (x : BitVec w) (k n m : Nat) (h : k = n) :
    x.extractLsb' k m ++ x.extractLsb' 0 n = x.extractLsb' 0 (m + n) := by
  rw [BitVec.extractLsb'_append_extractLsb'_eq_extractLsb' (by omega)]
theorem join_bit {w : Nat} (x : BitVec w) (k n : Nat) (h : k = n) :
    BitVec.ofBool (x.getLsbD k) ++ x.extractLsb' 0 n = x.extractLsb' 0 (1 + n) := by
  subst h; exact ofBool_append_eq _ _

theorem FmtA.bits_ofBits (b : BitVec 46) : (FmtA.ofBits b).bits = b := by
  simp only [FmtA.bits, FmtA.ofBits, join, join_bit]
  exact BitVec.extractLsb'_eq_self
theorem FmtB.bits_ofBits (b : BitVec 46) : (FmtB.ofBits b).bits = b := by
  simp only [FmtB.bits, FmtB.ofBits, join]
  exact BitVec.extractLsb'_eq_self
theorem FmtJ.bits_ofBits (b : BitVec 46) : (FmtJ.ofBits b).bits = b := by
  simp only [FmtJ.bits, FmtJ.ofBits, join]
  exact BitVec.extractLsb'_eq_self
theorem FmtL.bits_ofBits (b : BitVec 46) : (FmtL.ofBits b).bits = b := by
  simp only [FmtL.bits, FmtL.ofBits, join]
  exact BitVec.extractLsb'_eq_self
theorem FmtK.bits_ofBits (b : BitVec 46) : (FmtK.ofBits b).bits = b := by
  simp only [FmtK.bits, FmtK.ofBits, join, join_bit]
  exact BitVec.extractLsb'_eq_self
theorem FmtM.bits_ofBits (b : BitVec 46) : (FmtM.ofBits b).bits = b := by
  simp only [FmtM.bits, FmtM.ofBits, join, join_bit]
  exact BitVec.extractLsb'_eq_self
theorem FmtW.bits_ofBits (b : BitVec 46) : (FmtW.ofBits b).bits = b := by
  simp only [FmtW.bits, FmtW.ofBits, join, join_bit]
  exact BitVec.extractLsb'_eq_self
theorem Parts.word_ofWord (w : BitVec 64) : (Parts.ofWord w).word = w := by
  simp only [Parts.word, Parts.ofWord, join, join_bit]
  exact BitVec.extractLsb'_eq_self

/-! ### Words -/

theorem stopBit_word (p : Parts) : stopBit p.word = p.st := by
  unfold stopBit; rw [Parts.ofWord_word]
/-- A word made of parts that name an instruction whose fields pass decodes to it. -/
theorem decodeWord_word {p : Parts} {i : Instr} (hc : p.cl.toNat < 8) (hi : instrOf p.cl.toNat p.op.toNat p.g p.body = some i)
    (hf : i.wf = true) : decodeWord p.word = .ok i := by
  have hf : Machine.fieldsOk i = true := hf
  unfold decodeWord
  rw [Parts.ofWord_word]
  simp [decodeParts, Nat.not_le.mpr hc, hi, hf]
/-- What a word that decodes is made of. -/
theorem of_decodeWord {w : BitVec 64} {i : Instr} (h : decodeWord w = .ok i) :
    instrOf (Parts.ofWord w).cl.toNat (Parts.ofWord w).op.toNat (Parts.ofWord w).g (Parts.ofWord w).body = some i
      ∧ i.wf = true := by
  unfold decodeWord decodeParts at h
  split at h
  · simp at h
  · split at h
    · simp at h
    · rename_i j hj
      split at h
      · rename_i hf
        simp only [Decoded.ok.injEq] at h
        subst h
        exact ⟨hj, hf⟩
      · simp at h

end Sys2Proof
end

