-- ==== Sys2Proof/Laws/Exec.lean ====
section
/-! SUPPORT. What exec answers, arm by arm. -/
namespace Sys2Proof.Machine

@[simp] theorem exec_nop g f (s : State) : exec (.nop g f) s = execNop g f s := rfl
@[simp] theorem exec_br g f (s : State) : exec (.br g f) s = execBr g f s := rfl
@[simp] theorem exec_brc g f (s : State) : exec (.brc g f) s = execBrc g f s := rfl
@[simp] theorem exec_brm g f (s : State) : exec (.brm g f) s = execBrm g f s := rfl
@[simp] theorem exec_pbr g f (s : State) : exec (.pbr g f) s = execPbr g f s := rfl
@[simp] theorem exec_brt g f (s : State) : exec (.brt g f) s = execBrt g f s := rfl
@[simp] theorem exec_jtb g f (s : State) : exec (.jtb g f) s = execJtb g f s := rfl
@[simp] theorem exec_lpad g f (s : State) : exec (.lpad g f) s = execLpad g f s := rfl
@[simp] theorem exec_call g f (s : State) : exec (.call g f) s = execCall g f s := rfl
@[simp] theorem exec_ret g f (s : State) : exec (.ret g f) s = execRet g f s := rfl
@[simp] theorem exec_lseq g f (s : State) : exec (.lseq g f) s = execLseq g f s := rfl
@[simp] theorem exec_lbr g f (s : State) : exec (.lbr g f) s = execLbr g f s := rfl
@[simp] theorem exec_tfence g f (s : State) : exec (.tfence g f) s = execTfence g f s := rfl
@[simp] theorem exec_pmark g f (s : State) : exec (.pmark g f) s = execPmark g f s := rfl
@[simp] theorem exec_fence g f (s : State) : exec (.fence g f) s = execFence g f s := rfl
@[simp] theorem exec_yield g f (s : State) : exec (.yield g f) s = execYield g f s := rfl
@[simp] theorem exec_twait g f (s : State) : exec (.twait g f) s = execTwait g f s := rfl
@[simp] theorem exec_trap g f (s : State) : exec (.trap g f) s = execTrap g f s := rfl
@[simp] theorem exec_svc g f (s : State) : exec (.svc g f) s = execSvc g f s := rfl
@[simp] theorem exec_tend g f (s : State) : exec (.tend g f) s = execTend g f s := rfl
@[simp] theorem exec_add g f (s : State) : exec (.add g f) s = execAdd g f s := rfl
@[simp] theorem exec_sub g f (s : State) : exec (.sub g f) s = execSub g f s := rfl
@[simp] theorem exec_mul g f (s : State) : exec (.mul g f) s = execMul g f s := rfl
@[simp] theorem exec_mulh g f (s : State) : exec (.mulh g f) s = execMulh g f s := rfl
@[simp] theorem exec_div g f (s : State) : exec (.div g f) s = execDiv g f s := rfl
@[simp] theorem exec_rem g f (s : State) : exec (.rem g f) s = execRem g f s := rfl
@[simp] theorem exec_and g f (s : State) : exec (.and g f) s = execAnd g f s := rfl
@[simp] theorem exec_or g f (s : State) : exec (.or g f) s = execOr g f s := rfl
@[simp] theorem exec_xor g f (s : State) : exec (.xor g f) s = execXor g f s := rfl
@[simp] theorem exec_andn g f (s : State) : exec (.andn g f) s = execAndn g f s := rfl
@[simp] theorem exec_shl g f (s : State) : exec (.shl g f) s = execShl g f s := rfl
@[simp] theorem exec_shr g f (s : State) : exec (.shr g f) s = execShr g f s := rfl
@[simp] theorem exec_sra g f (s : State) : exec (.sra g f) s = execSra g f s := rfl
@[simp] theorem exec_rotl g f (s : State) : exec (.rotl g f) s = execRotl g f s := rfl
@[simp] theorem exec_clz g f (s : State) : exec (.clz g f) s = execClz g f s := rfl
@[simp] theorem exec_popc g f (s : State) : exec (.popc g f) s = execPopc g f s := rfl
@[simp] theorem exec_min g f (s : State) : exec (.min g f) s = execMin g f s := rfl
@[simp] theorem exec_max g f (s : State) : exec (.max g f) s = execMax g f s := rfl
@[simp] theorem exec_cmp g f (s : State) : exec (.cmp g f) s = execCmp g f s := rfl
@[simp] theorem exec_sel g f (s : State) : exec (.sel g f) s = execSel g f s := rfl
@[simp] theorem exec_pand g f (s : State) : exec (.pand g f) s = execPand g f s := rfl
@[simp] theorem exec_por g f (s : State) : exec (.por g f) s = execPor g f s := rfl
@[simp] theorem exec_pxor g f (s : State) : exec (.pxor g f) s = execPxor g f s := rfl
@[simp] theorem exec_pnot g f (s : State) : exec (.pnot g f) s = execPnot g f s := rfl
@[simp] theorem exec_mfs g f (s : State) : exec (.mfs g f) s = execMfs g f s := rfl
@[simp] theorem exec_mts g f (s : State) : exec (.mts g f) s = execMts g f s := rfl
@[simp] theorem exec_mtsSticky g f (s : State) : exec (.mtsSticky g f) s = execMtsSticky g f s := rfl
@[simp] theorem exec_mtsPend g f (s : State) : exec (.mtsPend g f) s = execMtsPend g f s := rfl
@[simp] theorem exec_regrelWrite g f (s : State) : exec (.regrelWrite g f) s = execRegrelWrite g f s := rfl
@[simp] theorem exec_tinvcStart g f (s : State) : exec (.tinvcStart g f) s = execTinvcStart g f s := rfl
@[simp] theorem exec_time g f (s : State) : exec (.time g f) s = execTime g f s := rfl
@[simp] theorem exec_lea g f (s : State) : exec (.lea g f) s = execLea g f s := rfl
@[simp] theorem exec_movi g f (s : State) : exec (.movi g f) s = execMovi g f s := rfl
@[simp] theorem exec_moviHi g f (s : State) : exec (.moviHi g f) s = execMoviHi g f s := rfl
@[simp] theorem exec_addi g f (s : State) : exec (.addi g f) s = execAddi g f s := rfl
@[simp] theorem exec_andi g f (s : State) : exec (.andi g f) s = execAndi g f s := rfl
@[simp] theorem exec_ori g f (s : State) : exec (.ori g f) s = execOri g f s := rfl
@[simp] theorem exec_xori g f (s : State) : exec (.xori g f) s = execXori g f s := rfl
@[simp] theorem exec_shli g f (s : State) : exec (.shli g f) s = execShli g f s := rfl
@[simp] theorem exec_shri g f (s : State) : exec (.shri g f) s = execShri g f s := rfl
@[simp] theorem exec_srai g f (s : State) : exec (.srai g f) s = execSrai g f s := rfl
@[simp] theorem exec_cmpi g f (s : State) : exec (.cmpi g f) s = execCmpi g f s := rfl
@[simp] theorem exec_ldb g f (s : State) : exec (.ldb g f) s = execLdb g f s := rfl
@[simp] theorem exec_ldh g f (s : State) : exec (.ldh g f) s = execLdh g f s := rfl
@[simp] theorem exec_ldw g f (s : State) : exec (.ldw g f) s = execLdw g f s := rfl
@[simp] theorem exec_ldd g f (s : State) : exec (.ldd g f) s = execLdd g f s := rfl
@[simp] theorem exec_stb g f (s : State) : exec (.stb g f) s = execStb g f s := rfl
@[simp] theorem exec_sth g f (s : State) : exec (.sth g f) s = execSth g f s := rfl
@[simp] theorem exec_stw g f (s : State) : exec (.stw g f) s = execStw g f s := rfl
@[simp] theorem exec_std g f (s : State) : exec (.std g f) s = execStd g f s := rfl
@[simp] theorem exec_vld g f (s : State) : exec (.vld g f) s = execVld g f s := rfl
@[simp] theorem exec_vst g f (s : State) : exec (.vst g f) s = execVst g f s := rfl
@[simp] theorem exec_vlds g f (s : State) : exec (.vlds g f) s = execVlds g f s := rfl
@[simp] theorem exec_vsts g f (s : State) : exec (.vsts g f) s = execVsts g f s := rfl
@[simp] theorem exec_cld g f (s : State) : exec (.cld g f) s = execCld g f s := rfl
@[simp] theorem exec_cst g f (s : State) : exec (.cst g f) s = execCst g f s := rfl
@[simp] theorem exec_rwr g f (s : State) : exec (.rwr g f) s = execRwr g f s := rfl
@[simp] theorem exec_rws g f (s : State) : exec (.rws g f) s = execRws g f s := rfl
@[simp] theorem exec_ldnb g f (s : State) : exec (.ldnb g f) s = execLdnb g f s := rfl
@[simp] theorem exec_stva g f (s : State) : exec (.stva g f) s = execStva g f s := rfl
@[simp] theorem exec_rwva g f (s : State) : exec (.rwva g f) s = execRwva g f s := rfl
@[simp] theorem exec_sarr g f (s : State) : exec (.sarr g f) s = execSarr g f s := rfl
@[simp] theorem exec_swait g f (s : State) : exec (.swait g f) s = execSwait g f s := rfl
@[simp] theorem exec_sacq g f (s : State) : exec (.sacq g f) s = execSacq g f s := rfl
@[simp] theorem exec_srel g f (s : State) : exec (.srel g f) s = execSrel g f s := rfl
@[simp] theorem exec_sset g f (s : State) : exec (.sset g f) s = execSset g f s := rfl
@[simp] theorem exec_saeq g f (s : State) : exec (.saeq g f) s = execSaeq g f s := rfl
@[simp] theorem exec_saef g f (s : State) : exec (.saef g f) s = execSaef g f s := rfl
@[simp] theorem exec_vadd g f (s : State) : exec (.vadd g f) s = execVadd g f s := rfl
@[simp] theorem exec_vsub g f (s : State) : exec (.vsub g f) s = execVsub g f s := rfl
@[simp] theorem exec_vmul g f (s : State) : exec (.vmul g f) s = execVmul g f s := rfl
@[simp] theorem exec_vmin g f (s : State) : exec (.vmin g f) s = execVmin g f s := rfl
@[simp] theorem exec_vmax g f (s : State) : exec (.vmax g f) s = execVmax g f s := rfl
@[simp] theorem exec_vand g f (s : State) : exec (.vand g f) s = execVand g f s := rfl
@[simp] theorem exec_vor g f (s : State) : exec (.vor g f) s = execVor g f s := rfl
@[simp] theorem exec_vxor g f (s : State) : exec (.vxor g f) s = execVxor g f s := rfl
@[simp] theorem exec_vlut3 g f (s : State) : exec (.vlut3 g f) s = execVlut3 g f s := rfl
@[simp] theorem exec_vshl g f (s : State) : exec (.vshl g f) s = execVshl g f s := rfl
@[simp] theorem exec_vshr g f (s : State) : exec (.vshr g f) s = execVshr g f s := rfl
@[simp] theorem exec_vfsh g f (s : State) : exec (.vfsh g f) s = execVfsh g f s := rfl
@[simp] theorem exec_vpopc g f (s : State) : exec (.vpopc g f) s = execVpopc g f s := rfl
@[simp] theorem exec_vclz g f (s : State) : exec (.vclz g f) s = execVclz g f s := rfl
@[simp] theorem exec_vrot g f (s : State) : exec (.vrot g f) s = execVrot g f s := rfl
@[simp] theorem exec_vperm g f (s : State) : exec (.vperm g f) s = execVperm g f s := rfl
@[simp] theorem exec_vbcast g f (s : State) : exec (.vbcast g f) s = execVbcast g f s := rfl
@[simp] theorem exec_vsel g f (s : State) : exec (.vsel g f) s = execVsel g f s := rfl
@[simp] theorem exec_vcmp g f (s : State) : exec (.vcmp g f) s = execVcmp g f s := rfl
@[simp] theorem exec_vfadd g f (s : State) : exec (.vfadd g f) s = execVfadd g f s := rfl
@[simp] theorem exec_vfsub g f (s : State) : exec (.vfsub g f) s = execVfsub g f s := rfl
@[simp] theorem exec_vfmul g f (s : State) : exec (.vfmul g f) s = execVfmul g f s := rfl
@[simp] theorem exec_vfma g f (s : State) : exec (.vfma g f) s = execVfma g f s := rfl
@[simp] theorem exec_vfmin g f (s : State) : exec (.vfmin g f) s = execVfmin g f s := rfl
@[simp] theorem exec_vfmax g f (s : State) : exec (.vfmax g f) s = execVfmax g f s := rfl
@[simp] theorem exec_vfdiv g f (s : State) : exec (.vfdiv g f) s = execVfdiv g f s := rfl
@[simp] theorem exec_vfsqrt g f (s : State) : exec (.vfsqrt g f) s = execVfsqrt g f s := rfl
@[simp] theorem exec_vfabs g f (s : State) : exec (.vfabs g f) s = execVfabs g f s := rfl
@[simp] theorem exec_vfneg g f (s : State) : exec (.vfneg g f) s = execVfneg g f s := rfl
@[simp] theorem exec_vcvt g f (s : State) : exec (.vcvt g f) s = execVcvt g f s := rfl
@[simp] theorem exec_vrmax g f (s : State) : exec (.vrmax g f) s = execVrmax g f s := rfl
@[simp] theorem exec_vrmin g f (s : State) : exec (.vrmin g f) s = execVrmin g f s := rfl
@[simp] theorem exec_vradd g f (s : State) : exec (.vradd g f) s = execVradd g f s := rfl
@[simp] theorem exec_mand g f (s : State) : exec (.mand g f) s = execMand g f s := rfl
@[simp] theorem exec_mor g f (s : State) : exec (.mor g f) s = execMor g f s := rfl
@[simp] theorem exec_mnot g f (s : State) : exec (.mnot g f) s = execMnot g f s := rfl
@[simp] theorem exec_mpop g f (s : State) : exec (.mpop g f) s = execMpop g f s := rfl
@[simp] theorem exec_vswt g f (s : State) : exec (.vswt g f) s = execVswt g f s := rfl
@[simp] theorem exec_vspickStart g f (s : State) : exec (.vspickStart g f) s = execVspickStart g f s := rfl
@[simp] theorem exec_vspickScan g f (s : State) : exec (.vspickScan g f) s = execVspickScan g f s := rfl
@[simp] theorem exec_vspickFinal g f (s : State) : exec (.vspickFinal g f) s = execVspickFinal g f s := rfl
@[simp] theorem exec_qclr g f (s : State) : exec (.qclr g f) s = execQclr g f s := rfl
@[simp] theorem exec_qdot g f (s : State) : exec (.qdot g f) s = execQdot g f s := rfl
@[simp] theorem exec_qfma g f (s : State) : exec (.qfma g f) s = execQfma g f s := rfl
@[simp] theorem exec_qadd g f (s : State) : exec (.qadd g f) s = execQadd g f s := rfl
@[simp] theorem exec_qaddq g f (s : State) : exec (.qaddq g f) s = execQaddq g f s := rfl
@[simp] theorem exec_qneg g f (s : State) : exec (.qneg g f) s = execQneg g f s := rfl
@[simp] theorem exec_qrnd g f (s : State) : exec (.qrnd g f) s = execQrnd g f s := rfl
@[simp] theorem exec_qsave g f (s : State) : exec (.qsave g f) s = execQsave g f s := rfl
@[simp] theorem exec_qload g f (s : State) : exec (.qload g f) s = execQload g f s := rfl
@[simp] theorem exec_qtst g f (s : State) : exec (.qtst g f) s = execQtst g f s := rfl
@[simp] theorem exec_qtstNar g f (s : State) : exec (.qtstNar g f) s = execQtstNar g f s := rfl
@[simp] theorem exec_qfrom g f (s : State) : exec (.qfrom g f) s = execQfrom g f s := rfl
@[simp] theorem exec_mclaim g f (s : State) : exec (.mclaim g f) s = execMclaim g f s := rfl
@[simp] theorem exec_mrel g f (s : State) : exec (.mrel g f) s = execMrel g f s := rfl
@[simp] theorem exec_mlda g f (s : State) : exec (.mlda g f) s = execMlda g f s := rfl
@[simp] theorem exec_mma g f (s : State) : exec (.mma g f) s = execMma g f s := rfl
@[simp] theorem exec_mmai g f (s : State) : exec (.mmai g f) s = execMmai g f s := rfl
@[simp] theorem exec_mlut g f (s : State) : exec (.mlut g f) s = execMlut g f s := rfl
@[simp] theorem exec_mzero g f (s : State) : exec (.mzero g f) s = execMzero g f s := rfl
@[simp] theorem exec_msave g f (s : State) : exec (.msave g f) s = execMsave g f s := rfl
@[simp] theorem exec_mload g f (s : State) : exec (.mload g f) s = execMload g f s := rfl
@[simp] theorem exec_drd g f (s : State) : exec (.drd g f) s = execDrd g f s := rfl
@[simp] theorem exec_dsgd g f (s : State) : exec (.dsgd g f) s = execDsgd g f s := rfl
@[simp] theorem exec_dmom g f (s : State) : exec (.dmom g f) s = execDmom g f s := rfl
@[simp] theorem exec_dpub g f (s : State) : exec (.dpub g f) s = execDpub g f s := rfl
@[simp] theorem exec_dclr g f (s : State) : exec (.dclr g f) s = execDclr g f s := rfl
@[simp] theorem exec_kcp g f (s : State) : exec (.kcp g f) s = execKcp g f s := rfl
@[simp] theorem exec_kcpOpimg g f (s : State) : exec (.kcpOpimg g f) s = execKcpOpimg g f s := rfl
@[simp] theorem exec_kcpn g f (s : State) : exec (.kcpn g f) s = execKcpn g f s := rfl
@[simp] theorem exec_kcpv g f (s : State) : exec (.kcpv g f) s = execKcpv g f s := rfl
@[simp] theorem exec_ktr g f (s : State) : exec (.ktr g f) s = execKtr g f s := rfl
@[simp] theorem exec_kenc g f (s : State) : exec (.kenc g f) s = execKenc g f s := rfl
@[simp] theorem exec_krec g f (s : State) : exec (.krec g f) s = execKrec g f s := rfl
@[simp] theorem exec_kseal g f (s : State) : exec (.kseal g f) s = execKseal g f s := rfl
@[simp] theorem exec_ksealUnseal g f (s : State) : exec (.ksealUnseal g f) s = execKsealUnseal g f s := rfl
@[simp] theorem exec_ktab g f (s : State) : exec (.ktab g f) s = execKtab g f s := rfl
@[simp] theorem exec_kdrain g f (s : State) : exec (.kdrain g f) s = execKdrain g f s := rfl
@[simp] theorem exec_kres g f (s : State) : exec (.kres g f) s = execKres g f s := rfl
@[simp] theorem exec_kresDrop g f (s : State) : exec (.kresDrop g f) s = execKresDrop g f s := rfl
@[simp] theorem exec_knmc g f (s : State) : exec (.knmc g f) s = execKnmc g f s := rfl
@[simp] theorem exec_kcol g f (s : State) : exec (.kcol g f) s = execKcol g f s := rfl
@[simp] theorem exec_kcan g f (s : State) : exec (.kcan g f) s = execKcan g f s := rfl
@[simp] theorem exec_ktsk g f (s : State) : exec (.ktsk g f) s = execKtsk g f s := rfl
@[simp] theorem exec_gstep g f (s : State) : exec (.gstep g f) s = execGstep g f s := rfl
@[simp] theorem exec_gmask g f (s : State) : exec (.gmask g f) s = execGmask g f s := rfl
@[simp] theorem exec_tretResume c (s : State) : exec (.tretResume c) s = execTretResume c s := rfl
@[simp] theorem exec_tretSuspend c (s : State) : exec (.tretSuspend c) s = execTretSuspend c s := rfl
@[simp] theorem exec_tretKill c (s : State) : exec (.tretKill c) s = execTretKill c s := rfl
@[simp] theorem exec_pendingRelease core tile n (s : State) : exec (.pendingRelease core tile n) s = execPendingRelease core tile n s := rfl
@[simp] theorem exec_groupFetch c (s : State) : exec (.groupFetch c) s = execGroupFetch c s := rfl
@[simp] theorem exec_blockedGroupIssue c (s : State) : exec (.blockedGroupIssue c) s = execBlockedGroupIssue c s := rfl
@[simp] theorem exec_resultLanding c (s : State) : exec (.resultLanding c) s = execResultLanding c s := rfl
@[simp] theorem exec_arrayResultLanding c (s : State) : exec (.arrayResultLanding c) s = execArrayResultLanding c s := rfl
@[simp] theorem exec_tileClearDone core n (s : State) : exec (.tileClearDone core n) s = execTileClearDone core n s := rfl
@[simp] theorem exec_slotClearDone core n (s : State) : exec (.slotClearDone core n) s = execSlotClearDone core n s := rfl
@[simp] theorem exec_regionZeroDone core n (s : State) : exec (.regionZeroDone core n) s = execRegionZeroDone core n s := rfl
@[simp] theorem exec_saeRunApply c (s : State) : exec (.saeRunApply c) s = execSaeRunApply c s := rfl
@[simp] theorem exec_remoteWriteArrival c id (s : State) : exec (.remoteWriteArrival c id) s = execRemoteWriteArrival c id s := rfl
@[simp] theorem exec_timedWritePerform core id (s : State) : exec (.timedWritePerform core id) s = execTimedWritePerform core id s := rfl
@[simp] theorem exec_lateNoticeArrival id (s : State) : exec (.lateNoticeArrival id) s = execLateNoticeArrival id s := rfl
@[simp] theorem exec_releaseMessageArrival id (s : State) : exec (.releaseMessageArrival id) s = execReleaseMessageArrival id s := rfl
@[simp] theorem exec_gateOpen c id (s : State) : exec (.gateOpen c id) s = execGateOpen c id s := rfl
@[simp] theorem exec_commandStart core id (s : State) : exec (.commandStart core id) s = execCommandStart core id s := rfl
@[simp] theorem exec_copyUnitTransfer core id (s : State) : exec (.copyUnitTransfer core id) s = execCopyUnitTransfer core id s := rfl
@[simp] theorem exec_commandComplete core id (s : State) : exec (.commandComplete core id) s = execCommandComplete core id s := rfl
@[simp] theorem exec_dictSlotSwitch core id (s : State) : exec (.dictSlotSwitch core id) s = execDictSlotSwitch core id s := rfl
@[simp] theorem exec_kcpvVersionReached core id (s : State) : exec (.kcpvVersionReached core id) s = execKcpvVersionReached core id s := rfl
@[simp] theorem exec_acquireReferenceSatisfied id (s : State) : exec (.acquireReferenceSatisfied id) s = execAcquireReferenceSatisfied id s := rfl
@[simp] theorem exec_nmcCommandAccept id (s : State) : exec (.nmcCommandAccept id) s = execNmcCommandAccept id s := rfl
@[simp] theorem exec_reductionCommand stack (s : State) : exec (.reductionCommand stack) s = execReductionCommand stack s := rfl
@[simp] theorem exec_updateRow stack (s : State) : exec (.updateRow stack) s = execUpdateRow stack s := rfl
@[simp] theorem exec_transformCommand stack (s : State) : exec (.transformCommand stack) s = execTransformCommand stack s := rfl
@[simp] theorem exec_gazetteerQuery stack (s : State) : exec (.gazetteerQuery stack) s = execGazetteerQuery stack s := rfl
@[simp] theorem exec_nmcTimedRelease id (s : State) : exec (.nmcTimedRelease id) s = execNmcTimedRelease id s := rfl
@[simp] theorem exec_grammarCommand die (s : State) : exec (.grammarCommand die) s = execGrammarCommand die s := rfl
@[simp] theorem exec_collectiveForm n (s : State) : exec (.collectiveForm n) s = execCollectiveForm n s := rfl
@[simp] theorem exec_planeInject n party tile (s : State) : exec (.planeInject n party tile) s = execPlaneInject n party tile s := rfl
@[simp] theorem exec_planeLand n party tile (s : State) : exec (.planeLand n party tile) s = execPlaneLand n party tile s := rfl
@[simp] theorem exec_cancelReceipt n party (s : State) : exec (.cancelReceipt n party) s = execCancelReceipt n party s := rfl
@[simp] theorem exec_cancelAck n (s : State) : exec (.cancelAck n) s = execCancelAck n s := rfl
@[simp] theorem exec_nodeAccept iod (s : State) : exec (.nodeAccept iod) s = execNodeAccept iod s := rfl
@[simp] theorem exec_nodeDispatch iod (s : State) : exec (.nodeDispatch iod) s = execNodeDispatch iod s := rfl
@[simp] theorem exec_taskLaunch id (s : State) : exec (.taskLaunch id) s = execTaskLaunch id s := rfl
@[simp] theorem exec_taskComplete c (s : State) : exec (.taskComplete c) s = execTaskComplete c s := rfl
@[simp] theorem exec_contextRecordWrite c (s : State) : exec (.contextRecordWrite c) s = execContextRecordWrite c s := rfl
@[simp] theorem exec_restore id (s : State) : exec (.restore id) s = execRestore id s := rfl
@[simp] theorem exec_sliceExpiry c (s : State) : exec (.sliceExpiry c) s = execSliceExpiry c s := rfl
@[simp] theorem exec_platExpiry c (s : State) : exec (.platExpiry c) s = execPlatExpiry c s := rfl
@[simp] theorem exec_invalidationRequest id die (s : State) : exec (.invalidationRequest id die) s = execInvalidationRequest id die s := rfl
@[simp] theorem exec_invalidationAckSend id die (s : State) : exec (.invalidationAckSend id die) s = execInvalidationAckSend id die s := rfl
@[simp] theorem exec_invalidationAck id die (s : State) : exec (.invalidationAck id die) s = execInvalidationAck id die s := rfl
@[simp] theorem exec_submitNode port tenant v (s : State) : exec (.submitNode port tenant v) s = execSubmitNode port tenant v s := rfl
@[simp] theorem exec_ownerAcquire port (s : State) : exec (.ownerAcquire port) s = execOwnerAcquire port s := rfl
@[simp] theorem exec_ownerRelease port (s : State) : exec (.ownerRelease port) s = execOwnerRelease port s := rfl
@[simp] theorem exec_moduleBlockWrite port off v (s : State) : exec (.moduleBlockWrite port off v) s = execModuleBlockWrite port off v s := rfl
@[simp] theorem exec_epochWrite port v (s : State) : exec (.epochWrite port v) s = execEpochWrite port v s := rfl
@[simp] theorem exec_readySet port v (s : State) : exec (.readySet port v) s = execReadySet port v s := rfl
@[simp] theorem exec_attestReport port v (s : State) : exec (.attestReport port v) s = execAttestReport port v s := rfl
@[simp] theorem exec_rfree port v (s : State) : exec (.rfree port v) s = execRfree port v s := rfl
@[simp] theorem exec_hostInvalidate port v (s : State) : exec (.hostInvalidate port v) s = execHostInvalidate port v s := rfl
@[simp] theorem exec_gctlEnable port v (s : State) : exec (.gctlEnable port v) s = execGctlEnable port v s := rfl
@[simp] theorem exec_gctlDisable port v (s : State) : exec (.gctlDisable port v) s = execGctlDisable port v s := rfl
@[simp] theorem exec_suspendRequest port v (s : State) : exec (.suspendRequest port v) s = execSuspendRequest port v s := rfl
@[simp] theorem exec_restoreRequest port v (s : State) : exec (.restoreRequest port v) s = execRestoreRequest port v s := rfl
@[simp] theorem exec_overflowEvent port (s : State) : exec (.overflowEvent port) s = execOverflowEvent port s := rfl
@[simp] theorem exec_hostWriteCompletion port (s : State) : exec (.hostWriteCompletion port) s = execHostWriteCompletion port s := rfl
@[simp] theorem exec_portLinkDown port (s : State) : exec (.portLinkDown port) s = execPortLinkDown port s := rfl
@[simp] theorem exec_moduleReset b (s : State) : exec (.moduleReset b) s = execModuleReset b s := rfl
@[simp] theorem exec_linkConfiguration link peer (s : State) : exec (.linkConfiguration link peer) s = execLinkConfiguration link peer s := rfl
@[simp] theorem exec_ptpMessage rate (s : State) : exec (.ptpMessage rate) s = execPtpMessage rate s := rfl
@[simp] theorem exec_powerArbitration d (s : State) : exec (.powerArbitration d) s = execPowerArbitration d s := rfl
@[simp] theorem exec_throttleStep die (s : State) : exec (.throttleStep die) s = execThrottleStep die s := rfl
@[simp] theorem exec_linkNarrow link (s : State) : exec (.linkNarrow link) s = execLinkNarrow link s := rfl
@[simp] theorem exec_hostDeviceMemoryWrite port pa bytes (s : State) : exec (.hostDeviceMemoryWrite port pa bytes) s = execHostDeviceMemoryWrite port pa bytes s := rfl
@[simp] theorem exec_meridianCounterStop die (s : State) : exec (.meridianCounterStop die) s = execMeridianCounterStop die s := rfl
@[simp] theorem exec_hostPortLinkUp port kind (s : State) : exec (.hostPortLinkUp port kind) s = execHostPortLinkUp port kind s := rfl
@[simp] theorem exec_gangSliceSwitch (s : State) : exec (.gangSliceSwitch) s = execGangSliceSwitch s := rfl
@[simp] theorem exec_epochApply (s : State) : exec (.epochApply) s = execEpochApply s := rfl
@[simp] theorem exec_referenceLoss (s : State) : exec (.referenceLoss) s = execReferenceLoss s := rfl
@[simp] theorem exec_holdoverExpiry (s : State) : exec (.holdoverExpiry) s = execHoldoverExpiry s := rfl

end Sys2Proof.Machine
end

