-- ==== Sys2Proof/Laws/Fetch.lean ====
section
/-! SUPPORT. What translation and the fetch of a group can change, and the group that one word makes. -/
namespace Sys2Proof.Machine

/-- Two states that differ at most in translation caches. -/
def CachesOnly (s t : State) : Prop := t = { s with dies := t.dies, chanCache := t.chanCache }

theorem CachesOnly.refl (s : State) : CachesOnly s s := rfl
theorem CachesOnly.trans {s t u : State} (h : CachesOnly s t) (k : CachesOnly t u) : CachesOnly s u := by
  unfold CachesOnly at *
  rw [k, h]

theorem State.dieLeaf_frame (s : State) (d ten va : Nat) : CachesOnly s (s.dieLeaf d ten va).2 := by
  unfold State.dieLeaf
  dsimp only
  split
  · exact .refl s
  · split <;> exact rfl
theorem State.leaf_frame (s : State) (w : Walker) (ten va : Nat) : CachesOnly s (s.leaf w ten va).2 := by
  unfold State.leaf
  cases w with
  | die d => exact s.dieLeaf_frame _ _ _
  | chan core chan =>
    dsimp only
    split
    · exact .refl s
    · have h := s.dieLeaf_frame (dieOf core) ten va
      split
      · rename_i e; rw [e] at h; exact h
      · rename_i e; rw [e] at h; exact h.trans rfl
theorem State.translate_frame (s : State) (w : Walker) (ten va n : Nat) (wr : Bool) :
    CachesOnly s (s.translate w ten va n wr).2 := by
  unfold State.translate
  have h := s.leaf_frame w ten va
  split
  · exact .refl s
  · split
    · rename_i e; rw [e] at h; exact h
    · rename_i e; rw [e] at h
      dsimp only
      repeat' split
      all_goals exact h
theorem State.readPieces_frame (w : Walker) (ten : Nat) (ps : List (Nat × Nat)) (s : State) :
    CachesOnly s (s.readPieces w ten ps).2 := by
  induction ps generalizing s with
  | nil => exact .refl s
  | cons p ps ih =>
    obtain ⟨a, n⟩ := p
    unfold State.readPieces
    have h := s.translate_frame w ten a n false
    split
    · rename_i e; rw [e] at h; exact h
    · rename_i t u e; rw [e] at h
      have k := ih u
      dsimp only
      split
      · rename_i e; rw [e] at k; exact h.trans k
      · rename_i e; rw [e] at k; exact h.trans k
theorem State.readGlobal_frame (s : State) (w : Walker) (ten va n : Nat) : CachesOnly s (s.readGlobal w ten va n).2 :=
  State.readPieces_frame w ten _ s
theorem State.fetchWord_frame (s : State) (r : CtxRef) (va : Nat) : CachesOnly s (s.fetchWord r va).2 := by
  unfold State.fetchWord
  have h := s.readGlobal_frame (.die (dieOf r.core)) (s.tenantOf r) va 8
  split <;> (rename_i e; rw [e] at h; exact h)
theorem State.formFrom_frame (r : CtxRef) (n : Nat) (s : State) (va : Nat) (ws : List (BitVec 64)) :
    CachesOnly s (s.formFrom r va n ws).2 := by
  induction n generalizing s va ws with
  | zero => exact .refl s
  | succ n ih =>
    unfold State.formFrom
    have h := s.fetchWord_frame r va
    split
    · rename_i e; rw [e] at h; exact h
    · rename_i e; rw [e] at h
      split
      · exact h
      · exact h.trans (ih _ _ _)
/-- The fetch of a group changes translation caches alone. -/
theorem State.formGroup_frame (s : State) (r : CtxRef) (va : Nat) : CachesOnly s (s.formGroup r va).2 :=
  State.formFrom_frame r 11 s va []

/-! ### The group that one word makes -/

theorem decoded_class {w : BitVec 64} {i : Instr} (h : decodeWord w = .ok i) : (Parts.ofWord w).cl.toNat < 8 := by
  unfold decodeWord decodeParts at h
  split at h
  · simp at h
  · omega
/-- A single accepted word is a group of its own. -/
theorem decodeGroup_one {m : Mode} {at_ : Word} {w : BitVec 64} {i : Instr} (h : decodeWord w = .ok i)
    (ha : acceptedIn m i = true) : decodeGroup m at_ [w] = .ok [itemOf [] w i] := by
  have hs : slotsOf (itemOf [] w i).cl ≤ (itemOf [] w i).slot ↔ False := by
    have : (itemOf [] w i).slot = 0 := rfl
    rw [this]; unfold slotsOf; split <;> simp
  unfold decodeGroup
  have hd : decodeItems m at_ [] [w] = .ok [itemOf [] w i] := by
    simp [decodeItems, h, ha]
  rw [hd]
  simp [firstBad, badShape, badDeps, hs]
theorem slotOrder_one {w : BitVec 64} {i : Instr} (h : decodeWord w = .ok i) :
    slotOrder [itemOf [] w i] = [itemOf [] w i] := by
  have hc : (itemOf [] w i).cl < 8 := decoded_class h
  have hs : (itemOf [] w i).slot = 0 := rfl
  generalize hx : itemOf [] w i = x at *
  have : x.cl = 0 ∨ x.cl = 1 ∨ x.cl = 2 ∨ x.cl = 3 ∨ x.cl = 4 ∨ x.cl = 5 ∨ x.cl = 6 ∨ x.cl = 7 := by omega
  rcases this with h | h | h | h | h | h | h | h <;>
    simp [slotOrder, h, hs, List.range_succ, List.range_zero]
theorem rankOf_lt (x : Item) : rankOf x < 12 := by
  unfold rankOf
  repeat' split
  all_goals omega
theorem timedOrder_nil (c : Ctx) : timedOrder c [] = [] := rfl
theorem timedOrder_one (c : Ctx) (x : Item) : timedOrder c [x] = [x] := by
  unfold timedOrder
  split
  · rename_i e; simp at e
  · rfl
theorem performOrder_one {c : Ctx} {w : BitVec 64} {i : Instr} (h : decodeWord w = .ok i) :
    performOrder c [itemOf [] w i] = [(i, stopBit w, 0)] := by
  unfold performOrder
  rw [slotOrder_one h]
  have hr := rankOf_lt (itemOf [] w i)
  have hf : ∀ n : Nat, [itemOf [] w i].filter (fun x => rankOf x == n)
      = if rankOf (itemOf [] w i) = n then [itemOf [] w i] else [] := by
    intro n
    by_cases e : rankOf (itemOf [] w i) = n <;> simp [e]
  simp only [hf, apply_ite (timedOrder c), timedOrder_one, timedOrder_nil]
  generalize rankOf (itemOf [] w i) = m at hr
  have : (List.range 12).flatMap (fun n => if m = n then [itemOf [] w i] else []) = [itemOf [] w i] := by
    have : m = 0 ∨ m = 1 ∨ m = 2 ∨ m = 3 ∨ m = 4 ∨ m = 5 ∨ m = 6 ∨ m = 7 ∨ m = 8 ∨ m = 9 ∨ m = 10 ∨ m = 11 := by omega
    rcases this with h | h | h | h | h | h | h | h | h | h | h | h <;> simp [h, List.range_succ, List.range_zero]
  rw [this]
  rfl

end Sys2Proof.Machine
end

