-- ==== Sys2Proof/Laws/State.lean ====
section
/-! SUPPORT. What each named update of the state leaves of every field, and what the accessors answer after it. -/
namespace Sys2Proof.Machine
variable (s : State)

/-! ### setCore -/

@[simp] theorem State.setCore_clusters (i : Nat) (k : Core) : (s.setCore i k).clusters = s.clusters := rfl
@[simp] theorem State.setCore_mem (i : Nat) (k : Core) : (s.setCore i k).mem = s.mem := rfl
@[simp] theorem State.setCore_relief (i : Nat) (k : Core) : (s.setCore i k).relief = s.relief := rfl
@[simp] theorem State.setCore_dies (i : Nat) (k : Core) : (s.setCore i k).dies = s.dies := rfl
@[simp] theorem State.setCore_complexes (i : Nat) (k : Core) : (s.setCore i k).complexes = s.complexes := rfl
@[simp] theorem State.setCore_chanCache (i : Nat) (k : Core) : (s.setCore i k).chanCache = s.chanCache := rfl
@[simp] theorem State.setCore_cmds (i : Nat) (k : Core) : (s.setCore i k).cmds = s.cmds := rfl
@[simp] theorem State.setCore_colls (i : Nat) (k : Core) : (s.setCore i k).colls = s.colls := rfl
@[simp] theorem State.setCore_trees (i : Nat) (k : Core) : (s.setCore i k).trees = s.trees := rfl
@[simp] theorem State.setCore_posts (i : Nat) (k : Core) : (s.setCore i k).posts = s.posts := rfl
@[simp] theorem State.setCore_nodes (i : Nat) (k : Core) : (s.setCore i k).nodes = s.nodes := rfl
@[simp] theorem State.setCore_launches (i : Nat) (k : Core) : (s.setCore i k).launches = s.launches := rfl
@[simp] theorem State.setCore_saved (i : Nat) (k : Core) : (s.setCore i k).saved = s.saved := rfl
@[simp] theorem State.setCore_restores (i : Nat) (k : Core) : (s.setCore i k).restores = s.restores := rfl
@[simp] theorem State.setCore_images (i : Nat) (k : Core) : (s.setCore i k).images = s.images := rfl
@[simp] theorem State.setCore_reserved (i : Nat) (k : Core) : (s.setCore i k).reserved = s.reserved := rfl
@[simp] theorem State.setCore_msgs (i : Nat) (k : Core) : (s.setCore i k).msgs = s.msgs := rfl
@[simp] theorem State.setCore_invals (i : Nat) (k : Core) : (s.setCore i k).invals = s.invals := rfl
@[simp] theorem State.setCore_ports (i : Nat) (k : Core) : (s.setCore i k).ports = s.ports := rfl
@[simp] theorem State.setCore_seqs (i : Nat) (k : Core) : (s.setCore i k).seqs = s.seqs := rfl
@[simp] theorem State.setCore_links (i : Nat) (k : Core) : (s.setCore i k).links = s.links := rfl
@[simp] theorem State.setCore_farLinks (i : Nat) (k : Core) : (s.setCore i k).farLinks = s.farLinks := rfl
@[simp] theorem State.setCore_narrow (i : Nat) (k : Core) : (s.setCore i k).narrow = s.narrow := rfl
@[simp] theorem State.setCore_narrowAsked (i : Nat) (k : Core) : (s.setCore i k).narrowAsked = s.narrowAsked := rfl
@[simp] theorem State.setCore_mer (i : Nat) (k : Core) : (s.setCore i k).mer = s.mer := rfl
@[simp] theorem State.setCore_gang (i : Nat) (k : Core) : (s.setCore i k).gang = s.gang := rfl
@[simp] theorem State.setCore_mod (i : Nat) (k : Core) : (s.setCore i k).mod = s.mod := rfl
@[simp] theorem State.setCore_agenda (i : Nat) (k : Core) : (s.setCore i k).agenda = s.agenda := rfl
@[simp] theorem State.setCore_now (i : Nat) (k : Core) : (s.setCore i k).now = s.now := rfl
@[simp] theorem State.setCore_nextId (i : Nat) (k : Core) : (s.setCore i k).nextId = s.nextId := rfl
@[simp] theorem State.setCore_freeCtr (i : Nat) (k : Core) : (s.setCore i k).freeCtr = s.freeCtr := rfl
@[simp] theorem State.setCore_cur (i : Nat) (k : Core) : (s.setCore i k).cur = s.cur := rfl
@[simp] theorem State.setCore_iss (i : Nat) (k : Core) : (s.setCore i k).iss = s.iss := rfl

/-! ### modCore -/

@[simp] theorem State.modCore_clusters (i : Nat) (f : Core → Core) : (s.modCore i f).clusters = s.clusters := rfl
@[simp] theorem State.modCore_mem (i : Nat) (f : Core → Core) : (s.modCore i f).mem = s.mem := rfl
@[simp] theorem State.modCore_relief (i : Nat) (f : Core → Core) : (s.modCore i f).relief = s.relief := rfl
@[simp] theorem State.modCore_dies (i : Nat) (f : Core → Core) : (s.modCore i f).dies = s.dies := rfl
@[simp] theorem State.modCore_complexes (i : Nat) (f : Core → Core) : (s.modCore i f).complexes = s.complexes := rfl
@[simp] theorem State.modCore_chanCache (i : Nat) (f : Core → Core) : (s.modCore i f).chanCache = s.chanCache := rfl
@[simp] theorem State.modCore_cmds (i : Nat) (f : Core → Core) : (s.modCore i f).cmds = s.cmds := rfl
@[simp] theorem State.modCore_colls (i : Nat) (f : Core → Core) : (s.modCore i f).colls = s.colls := rfl
@[simp] theorem State.modCore_trees (i : Nat) (f : Core → Core) : (s.modCore i f).trees = s.trees := rfl
@[simp] theorem State.modCore_posts (i : Nat) (f : Core → Core) : (s.modCore i f).posts = s.posts := rfl
@[simp] theorem State.modCore_nodes (i : Nat) (f : Core → Core) : (s.modCore i f).nodes = s.nodes := rfl
@[simp] theorem State.modCore_launches (i : Nat) (f : Core → Core) : (s.modCore i f).launches = s.launches := rfl
@[simp] theorem State.modCore_saved (i : Nat) (f : Core → Core) : (s.modCore i f).saved = s.saved := rfl
@[simp] theorem State.modCore_restores (i : Nat) (f : Core → Core) : (s.modCore i f).restores = s.restores := rfl
@[simp] theorem State.modCore_images (i : Nat) (f : Core → Core) : (s.modCore i f).images = s.images := rfl
@[simp] theorem State.modCore_reserved (i : Nat) (f : Core → Core) : (s.modCore i f).reserved = s.reserved := rfl
@[simp] theorem State.modCore_msgs (i : Nat) (f : Core → Core) : (s.modCore i f).msgs = s.msgs := rfl
@[simp] theorem State.modCore_invals (i : Nat) (f : Core → Core) : (s.modCore i f).invals = s.invals := rfl
@[simp] theorem State.modCore_ports (i : Nat) (f : Core → Core) : (s.modCore i f).ports = s.ports := rfl
@[simp] theorem State.modCore_seqs (i : Nat) (f : Core → Core) : (s.modCore i f).seqs = s.seqs := rfl
@[simp] theorem State.modCore_links (i : Nat) (f : Core → Core) : (s.modCore i f).links = s.links := rfl
@[simp] theorem State.modCore_farLinks (i : Nat) (f : Core → Core) : (s.modCore i f).farLinks = s.farLinks := rfl
@[simp] theorem State.modCore_narrow (i : Nat) (f : Core → Core) : (s.modCore i f).narrow = s.narrow := rfl
@[simp] theorem State.modCore_narrowAsked (i : Nat) (f : Core → Core) : (s.modCore i f).narrowAsked = s.narrowAsked := rfl
@[simp] theorem State.modCore_mer (i : Nat) (f : Core → Core) : (s.modCore i f).mer = s.mer := rfl
@[simp] theorem State.modCore_gang (i : Nat) (f : Core → Core) : (s.modCore i f).gang = s.gang := rfl
@[simp] theorem State.modCore_mod (i : Nat) (f : Core → Core) : (s.modCore i f).mod = s.mod := rfl
@[simp] theorem State.modCore_agenda (i : Nat) (f : Core → Core) : (s.modCore i f).agenda = s.agenda := rfl
@[simp] theorem State.modCore_now (i : Nat) (f : Core → Core) : (s.modCore i f).now = s.now := rfl
@[simp] theorem State.modCore_nextId (i : Nat) (f : Core → Core) : (s.modCore i f).nextId = s.nextId := rfl
@[simp] theorem State.modCore_freeCtr (i : Nat) (f : Core → Core) : (s.modCore i f).freeCtr = s.freeCtr := rfl
@[simp] theorem State.modCore_cur (i : Nat) (f : Core → Core) : (s.modCore i f).cur = s.cur := rfl
@[simp] theorem State.modCore_iss (i : Nat) (f : Core → Core) : (s.modCore i f).iss = s.iss := rfl

/-! ### setCtx -/

@[simp] theorem State.setCtx_clusters (r : CtxRef) (c : Ctx) : (s.setCtx r c).clusters = s.clusters := rfl
@[simp] theorem State.setCtx_mem (r : CtxRef) (c : Ctx) : (s.setCtx r c).mem = s.mem := rfl
@[simp] theorem State.setCtx_relief (r : CtxRef) (c : Ctx) : (s.setCtx r c).relief = s.relief := rfl
@[simp] theorem State.setCtx_dies (r : CtxRef) (c : Ctx) : (s.setCtx r c).dies = s.dies := rfl
@[simp] theorem State.setCtx_complexes (r : CtxRef) (c : Ctx) : (s.setCtx r c).complexes = s.complexes := rfl
@[simp] theorem State.setCtx_chanCache (r : CtxRef) (c : Ctx) : (s.setCtx r c).chanCache = s.chanCache := rfl
@[simp] theorem State.setCtx_cmds (r : CtxRef) (c : Ctx) : (s.setCtx r c).cmds = s.cmds := rfl
@[simp] theorem State.setCtx_colls (r : CtxRef) (c : Ctx) : (s.setCtx r c).colls = s.colls := rfl
@[simp] theorem State.setCtx_trees (r : CtxRef) (c : Ctx) : (s.setCtx r c).trees = s.trees := rfl
@[simp] theorem State.setCtx_posts (r : CtxRef) (c : Ctx) : (s.setCtx r c).posts = s.posts := rfl
@[simp] theorem State.setCtx_nodes (r : CtxRef) (c : Ctx) : (s.setCtx r c).nodes = s.nodes := rfl
@[simp] theorem State.setCtx_launches (r : CtxRef) (c : Ctx) : (s.setCtx r c).launches = s.launches := rfl
@[simp] theorem State.setCtx_saved (r : CtxRef) (c : Ctx) : (s.setCtx r c).saved = s.saved := rfl
@[simp] theorem State.setCtx_restores (r : CtxRef) (c : Ctx) : (s.setCtx r c).restores = s.restores := rfl
@[simp] theorem State.setCtx_images (r : CtxRef) (c : Ctx) : (s.setCtx r c).images = s.images := rfl
@[simp] theorem State.setCtx_reserved (r : CtxRef) (c : Ctx) : (s.setCtx r c).reserved = s.reserved := rfl
@[simp] theorem State.setCtx_msgs (r : CtxRef) (c : Ctx) : (s.setCtx r c).msgs = s.msgs := rfl
@[simp] theorem State.setCtx_invals (r : CtxRef) (c : Ctx) : (s.setCtx r c).invals = s.invals := rfl
@[simp] theorem State.setCtx_ports (r : CtxRef) (c : Ctx) : (s.setCtx r c).ports = s.ports := rfl
@[simp] theorem State.setCtx_seqs (r : CtxRef) (c : Ctx) : (s.setCtx r c).seqs = s.seqs := rfl
@[simp] theorem State.setCtx_links (r : CtxRef) (c : Ctx) : (s.setCtx r c).links = s.links := rfl
@[simp] theorem State.setCtx_farLinks (r : CtxRef) (c : Ctx) : (s.setCtx r c).farLinks = s.farLinks := rfl
@[simp] theorem State.setCtx_narrow (r : CtxRef) (c : Ctx) : (s.setCtx r c).narrow = s.narrow := rfl
@[simp] theorem State.setCtx_narrowAsked (r : CtxRef) (c : Ctx) : (s.setCtx r c).narrowAsked = s.narrowAsked := rfl
@[simp] theorem State.setCtx_mer (r : CtxRef) (c : Ctx) : (s.setCtx r c).mer = s.mer := rfl
@[simp] theorem State.setCtx_gang (r : CtxRef) (c : Ctx) : (s.setCtx r c).gang = s.gang := rfl
@[simp] theorem State.setCtx_mod (r : CtxRef) (c : Ctx) : (s.setCtx r c).mod = s.mod := rfl
@[simp] theorem State.setCtx_agenda (r : CtxRef) (c : Ctx) : (s.setCtx r c).agenda = s.agenda := rfl
@[simp] theorem State.setCtx_now (r : CtxRef) (c : Ctx) : (s.setCtx r c).now = s.now := rfl
@[simp] theorem State.setCtx_nextId (r : CtxRef) (c : Ctx) : (s.setCtx r c).nextId = s.nextId := rfl
@[simp] theorem State.setCtx_freeCtr (r : CtxRef) (c : Ctx) : (s.setCtx r c).freeCtr = s.freeCtr := rfl
@[simp] theorem State.setCtx_cur (r : CtxRef) (c : Ctx) : (s.setCtx r c).cur = s.cur := rfl
@[simp] theorem State.setCtx_iss (r : CtxRef) (c : Ctx) : (s.setCtx r c).iss = s.iss := rfl

/-! ### modCtx -/

@[simp] theorem State.modCtx_clusters (r : CtxRef) (f : Ctx → Ctx) : (s.modCtx r f).clusters = s.clusters := rfl
@[simp] theorem State.modCtx_mem (r : CtxRef) (f : Ctx → Ctx) : (s.modCtx r f).mem = s.mem := rfl
@[simp] theorem State.modCtx_relief (r : CtxRef) (f : Ctx → Ctx) : (s.modCtx r f).relief = s.relief := rfl
@[simp] theorem State.modCtx_dies (r : CtxRef) (f : Ctx → Ctx) : (s.modCtx r f).dies = s.dies := rfl
@[simp] theorem State.modCtx_complexes (r : CtxRef) (f : Ctx → Ctx) : (s.modCtx r f).complexes = s.complexes := rfl
@[simp] theorem State.modCtx_chanCache (r : CtxRef) (f : Ctx → Ctx) : (s.modCtx r f).chanCache = s.chanCache := rfl
@[simp] theorem State.modCtx_cmds (r : CtxRef) (f : Ctx → Ctx) : (s.modCtx r f).cmds = s.cmds := rfl
@[simp] theorem State.modCtx_colls (r : CtxRef) (f : Ctx → Ctx) : (s.modCtx r f).colls = s.colls := rfl
@[simp] theorem State.modCtx_trees (r : CtxRef) (f : Ctx → Ctx) : (s.modCtx r f).trees = s.trees := rfl
@[simp] theorem State.modCtx_posts (r : CtxRef) (f : Ctx → Ctx) : (s.modCtx r f).posts = s.posts := rfl
@[simp] theorem State.modCtx_nodes (r : CtxRef) (f : Ctx → Ctx) : (s.modCtx r f).nodes = s.nodes := rfl
@[simp] theorem State.modCtx_launches (r : CtxRef) (f : Ctx → Ctx) : (s.modCtx r f).launches = s.launches := rfl
@[simp] theorem State.modCtx_saved (r : CtxRef) (f : Ctx → Ctx) : (s.modCtx r f).saved = s.saved := rfl
@[simp] theorem State.modCtx_restores (r : CtxRef) (f : Ctx → Ctx) : (s.modCtx r f).restores = s.restores := rfl
@[simp] theorem State.modCtx_images (r : CtxRef) (f : Ctx → Ctx) : (s.modCtx r f).images = s.images := rfl
@[simp] theorem State.modCtx_reserved (r : CtxRef) (f : Ctx → Ctx) : (s.modCtx r f).reserved = s.reserved := rfl
@[simp] theorem State.modCtx_msgs (r : CtxRef) (f : Ctx → Ctx) : (s.modCtx r f).msgs = s.msgs := rfl
@[simp] theorem State.modCtx_invals (r : CtxRef) (f : Ctx → Ctx) : (s.modCtx r f).invals = s.invals := rfl
@[simp] theorem State.modCtx_ports (r : CtxRef) (f : Ctx → Ctx) : (s.modCtx r f).ports = s.ports := rfl
@[simp] theorem State.modCtx_seqs (r : CtxRef) (f : Ctx → Ctx) : (s.modCtx r f).seqs = s.seqs := rfl
@[simp] theorem State.modCtx_links (r : CtxRef) (f : Ctx → Ctx) : (s.modCtx r f).links = s.links := rfl
@[simp] theorem State.modCtx_farLinks (r : CtxRef) (f : Ctx → Ctx) : (s.modCtx r f).farLinks = s.farLinks := rfl
@[simp] theorem State.modCtx_narrow (r : CtxRef) (f : Ctx → Ctx) : (s.modCtx r f).narrow = s.narrow := rfl
@[simp] theorem State.modCtx_narrowAsked (r : CtxRef) (f : Ctx → Ctx) : (s.modCtx r f).narrowAsked = s.narrowAsked := rfl
@[simp] theorem State.modCtx_mer (r : CtxRef) (f : Ctx → Ctx) : (s.modCtx r f).mer = s.mer := rfl
@[simp] theorem State.modCtx_gang (r : CtxRef) (f : Ctx → Ctx) : (s.modCtx r f).gang = s.gang := rfl
@[simp] theorem State.modCtx_mod (r : CtxRef) (f : Ctx → Ctx) : (s.modCtx r f).mod = s.mod := rfl
@[simp] theorem State.modCtx_agenda (r : CtxRef) (f : Ctx → Ctx) : (s.modCtx r f).agenda = s.agenda := rfl
@[simp] theorem State.modCtx_now (r : CtxRef) (f : Ctx → Ctx) : (s.modCtx r f).now = s.now := rfl
@[simp] theorem State.modCtx_nextId (r : CtxRef) (f : Ctx → Ctx) : (s.modCtx r f).nextId = s.nextId := rfl
@[simp] theorem State.modCtx_freeCtr (r : CtxRef) (f : Ctx → Ctx) : (s.modCtx r f).freeCtr = s.freeCtr := rfl
@[simp] theorem State.modCtx_cur (r : CtxRef) (f : Ctx → Ctx) : (s.modCtx r f).cur = s.cur := rfl
@[simp] theorem State.modCtx_iss (r : CtxRef) (f : Ctx → Ctx) : (s.modCtx r f).iss = s.iss := rfl

/-! ### setMe -/

@[simp] theorem State.setMe_clusters (f : Ctx → Ctx) : (s.setMe f).clusters = s.clusters := rfl
@[simp] theorem State.setMe_mem (f : Ctx → Ctx) : (s.setMe f).mem = s.mem := rfl
@[simp] theorem State.setMe_relief (f : Ctx → Ctx) : (s.setMe f).relief = s.relief := rfl
@[simp] theorem State.setMe_dies (f : Ctx → Ctx) : (s.setMe f).dies = s.dies := rfl
@[simp] theorem State.setMe_complexes (f : Ctx → Ctx) : (s.setMe f).complexes = s.complexes := rfl
@[simp] theorem State.setMe_chanCache (f : Ctx → Ctx) : (s.setMe f).chanCache = s.chanCache := rfl
@[simp] theorem State.setMe_cmds (f : Ctx → Ctx) : (s.setMe f).cmds = s.cmds := rfl
@[simp] theorem State.setMe_colls (f : Ctx → Ctx) : (s.setMe f).colls = s.colls := rfl
@[simp] theorem State.setMe_trees (f : Ctx → Ctx) : (s.setMe f).trees = s.trees := rfl
@[simp] theorem State.setMe_posts (f : Ctx → Ctx) : (s.setMe f).posts = s.posts := rfl
@[simp] theorem State.setMe_nodes (f : Ctx → Ctx) : (s.setMe f).nodes = s.nodes := rfl
@[simp] theorem State.setMe_launches (f : Ctx → Ctx) : (s.setMe f).launches = s.launches := rfl
@[simp] theorem State.setMe_saved (f : Ctx → Ctx) : (s.setMe f).saved = s.saved := rfl
@[simp] theorem State.setMe_restores (f : Ctx → Ctx) : (s.setMe f).restores = s.restores := rfl
@[simp] theorem State.setMe_images (f : Ctx → Ctx) : (s.setMe f).images = s.images := rfl
@[simp] theorem State.setMe_reserved (f : Ctx → Ctx) : (s.setMe f).reserved = s.reserved := rfl
@[simp] theorem State.setMe_msgs (f : Ctx → Ctx) : (s.setMe f).msgs = s.msgs := rfl
@[simp] theorem State.setMe_invals (f : Ctx → Ctx) : (s.setMe f).invals = s.invals := rfl
@[simp] theorem State.setMe_ports (f : Ctx → Ctx) : (s.setMe f).ports = s.ports := rfl
@[simp] theorem State.setMe_seqs (f : Ctx → Ctx) : (s.setMe f).seqs = s.seqs := rfl
@[simp] theorem State.setMe_links (f : Ctx → Ctx) : (s.setMe f).links = s.links := rfl
@[simp] theorem State.setMe_farLinks (f : Ctx → Ctx) : (s.setMe f).farLinks = s.farLinks := rfl
@[simp] theorem State.setMe_narrow (f : Ctx → Ctx) : (s.setMe f).narrow = s.narrow := rfl
@[simp] theorem State.setMe_narrowAsked (f : Ctx → Ctx) : (s.setMe f).narrowAsked = s.narrowAsked := rfl
@[simp] theorem State.setMe_mer (f : Ctx → Ctx) : (s.setMe f).mer = s.mer := rfl
@[simp] theorem State.setMe_gang (f : Ctx → Ctx) : (s.setMe f).gang = s.gang := rfl
@[simp] theorem State.setMe_mod (f : Ctx → Ctx) : (s.setMe f).mod = s.mod := rfl
@[simp] theorem State.setMe_agenda (f : Ctx → Ctx) : (s.setMe f).agenda = s.agenda := rfl
@[simp] theorem State.setMe_now (f : Ctx → Ctx) : (s.setMe f).now = s.now := rfl
@[simp] theorem State.setMe_nextId (f : Ctx → Ctx) : (s.setMe f).nextId = s.nextId := rfl
@[simp] theorem State.setMe_freeCtr (f : Ctx → Ctx) : (s.setMe f).freeCtr = s.freeCtr := rfl
@[simp] theorem State.setMe_cur (f : Ctx → Ctx) : (s.setMe f).cur = s.cur := rfl
@[simp] theorem State.setMe_iss (f : Ctx → Ctx) : (s.setMe f).iss = s.iss := rfl

/-! ### put -/

@[simp] theorem State.put_clusters (lat : Nat) (e : Effect) (fl : Flags) : (s.put lat e fl).clusters = s.clusters := rfl
@[simp] theorem State.put_mem (lat : Nat) (e : Effect) (fl : Flags) : (s.put lat e fl).mem = s.mem := rfl
@[simp] theorem State.put_relief (lat : Nat) (e : Effect) (fl : Flags) : (s.put lat e fl).relief = s.relief := rfl
@[simp] theorem State.put_dies (lat : Nat) (e : Effect) (fl : Flags) : (s.put lat e fl).dies = s.dies := rfl
@[simp] theorem State.put_complexes (lat : Nat) (e : Effect) (fl : Flags) : (s.put lat e fl).complexes = s.complexes := rfl
@[simp] theorem State.put_chanCache (lat : Nat) (e : Effect) (fl : Flags) : (s.put lat e fl).chanCache = s.chanCache := rfl
@[simp] theorem State.put_cmds (lat : Nat) (e : Effect) (fl : Flags) : (s.put lat e fl).cmds = s.cmds := rfl
@[simp] theorem State.put_colls (lat : Nat) (e : Effect) (fl : Flags) : (s.put lat e fl).colls = s.colls := rfl
@[simp] theorem State.put_trees (lat : Nat) (e : Effect) (fl : Flags) : (s.put lat e fl).trees = s.trees := rfl
@[simp] theorem State.put_posts (lat : Nat) (e : Effect) (fl : Flags) : (s.put lat e fl).posts = s.posts := rfl
@[simp] theorem State.put_nodes (lat : Nat) (e : Effect) (fl : Flags) : (s.put lat e fl).nodes = s.nodes := rfl
@[simp] theorem State.put_launches (lat : Nat) (e : Effect) (fl : Flags) : (s.put lat e fl).launches = s.launches := rfl
@[simp] theorem State.put_saved (lat : Nat) (e : Effect) (fl : Flags) : (s.put lat e fl).saved = s.saved := rfl
@[simp] theorem State.put_restores (lat : Nat) (e : Effect) (fl : Flags) : (s.put lat e fl).restores = s.restores := rfl
@[simp] theorem State.put_images (lat : Nat) (e : Effect) (fl : Flags) : (s.put lat e fl).images = s.images := rfl
@[simp] theorem State.put_reserved (lat : Nat) (e : Effect) (fl : Flags) : (s.put lat e fl).reserved = s.reserved := rfl
@[simp] theorem State.put_msgs (lat : Nat) (e : Effect) (fl : Flags) : (s.put lat e fl).msgs = s.msgs := rfl
@[simp] theorem State.put_invals (lat : Nat) (e : Effect) (fl : Flags) : (s.put lat e fl).invals = s.invals := rfl
@[simp] theorem State.put_ports (lat : Nat) (e : Effect) (fl : Flags) : (s.put lat e fl).ports = s.ports := rfl
@[simp] theorem State.put_seqs (lat : Nat) (e : Effect) (fl : Flags) : (s.put lat e fl).seqs = s.seqs := rfl
@[simp] theorem State.put_links (lat : Nat) (e : Effect) (fl : Flags) : (s.put lat e fl).links = s.links := rfl
@[simp] theorem State.put_farLinks (lat : Nat) (e : Effect) (fl : Flags) : (s.put lat e fl).farLinks = s.farLinks := rfl
@[simp] theorem State.put_narrow (lat : Nat) (e : Effect) (fl : Flags) : (s.put lat e fl).narrow = s.narrow := rfl
@[simp] theorem State.put_narrowAsked (lat : Nat) (e : Effect) (fl : Flags) : (s.put lat e fl).narrowAsked = s.narrowAsked := rfl
@[simp] theorem State.put_mer (lat : Nat) (e : Effect) (fl : Flags) : (s.put lat e fl).mer = s.mer := rfl
@[simp] theorem State.put_gang (lat : Nat) (e : Effect) (fl : Flags) : (s.put lat e fl).gang = s.gang := rfl
@[simp] theorem State.put_mod (lat : Nat) (e : Effect) (fl : Flags) : (s.put lat e fl).mod = s.mod := rfl
@[simp] theorem State.put_agenda (lat : Nat) (e : Effect) (fl : Flags) : (s.put lat e fl).agenda = s.agenda := rfl
@[simp] theorem State.put_now (lat : Nat) (e : Effect) (fl : Flags) : (s.put lat e fl).now = s.now := rfl
@[simp] theorem State.put_nextId (lat : Nat) (e : Effect) (fl : Flags) : (s.put lat e fl).nextId = s.nextId := rfl
@[simp] theorem State.put_freeCtr (lat : Nat) (e : Effect) (fl : Flags) : (s.put lat e fl).freeCtr = s.freeCtr := rfl
@[simp] theorem State.put_cur (lat : Nat) (e : Effect) (fl : Flags) : (s.put lat e fl).cur = s.cur := rfl
@[simp] theorem State.put_iss (lat : Nat) (e : Effect) (fl : Flags) : (s.put lat e fl).iss = s.iss := rfl

/-! ### raise -/

@[simp] theorem State.raise_clusters (r : CtxRef) (fl : Flags) : (s.raise r fl).clusters = s.clusters := rfl
@[simp] theorem State.raise_mem (r : CtxRef) (fl : Flags) : (s.raise r fl).mem = s.mem := rfl
@[simp] theorem State.raise_relief (r : CtxRef) (fl : Flags) : (s.raise r fl).relief = s.relief := rfl
@[simp] theorem State.raise_dies (r : CtxRef) (fl : Flags) : (s.raise r fl).dies = s.dies := rfl
@[simp] theorem State.raise_complexes (r : CtxRef) (fl : Flags) : (s.raise r fl).complexes = s.complexes := rfl
@[simp] theorem State.raise_chanCache (r : CtxRef) (fl : Flags) : (s.raise r fl).chanCache = s.chanCache := rfl
@[simp] theorem State.raise_cmds (r : CtxRef) (fl : Flags) : (s.raise r fl).cmds = s.cmds := rfl
@[simp] theorem State.raise_colls (r : CtxRef) (fl : Flags) : (s.raise r fl).colls = s.colls := rfl
@[simp] theorem State.raise_trees (r : CtxRef) (fl : Flags) : (s.raise r fl).trees = s.trees := rfl
@[simp] theorem State.raise_posts (r : CtxRef) (fl : Flags) : (s.raise r fl).posts = s.posts := rfl
@[simp] theorem State.raise_nodes (r : CtxRef) (fl : Flags) : (s.raise r fl).nodes = s.nodes := rfl
@[simp] theorem State.raise_launches (r : CtxRef) (fl : Flags) : (s.raise r fl).launches = s.launches := rfl
@[simp] theorem State.raise_saved (r : CtxRef) (fl : Flags) : (s.raise r fl).saved = s.saved := rfl
@[simp] theorem State.raise_restores (r : CtxRef) (fl : Flags) : (s.raise r fl).restores = s.restores := rfl
@[simp] theorem State.raise_images (r : CtxRef) (fl : Flags) : (s.raise r fl).images = s.images := rfl
@[simp] theorem State.raise_reserved (r : CtxRef) (fl : Flags) : (s.raise r fl).reserved = s.reserved := rfl
@[simp] theorem State.raise_msgs (r : CtxRef) (fl : Flags) : (s.raise r fl).msgs = s.msgs := rfl
@[simp] theorem State.raise_invals (r : CtxRef) (fl : Flags) : (s.raise r fl).invals = s.invals := rfl
@[simp] theorem State.raise_ports (r : CtxRef) (fl : Flags) : (s.raise r fl).ports = s.ports := rfl
@[simp] theorem State.raise_seqs (r : CtxRef) (fl : Flags) : (s.raise r fl).seqs = s.seqs := rfl
@[simp] theorem State.raise_links (r : CtxRef) (fl : Flags) : (s.raise r fl).links = s.links := rfl
@[simp] theorem State.raise_farLinks (r : CtxRef) (fl : Flags) : (s.raise r fl).farLinks = s.farLinks := rfl
@[simp] theorem State.raise_narrow (r : CtxRef) (fl : Flags) : (s.raise r fl).narrow = s.narrow := rfl
@[simp] theorem State.raise_narrowAsked (r : CtxRef) (fl : Flags) : (s.raise r fl).narrowAsked = s.narrowAsked := rfl
@[simp] theorem State.raise_mer (r : CtxRef) (fl : Flags) : (s.raise r fl).mer = s.mer := rfl
@[simp] theorem State.raise_gang (r : CtxRef) (fl : Flags) : (s.raise r fl).gang = s.gang := rfl
@[simp] theorem State.raise_mod (r : CtxRef) (fl : Flags) : (s.raise r fl).mod = s.mod := rfl
@[simp] theorem State.raise_agenda (r : CtxRef) (fl : Flags) : (s.raise r fl).agenda = s.agenda := rfl
@[simp] theorem State.raise_now (r : CtxRef) (fl : Flags) : (s.raise r fl).now = s.now := rfl
@[simp] theorem State.raise_nextId (r : CtxRef) (fl : Flags) : (s.raise r fl).nextId = s.nextId := rfl
@[simp] theorem State.raise_freeCtr (r : CtxRef) (fl : Flags) : (s.raise r fl).freeCtr = s.freeCtr := rfl
@[simp] theorem State.raise_cur (r : CtxRef) (fl : Flags) : (s.raise r fl).cur = s.cur := rfl
@[simp] theorem State.raise_iss (r : CtxRef) (fl : Flags) : (s.raise r fl).iss = s.iss := rfl

/-! ### setCluster -/

@[simp] theorem State.setCluster_cores (i : Nat) (k : Cluster) : (s.setCluster i k).cores = s.cores := rfl
@[simp] theorem State.setCluster_mem (i : Nat) (k : Cluster) : (s.setCluster i k).mem = s.mem := rfl
@[simp] theorem State.setCluster_relief (i : Nat) (k : Cluster) : (s.setCluster i k).relief = s.relief := rfl
@[simp] theorem State.setCluster_dies (i : Nat) (k : Cluster) : (s.setCluster i k).dies = s.dies := rfl
@[simp] theorem State.setCluster_complexes (i : Nat) (k : Cluster) : (s.setCluster i k).complexes = s.complexes := rfl
@[simp] theorem State.setCluster_chanCache (i : Nat) (k : Cluster) : (s.setCluster i k).chanCache = s.chanCache := rfl
@[simp] theorem State.setCluster_cmds (i : Nat) (k : Cluster) : (s.setCluster i k).cmds = s.cmds := rfl
@[simp] theorem State.setCluster_colls (i : Nat) (k : Cluster) : (s.setCluster i k).colls = s.colls := rfl
@[simp] theorem State.setCluster_trees (i : Nat) (k : Cluster) : (s.setCluster i k).trees = s.trees := rfl
@[simp] theorem State.setCluster_posts (i : Nat) (k : Cluster) : (s.setCluster i k).posts = s.posts := rfl
@[simp] theorem State.setCluster_nodes (i : Nat) (k : Cluster) : (s.setCluster i k).nodes = s.nodes := rfl
@[simp] theorem State.setCluster_launches (i : Nat) (k : Cluster) : (s.setCluster i k).launches = s.launches := rfl
@[simp] theorem State.setCluster_saved (i : Nat) (k : Cluster) : (s.setCluster i k).saved = s.saved := rfl
@[simp] theorem State.setCluster_restores (i : Nat) (k : Cluster) : (s.setCluster i k).restores = s.restores := rfl
@[simp] theorem State.setCluster_images (i : Nat) (k : Cluster) : (s.setCluster i k).images = s.images := rfl
@[simp] theorem State.setCluster_reserved (i : Nat) (k : Cluster) : (s.setCluster i k).reserved = s.reserved := rfl
@[simp] theorem State.setCluster_msgs (i : Nat) (k : Cluster) : (s.setCluster i k).msgs = s.msgs := rfl
@[simp] theorem State.setCluster_invals (i : Nat) (k : Cluster) : (s.setCluster i k).invals = s.invals := rfl
@[simp] theorem State.setCluster_ports (i : Nat) (k : Cluster) : (s.setCluster i k).ports = s.ports := rfl
@[simp] theorem State.setCluster_seqs (i : Nat) (k : Cluster) : (s.setCluster i k).seqs = s.seqs := rfl
@[simp] theorem State.setCluster_links (i : Nat) (k : Cluster) : (s.setCluster i k).links = s.links := rfl
@[simp] theorem State.setCluster_farLinks (i : Nat) (k : Cluster) : (s.setCluster i k).farLinks = s.farLinks := rfl
@[simp] theorem State.setCluster_narrow (i : Nat) (k : Cluster) : (s.setCluster i k).narrow = s.narrow := rfl
@[simp] theorem State.setCluster_narrowAsked (i : Nat) (k : Cluster) : (s.setCluster i k).narrowAsked = s.narrowAsked := rfl
@[simp] theorem State.setCluster_mer (i : Nat) (k : Cluster) : (s.setCluster i k).mer = s.mer := rfl
@[simp] theorem State.setCluster_gang (i : Nat) (k : Cluster) : (s.setCluster i k).gang = s.gang := rfl
@[simp] theorem State.setCluster_mod (i : Nat) (k : Cluster) : (s.setCluster i k).mod = s.mod := rfl
@[simp] theorem State.setCluster_agenda (i : Nat) (k : Cluster) : (s.setCluster i k).agenda = s.agenda := rfl
@[simp] theorem State.setCluster_now (i : Nat) (k : Cluster) : (s.setCluster i k).now = s.now := rfl
@[simp] theorem State.setCluster_nextId (i : Nat) (k : Cluster) : (s.setCluster i k).nextId = s.nextId := rfl
@[simp] theorem State.setCluster_freeCtr (i : Nat) (k : Cluster) : (s.setCluster i k).freeCtr = s.freeCtr := rfl
@[simp] theorem State.setCluster_cur (i : Nat) (k : Cluster) : (s.setCluster i k).cur = s.cur := rfl
@[simp] theorem State.setCluster_iss (i : Nat) (k : Cluster) : (s.setCluster i k).iss = s.iss := rfl

/-! ### setDie -/

@[simp] theorem State.setDie_cores (i : Nat) (d : Die) : (s.setDie i d).cores = s.cores := rfl
@[simp] theorem State.setDie_clusters (i : Nat) (d : Die) : (s.setDie i d).clusters = s.clusters := rfl
@[simp] theorem State.setDie_mem (i : Nat) (d : Die) : (s.setDie i d).mem = s.mem := rfl
@[simp] theorem State.setDie_relief (i : Nat) (d : Die) : (s.setDie i d).relief = s.relief := rfl
@[simp] theorem State.setDie_complexes (i : Nat) (d : Die) : (s.setDie i d).complexes = s.complexes := rfl
@[simp] theorem State.setDie_chanCache (i : Nat) (d : Die) : (s.setDie i d).chanCache = s.chanCache := rfl
@[simp] theorem State.setDie_cmds (i : Nat) (d : Die) : (s.setDie i d).cmds = s.cmds := rfl
@[simp] theorem State.setDie_colls (i : Nat) (d : Die) : (s.setDie i d).colls = s.colls := rfl
@[simp] theorem State.setDie_trees (i : Nat) (d : Die) : (s.setDie i d).trees = s.trees := rfl
@[simp] theorem State.setDie_posts (i : Nat) (d : Die) : (s.setDie i d).posts = s.posts := rfl
@[simp] theorem State.setDie_nodes (i : Nat) (d : Die) : (s.setDie i d).nodes = s.nodes := rfl
@[simp] theorem State.setDie_launches (i : Nat) (d : Die) : (s.setDie i d).launches = s.launches := rfl
@[simp] theorem State.setDie_saved (i : Nat) (d : Die) : (s.setDie i d).saved = s.saved := rfl
@[simp] theorem State.setDie_restores (i : Nat) (d : Die) : (s.setDie i d).restores = s.restores := rfl
@[simp] theorem State.setDie_images (i : Nat) (d : Die) : (s.setDie i d).images = s.images := rfl
@[simp] theorem State.setDie_reserved (i : Nat) (d : Die) : (s.setDie i d).reserved = s.reserved := rfl
@[simp] theorem State.setDie_msgs (i : Nat) (d : Die) : (s.setDie i d).msgs = s.msgs := rfl
@[simp] theorem State.setDie_invals (i : Nat) (d : Die) : (s.setDie i d).invals = s.invals := rfl
@[simp] theorem State.setDie_ports (i : Nat) (d : Die) : (s.setDie i d).ports = s.ports := rfl
@[simp] theorem State.setDie_seqs (i : Nat) (d : Die) : (s.setDie i d).seqs = s.seqs := rfl
@[simp] theorem State.setDie_links (i : Nat) (d : Die) : (s.setDie i d).links = s.links := rfl
@[simp] theorem State.setDie_farLinks (i : Nat) (d : Die) : (s.setDie i d).farLinks = s.farLinks := rfl
@[simp] theorem State.setDie_narrow (i : Nat) (d : Die) : (s.setDie i d).narrow = s.narrow := rfl
@[simp] theorem State.setDie_narrowAsked (i : Nat) (d : Die) : (s.setDie i d).narrowAsked = s.narrowAsked := rfl
@[simp] theorem State.setDie_mer (i : Nat) (d : Die) : (s.setDie i d).mer = s.mer := rfl
@[simp] theorem State.setDie_gang (i : Nat) (d : Die) : (s.setDie i d).gang = s.gang := rfl
@[simp] theorem State.setDie_mod (i : Nat) (d : Die) : (s.setDie i d).mod = s.mod := rfl
@[simp] theorem State.setDie_agenda (i : Nat) (d : Die) : (s.setDie i d).agenda = s.agenda := rfl
@[simp] theorem State.setDie_now (i : Nat) (d : Die) : (s.setDie i d).now = s.now := rfl
@[simp] theorem State.setDie_nextId (i : Nat) (d : Die) : (s.setDie i d).nextId = s.nextId := rfl
@[simp] theorem State.setDie_freeCtr (i : Nat) (d : Die) : (s.setDie i d).freeCtr = s.freeCtr := rfl
@[simp] theorem State.setDie_cur (i : Nat) (d : Die) : (s.setDie i d).cur = s.cur := rfl
@[simp] theorem State.setDie_iss (i : Nat) (d : Die) : (s.setDie i d).iss = s.iss := rfl

/-! ### setStack -/

@[simp] theorem State.setStack_cores (i : Nat) (d : Stack) : (s.setStack i d).cores = s.cores := rfl
@[simp] theorem State.setStack_clusters (i : Nat) (d : Stack) : (s.setStack i d).clusters = s.clusters := rfl
@[simp] theorem State.setStack_mem (i : Nat) (d : Stack) : (s.setStack i d).mem = s.mem := rfl
@[simp] theorem State.setStack_relief (i : Nat) (d : Stack) : (s.setStack i d).relief = s.relief := rfl
@[simp] theorem State.setStack_dies (i : Nat) (d : Stack) : (s.setStack i d).dies = s.dies := rfl
@[simp] theorem State.setStack_chanCache (i : Nat) (d : Stack) : (s.setStack i d).chanCache = s.chanCache := rfl
@[simp] theorem State.setStack_cmds (i : Nat) (d : Stack) : (s.setStack i d).cmds = s.cmds := rfl
@[simp] theorem State.setStack_colls (i : Nat) (d : Stack) : (s.setStack i d).colls = s.colls := rfl
@[simp] theorem State.setStack_trees (i : Nat) (d : Stack) : (s.setStack i d).trees = s.trees := rfl
@[simp] theorem State.setStack_posts (i : Nat) (d : Stack) : (s.setStack i d).posts = s.posts := rfl
@[simp] theorem State.setStack_nodes (i : Nat) (d : Stack) : (s.setStack i d).nodes = s.nodes := rfl
@[simp] theorem State.setStack_launches (i : Nat) (d : Stack) : (s.setStack i d).launches = s.launches := rfl
@[simp] theorem State.setStack_saved (i : Nat) (d : Stack) : (s.setStack i d).saved = s.saved := rfl
@[simp] theorem State.setStack_restores (i : Nat) (d : Stack) : (s.setStack i d).restores = s.restores := rfl
@[simp] theorem State.setStack_images (i : Nat) (d : Stack) : (s.setStack i d).images = s.images := rfl
@[simp] theorem State.setStack_reserved (i : Nat) (d : Stack) : (s.setStack i d).reserved = s.reserved := rfl
@[simp] theorem State.setStack_msgs (i : Nat) (d : Stack) : (s.setStack i d).msgs = s.msgs := rfl
@[simp] theorem State.setStack_invals (i : Nat) (d : Stack) : (s.setStack i d).invals = s.invals := rfl
@[simp] theorem State.setStack_ports (i : Nat) (d : Stack) : (s.setStack i d).ports = s.ports := rfl
@[simp] theorem State.setStack_seqs (i : Nat) (d : Stack) : (s.setStack i d).seqs = s.seqs := rfl
@[simp] theorem State.setStack_links (i : Nat) (d : Stack) : (s.setStack i d).links = s.links := rfl
@[simp] theorem State.setStack_farLinks (i : Nat) (d : Stack) : (s.setStack i d).farLinks = s.farLinks := rfl
@[simp] theorem State.setStack_narrow (i : Nat) (d : Stack) : (s.setStack i d).narrow = s.narrow := rfl
@[simp] theorem State.setStack_narrowAsked (i : Nat) (d : Stack) : (s.setStack i d).narrowAsked = s.narrowAsked := rfl
@[simp] theorem State.setStack_mer (i : Nat) (d : Stack) : (s.setStack i d).mer = s.mer := rfl
@[simp] theorem State.setStack_gang (i : Nat) (d : Stack) : (s.setStack i d).gang = s.gang := rfl
@[simp] theorem State.setStack_mod (i : Nat) (d : Stack) : (s.setStack i d).mod = s.mod := rfl
@[simp] theorem State.setStack_agenda (i : Nat) (d : Stack) : (s.setStack i d).agenda = s.agenda := rfl
@[simp] theorem State.setStack_now (i : Nat) (d : Stack) : (s.setStack i d).now = s.now := rfl
@[simp] theorem State.setStack_nextId (i : Nat) (d : Stack) : (s.setStack i d).nextId = s.nextId := rfl
@[simp] theorem State.setStack_freeCtr (i : Nat) (d : Stack) : (s.setStack i d).freeCtr = s.freeCtr := rfl
@[simp] theorem State.setStack_cur (i : Nat) (d : Stack) : (s.setStack i d).cur = s.cur := rfl
@[simp] theorem State.setStack_iss (i : Nat) (d : Stack) : (s.setStack i d).iss = s.iss := rfl

/-! ### setPort -/

@[simp] theorem State.setPort_cores (i : Nat) (d : Port) : (s.setPort i d).cores = s.cores := rfl
@[simp] theorem State.setPort_clusters (i : Nat) (d : Port) : (s.setPort i d).clusters = s.clusters := rfl
@[simp] theorem State.setPort_mem (i : Nat) (d : Port) : (s.setPort i d).mem = s.mem := rfl
@[simp] theorem State.setPort_relief (i : Nat) (d : Port) : (s.setPort i d).relief = s.relief := rfl
@[simp] theorem State.setPort_dies (i : Nat) (d : Port) : (s.setPort i d).dies = s.dies := rfl
@[simp] theorem State.setPort_complexes (i : Nat) (d : Port) : (s.setPort i d).complexes = s.complexes := rfl
@[simp] theorem State.setPort_chanCache (i : Nat) (d : Port) : (s.setPort i d).chanCache = s.chanCache := rfl
@[simp] theorem State.setPort_cmds (i : Nat) (d : Port) : (s.setPort i d).cmds = s.cmds := rfl
@[simp] theorem State.setPort_colls (i : Nat) (d : Port) : (s.setPort i d).colls = s.colls := rfl
@[simp] theorem State.setPort_trees (i : Nat) (d : Port) : (s.setPort i d).trees = s.trees := rfl
@[simp] theorem State.setPort_posts (i : Nat) (d : Port) : (s.setPort i d).posts = s.posts := rfl
@[simp] theorem State.setPort_nodes (i : Nat) (d : Port) : (s.setPort i d).nodes = s.nodes := rfl
@[simp] theorem State.setPort_launches (i : Nat) (d : Port) : (s.setPort i d).launches = s.launches := rfl
@[simp] theorem State.setPort_saved (i : Nat) (d : Port) : (s.setPort i d).saved = s.saved := rfl
@[simp] theorem State.setPort_restores (i : Nat) (d : Port) : (s.setPort i d).restores = s.restores := rfl
@[simp] theorem State.setPort_images (i : Nat) (d : Port) : (s.setPort i d).images = s.images := rfl
@[simp] theorem State.setPort_reserved (i : Nat) (d : Port) : (s.setPort i d).reserved = s.reserved := rfl
@[simp] theorem State.setPort_msgs (i : Nat) (d : Port) : (s.setPort i d).msgs = s.msgs := rfl
@[simp] theorem State.setPort_invals (i : Nat) (d : Port) : (s.setPort i d).invals = s.invals := rfl
@[simp] theorem State.setPort_seqs (i : Nat) (d : Port) : (s.setPort i d).seqs = s.seqs := rfl
@[simp] theorem State.setPort_links (i : Nat) (d : Port) : (s.setPort i d).links = s.links := rfl
@[simp] theorem State.setPort_farLinks (i : Nat) (d : Port) : (s.setPort i d).farLinks = s.farLinks := rfl
@[simp] theorem State.setPort_narrow (i : Nat) (d : Port) : (s.setPort i d).narrow = s.narrow := rfl
@[simp] theorem State.setPort_narrowAsked (i : Nat) (d : Port) : (s.setPort i d).narrowAsked = s.narrowAsked := rfl
@[simp] theorem State.setPort_mer (i : Nat) (d : Port) : (s.setPort i d).mer = s.mer := rfl
@[simp] theorem State.setPort_gang (i : Nat) (d : Port) : (s.setPort i d).gang = s.gang := rfl
@[simp] theorem State.setPort_mod (i : Nat) (d : Port) : (s.setPort i d).mod = s.mod := rfl
@[simp] theorem State.setPort_agenda (i : Nat) (d : Port) : (s.setPort i d).agenda = s.agenda := rfl
@[simp] theorem State.setPort_now (i : Nat) (d : Port) : (s.setPort i d).now = s.now := rfl
@[simp] theorem State.setPort_nextId (i : Nat) (d : Port) : (s.setPort i d).nextId = s.nextId := rfl
@[simp] theorem State.setPort_freeCtr (i : Nat) (d : Port) : (s.setPort i d).freeCtr = s.freeCtr := rfl
@[simp] theorem State.setPort_cur (i : Nat) (d : Port) : (s.setPort i d).cur = s.cur := rfl
@[simp] theorem State.setPort_iss (i : Nat) (d : Port) : (s.setPort i d).iss = s.iss := rfl

/-! ### setBlockReg -/

@[simp] theorem State.setBlockReg_cores (off : Nat) (v : Word) : (s.setBlockReg off v).cores = s.cores := rfl
@[simp] theorem State.setBlockReg_clusters (off : Nat) (v : Word) : (s.setBlockReg off v).clusters = s.clusters := rfl
@[simp] theorem State.setBlockReg_mem (off : Nat) (v : Word) : (s.setBlockReg off v).mem = s.mem := rfl
@[simp] theorem State.setBlockReg_relief (off : Nat) (v : Word) : (s.setBlockReg off v).relief = s.relief := rfl
@[simp] theorem State.setBlockReg_dies (off : Nat) (v : Word) : (s.setBlockReg off v).dies = s.dies := rfl
@[simp] theorem State.setBlockReg_complexes (off : Nat) (v : Word) : (s.setBlockReg off v).complexes = s.complexes := rfl
@[simp] theorem State.setBlockReg_chanCache (off : Nat) (v : Word) : (s.setBlockReg off v).chanCache = s.chanCache := rfl
@[simp] theorem State.setBlockReg_cmds (off : Nat) (v : Word) : (s.setBlockReg off v).cmds = s.cmds := rfl
@[simp] theorem State.setBlockReg_colls (off : Nat) (v : Word) : (s.setBlockReg off v).colls = s.colls := rfl
@[simp] theorem State.setBlockReg_trees (off : Nat) (v : Word) : (s.setBlockReg off v).trees = s.trees := rfl
@[simp] theorem State.setBlockReg_posts (off : Nat) (v : Word) : (s.setBlockReg off v).posts = s.posts := rfl
@[simp] theorem State.setBlockReg_nodes (off : Nat) (v : Word) : (s.setBlockReg off v).nodes = s.nodes := rfl
@[simp] theorem State.setBlockReg_launches (off : Nat) (v : Word) : (s.setBlockReg off v).launches = s.launches := rfl
@[simp] theorem State.setBlockReg_saved (off : Nat) (v : Word) : (s.setBlockReg off v).saved = s.saved := rfl
@[simp] theorem State.setBlockReg_restores (off : Nat) (v : Word) : (s.setBlockReg off v).restores = s.restores := rfl
@[simp] theorem State.setBlockReg_images (off : Nat) (v : Word) : (s.setBlockReg off v).images = s.images := rfl
@[simp] theorem State.setBlockReg_reserved (off : Nat) (v : Word) : (s.setBlockReg off v).reserved = s.reserved := rfl
@[simp] theorem State.setBlockReg_msgs (off : Nat) (v : Word) : (s.setBlockReg off v).msgs = s.msgs := rfl
@[simp] theorem State.setBlockReg_invals (off : Nat) (v : Word) : (s.setBlockReg off v).invals = s.invals := rfl
@[simp] theorem State.setBlockReg_ports (off : Nat) (v : Word) : (s.setBlockReg off v).ports = s.ports := rfl
@[simp] theorem State.setBlockReg_seqs (off : Nat) (v : Word) : (s.setBlockReg off v).seqs = s.seqs := rfl
@[simp] theorem State.setBlockReg_links (off : Nat) (v : Word) : (s.setBlockReg off v).links = s.links := rfl
@[simp] theorem State.setBlockReg_farLinks (off : Nat) (v : Word) : (s.setBlockReg off v).farLinks = s.farLinks := rfl
@[simp] theorem State.setBlockReg_narrow (off : Nat) (v : Word) : (s.setBlockReg off v).narrow = s.narrow := rfl
@[simp] theorem State.setBlockReg_narrowAsked (off : Nat) (v : Word) : (s.setBlockReg off v).narrowAsked = s.narrowAsked := rfl
@[simp] theorem State.setBlockReg_mer (off : Nat) (v : Word) : (s.setBlockReg off v).mer = s.mer := rfl
@[simp] theorem State.setBlockReg_gang (off : Nat) (v : Word) : (s.setBlockReg off v).gang = s.gang := rfl
@[simp] theorem State.setBlockReg_agenda (off : Nat) (v : Word) : (s.setBlockReg off v).agenda = s.agenda := rfl
@[simp] theorem State.setBlockReg_now (off : Nat) (v : Word) : (s.setBlockReg off v).now = s.now := rfl
@[simp] theorem State.setBlockReg_nextId (off : Nat) (v : Word) : (s.setBlockReg off v).nextId = s.nextId := rfl
@[simp] theorem State.setBlockReg_freeCtr (off : Nat) (v : Word) : (s.setBlockReg off v).freeCtr = s.freeCtr := rfl
@[simp] theorem State.setBlockReg_cur (off : Nat) (v : Word) : (s.setBlockReg off v).cur = s.cur := rfl
@[simp] theorem State.setBlockReg_iss (off : Nat) (v : Word) : (s.setBlockReg off v).iss = s.iss := rfl

/-! ### setCmd -/

@[simp] theorem State.setCmd_cores (k : Cmd) : (s.setCmd k).cores = s.cores := rfl
@[simp] theorem State.setCmd_clusters (k : Cmd) : (s.setCmd k).clusters = s.clusters := rfl
@[simp] theorem State.setCmd_mem (k : Cmd) : (s.setCmd k).mem = s.mem := rfl
@[simp] theorem State.setCmd_relief (k : Cmd) : (s.setCmd k).relief = s.relief := rfl
@[simp] theorem State.setCmd_dies (k : Cmd) : (s.setCmd k).dies = s.dies := rfl
@[simp] theorem State.setCmd_complexes (k : Cmd) : (s.setCmd k).complexes = s.complexes := rfl
@[simp] theorem State.setCmd_chanCache (k : Cmd) : (s.setCmd k).chanCache = s.chanCache := rfl
@[simp] theorem State.setCmd_colls (k : Cmd) : (s.setCmd k).colls = s.colls := rfl
@[simp] theorem State.setCmd_trees (k : Cmd) : (s.setCmd k).trees = s.trees := rfl
@[simp] theorem State.setCmd_posts (k : Cmd) : (s.setCmd k).posts = s.posts := rfl
@[simp] theorem State.setCmd_nodes (k : Cmd) : (s.setCmd k).nodes = s.nodes := rfl
@[simp] theorem State.setCmd_launches (k : Cmd) : (s.setCmd k).launches = s.launches := rfl
@[simp] theorem State.setCmd_saved (k : Cmd) : (s.setCmd k).saved = s.saved := rfl
@[simp] theorem State.setCmd_restores (k : Cmd) : (s.setCmd k).restores = s.restores := rfl
@[simp] theorem State.setCmd_images (k : Cmd) : (s.setCmd k).images = s.images := rfl
@[simp] theorem State.setCmd_reserved (k : Cmd) : (s.setCmd k).reserved = s.reserved := rfl
@[simp] theorem State.setCmd_msgs (k : Cmd) : (s.setCmd k).msgs = s.msgs := rfl
@[simp] theorem State.setCmd_invals (k : Cmd) : (s.setCmd k).invals = s.invals := rfl
@[simp] theorem State.setCmd_ports (k : Cmd) : (s.setCmd k).ports = s.ports := rfl
@[simp] theorem State.setCmd_seqs (k : Cmd) : (s.setCmd k).seqs = s.seqs := rfl
@[simp] theorem State.setCmd_links (k : Cmd) : (s.setCmd k).links = s.links := rfl
@[simp] theorem State.setCmd_farLinks (k : Cmd) : (s.setCmd k).farLinks = s.farLinks := rfl
@[simp] theorem State.setCmd_narrow (k : Cmd) : (s.setCmd k).narrow = s.narrow := rfl
@[simp] theorem State.setCmd_narrowAsked (k : Cmd) : (s.setCmd k).narrowAsked = s.narrowAsked := rfl
@[simp] theorem State.setCmd_mer (k : Cmd) : (s.setCmd k).mer = s.mer := rfl
@[simp] theorem State.setCmd_gang (k : Cmd) : (s.setCmd k).gang = s.gang := rfl
@[simp] theorem State.setCmd_mod (k : Cmd) : (s.setCmd k).mod = s.mod := rfl
@[simp] theorem State.setCmd_agenda (k : Cmd) : (s.setCmd k).agenda = s.agenda := rfl
@[simp] theorem State.setCmd_now (k : Cmd) : (s.setCmd k).now = s.now := rfl
@[simp] theorem State.setCmd_nextId (k : Cmd) : (s.setCmd k).nextId = s.nextId := rfl
@[simp] theorem State.setCmd_freeCtr (k : Cmd) : (s.setCmd k).freeCtr = s.freeCtr := rfl
@[simp] theorem State.setCmd_cur (k : Cmd) : (s.setCmd k).cur = s.cur := rfl
@[simp] theorem State.setCmd_iss (k : Cmd) : (s.setCmd k).iss = s.iss := rfl

/-! ### passStage -/

@[simp] theorem State.passStage_clusters (i : Nat) : (s.passStage i).clusters = s.clusters := rfl
@[simp] theorem State.passStage_mem (i : Nat) : (s.passStage i).mem = s.mem := rfl
@[simp] theorem State.passStage_relief (i : Nat) : (s.passStage i).relief = s.relief := rfl
@[simp] theorem State.passStage_dies (i : Nat) : (s.passStage i).dies = s.dies := rfl
@[simp] theorem State.passStage_complexes (i : Nat) : (s.passStage i).complexes = s.complexes := rfl
@[simp] theorem State.passStage_chanCache (i : Nat) : (s.passStage i).chanCache = s.chanCache := rfl
@[simp] theorem State.passStage_cmds (i : Nat) : (s.passStage i).cmds = s.cmds := rfl
@[simp] theorem State.passStage_colls (i : Nat) : (s.passStage i).colls = s.colls := rfl
@[simp] theorem State.passStage_trees (i : Nat) : (s.passStage i).trees = s.trees := rfl
@[simp] theorem State.passStage_posts (i : Nat) : (s.passStage i).posts = s.posts := rfl
@[simp] theorem State.passStage_nodes (i : Nat) : (s.passStage i).nodes = s.nodes := rfl
@[simp] theorem State.passStage_launches (i : Nat) : (s.passStage i).launches = s.launches := rfl
@[simp] theorem State.passStage_saved (i : Nat) : (s.passStage i).saved = s.saved := rfl
@[simp] theorem State.passStage_restores (i : Nat) : (s.passStage i).restores = s.restores := rfl
@[simp] theorem State.passStage_images (i : Nat) : (s.passStage i).images = s.images := rfl
@[simp] theorem State.passStage_reserved (i : Nat) : (s.passStage i).reserved = s.reserved := rfl
@[simp] theorem State.passStage_msgs (i : Nat) : (s.passStage i).msgs = s.msgs := rfl
@[simp] theorem State.passStage_invals (i : Nat) : (s.passStage i).invals = s.invals := rfl
@[simp] theorem State.passStage_ports (i : Nat) : (s.passStage i).ports = s.ports := rfl
@[simp] theorem State.passStage_seqs (i : Nat) : (s.passStage i).seqs = s.seqs := rfl
@[simp] theorem State.passStage_links (i : Nat) : (s.passStage i).links = s.links := rfl
@[simp] theorem State.passStage_farLinks (i : Nat) : (s.passStage i).farLinks = s.farLinks := rfl
@[simp] theorem State.passStage_narrow (i : Nat) : (s.passStage i).narrow = s.narrow := rfl
@[simp] theorem State.passStage_narrowAsked (i : Nat) : (s.passStage i).narrowAsked = s.narrowAsked := rfl
@[simp] theorem State.passStage_mer (i : Nat) : (s.passStage i).mer = s.mer := rfl
@[simp] theorem State.passStage_gang (i : Nat) : (s.passStage i).gang = s.gang := rfl
@[simp] theorem State.passStage_mod (i : Nat) : (s.passStage i).mod = s.mod := rfl
@[simp] theorem State.passStage_agenda (i : Nat) : (s.passStage i).agenda = s.agenda := rfl
@[simp] theorem State.passStage_now (i : Nat) : (s.passStage i).now = s.now := rfl
@[simp] theorem State.passStage_nextId (i : Nat) : (s.passStage i).nextId = s.nextId := rfl
@[simp] theorem State.passStage_freeCtr (i : Nat) : (s.passStage i).freeCtr = s.freeCtr := rfl
@[simp] theorem State.passStage_cur (i : Nat) : (s.passStage i).cur = s.cur := rfl
@[simp] theorem State.passStage_iss (i : Nat) : (s.passStage i).iss = s.iss := rfl

/-! ### branch -/

@[simp] theorem State.branch_cores (t : Word) (n : Nat) : (s.branch t n).cores = s.cores := rfl
@[simp] theorem State.branch_clusters (t : Word) (n : Nat) : (s.branch t n).clusters = s.clusters := rfl
@[simp] theorem State.branch_mem (t : Word) (n : Nat) : (s.branch t n).mem = s.mem := rfl
@[simp] theorem State.branch_relief (t : Word) (n : Nat) : (s.branch t n).relief = s.relief := rfl
@[simp] theorem State.branch_dies (t : Word) (n : Nat) : (s.branch t n).dies = s.dies := rfl
@[simp] theorem State.branch_complexes (t : Word) (n : Nat) : (s.branch t n).complexes = s.complexes := rfl
@[simp] theorem State.branch_chanCache (t : Word) (n : Nat) : (s.branch t n).chanCache = s.chanCache := rfl
@[simp] theorem State.branch_cmds (t : Word) (n : Nat) : (s.branch t n).cmds = s.cmds := rfl
@[simp] theorem State.branch_colls (t : Word) (n : Nat) : (s.branch t n).colls = s.colls := rfl
@[simp] theorem State.branch_trees (t : Word) (n : Nat) : (s.branch t n).trees = s.trees := rfl
@[simp] theorem State.branch_posts (t : Word) (n : Nat) : (s.branch t n).posts = s.posts := rfl
@[simp] theorem State.branch_nodes (t : Word) (n : Nat) : (s.branch t n).nodes = s.nodes := rfl
@[simp] theorem State.branch_launches (t : Word) (n : Nat) : (s.branch t n).launches = s.launches := rfl
@[simp] theorem State.branch_saved (t : Word) (n : Nat) : (s.branch t n).saved = s.saved := rfl
@[simp] theorem State.branch_restores (t : Word) (n : Nat) : (s.branch t n).restores = s.restores := rfl
@[simp] theorem State.branch_images (t : Word) (n : Nat) : (s.branch t n).images = s.images := rfl
@[simp] theorem State.branch_reserved (t : Word) (n : Nat) : (s.branch t n).reserved = s.reserved := rfl
@[simp] theorem State.branch_msgs (t : Word) (n : Nat) : (s.branch t n).msgs = s.msgs := rfl
@[simp] theorem State.branch_invals (t : Word) (n : Nat) : (s.branch t n).invals = s.invals := rfl
@[simp] theorem State.branch_ports (t : Word) (n : Nat) : (s.branch t n).ports = s.ports := rfl
@[simp] theorem State.branch_seqs (t : Word) (n : Nat) : (s.branch t n).seqs = s.seqs := rfl
@[simp] theorem State.branch_links (t : Word) (n : Nat) : (s.branch t n).links = s.links := rfl
@[simp] theorem State.branch_farLinks (t : Word) (n : Nat) : (s.branch t n).farLinks = s.farLinks := rfl
@[simp] theorem State.branch_narrow (t : Word) (n : Nat) : (s.branch t n).narrow = s.narrow := rfl
@[simp] theorem State.branch_narrowAsked (t : Word) (n : Nat) : (s.branch t n).narrowAsked = s.narrowAsked := rfl
@[simp] theorem State.branch_mer (t : Word) (n : Nat) : (s.branch t n).mer = s.mer := rfl
@[simp] theorem State.branch_gang (t : Word) (n : Nat) : (s.branch t n).gang = s.gang := rfl
@[simp] theorem State.branch_mod (t : Word) (n : Nat) : (s.branch t n).mod = s.mod := rfl
@[simp] theorem State.branch_agenda (t : Word) (n : Nat) : (s.branch t n).agenda = s.agenda := rfl
@[simp] theorem State.branch_now (t : Word) (n : Nat) : (s.branch t n).now = s.now := rfl
@[simp] theorem State.branch_nextId (t : Word) (n : Nat) : (s.branch t n).nextId = s.nextId := rfl
@[simp] theorem State.branch_freeCtr (t : Word) (n : Nat) : (s.branch t n).freeCtr = s.freeCtr := rfl
@[simp] theorem State.branch_cur (t : Word) (n : Nat) : (s.branch t n).cur = s.cur := rfl

/-! ### focus -/

@[simp] theorem State.focus_cores (r : CtxRef) : (s.focus r).cores = s.cores := rfl
@[simp] theorem State.focus_clusters (r : CtxRef) : (s.focus r).clusters = s.clusters := rfl
@[simp] theorem State.focus_mem (r : CtxRef) : (s.focus r).mem = s.mem := rfl
@[simp] theorem State.focus_relief (r : CtxRef) : (s.focus r).relief = s.relief := rfl
@[simp] theorem State.focus_dies (r : CtxRef) : (s.focus r).dies = s.dies := rfl
@[simp] theorem State.focus_complexes (r : CtxRef) : (s.focus r).complexes = s.complexes := rfl
@[simp] theorem State.focus_chanCache (r : CtxRef) : (s.focus r).chanCache = s.chanCache := rfl
@[simp] theorem State.focus_cmds (r : CtxRef) : (s.focus r).cmds = s.cmds := rfl
@[simp] theorem State.focus_colls (r : CtxRef) : (s.focus r).colls = s.colls := rfl
@[simp] theorem State.focus_trees (r : CtxRef) : (s.focus r).trees = s.trees := rfl
@[simp] theorem State.focus_posts (r : CtxRef) : (s.focus r).posts = s.posts := rfl
@[simp] theorem State.focus_nodes (r : CtxRef) : (s.focus r).nodes = s.nodes := rfl
@[simp] theorem State.focus_launches (r : CtxRef) : (s.focus r).launches = s.launches := rfl
@[simp] theorem State.focus_saved (r : CtxRef) : (s.focus r).saved = s.saved := rfl
@[simp] theorem State.focus_restores (r : CtxRef) : (s.focus r).restores = s.restores := rfl
@[simp] theorem State.focus_images (r : CtxRef) : (s.focus r).images = s.images := rfl
@[simp] theorem State.focus_reserved (r : CtxRef) : (s.focus r).reserved = s.reserved := rfl
@[simp] theorem State.focus_msgs (r : CtxRef) : (s.focus r).msgs = s.msgs := rfl
@[simp] theorem State.focus_invals (r : CtxRef) : (s.focus r).invals = s.invals := rfl
@[simp] theorem State.focus_ports (r : CtxRef) : (s.focus r).ports = s.ports := rfl
@[simp] theorem State.focus_seqs (r : CtxRef) : (s.focus r).seqs = s.seqs := rfl
@[simp] theorem State.focus_links (r : CtxRef) : (s.focus r).links = s.links := rfl
@[simp] theorem State.focus_farLinks (r : CtxRef) : (s.focus r).farLinks = s.farLinks := rfl
@[simp] theorem State.focus_narrow (r : CtxRef) : (s.focus r).narrow = s.narrow := rfl
@[simp] theorem State.focus_narrowAsked (r : CtxRef) : (s.focus r).narrowAsked = s.narrowAsked := rfl
@[simp] theorem State.focus_mer (r : CtxRef) : (s.focus r).mer = s.mer := rfl
@[simp] theorem State.focus_gang (r : CtxRef) : (s.focus r).gang = s.gang := rfl
@[simp] theorem State.focus_mod (r : CtxRef) : (s.focus r).mod = s.mod := rfl
@[simp] theorem State.focus_agenda (r : CtxRef) : (s.focus r).agenda = s.agenda := rfl
@[simp] theorem State.focus_now (r : CtxRef) : (s.focus r).now = s.now := rfl
@[simp] theorem State.focus_nextId (r : CtxRef) : (s.focus r).nextId = s.nextId := rfl
@[simp] theorem State.focus_freeCtr (r : CtxRef) : (s.focus r).freeCtr = s.freeCtr := rfl

/-! ### Reading after an update -/

theorem State.core_setCore (i j : Nat) (k : Core) : (s.setCore i k).core j = if j = i then k else s.core j :=
  Sparse.get_put
@[simp] theorem State.core_setCore_same (i : Nat) (k : Core) : (s.setCore i k).core i = k := Sparse.get_put_same
theorem State.core_setCore_other {i j : Nat} (k : Core) (h : j ≠ i) : (s.setCore i k).core j = s.core j :=
  Sparse.get_put_other h
theorem Core.ctx_setCtx (k : Core) (i j : Nat) (c : Ctx) : (k.setCtx i c).ctx j = if j = i then c else k.ctx j :=
  Sparse.get_put
@[simp] theorem Core.ctx_setCtx_same (k : Core) (i : Nat) (c : Ctx) : (k.setCtx i c).ctx i = c := Sparse.get_put_same

@[simp] theorem State.ctx_setCtx_same (r : CtxRef) (c : Ctx) : (s.setCtx r c).ctx r = c := by
  simp [State.ctx, State.setCtx]
theorem State.ctx_setCtx_other {r q : CtxRef} (c : Ctx) (h : q ≠ r) : (s.setCtx r c).ctx q = s.ctx q := by
  obtain ⟨a, b⟩ := r
  obtain ⟨i, j⟩ := q
  unfold State.ctx State.setCtx
  by_cases hi : i = a
  · subst hi
    rw [State.core_setCore_same, Core.ctx_setCtx, if_neg]
    rintro rfl
    exact h rfl
  · rw [State.core_setCore_other _ _ hi]
@[simp] theorem State.ctx_modCtx_same (r : CtxRef) (f : Ctx → Ctx) : (s.modCtx r f).ctx r = f (s.ctx r) :=
  State.ctx_setCtx_same s r _
theorem State.ctx_modCtx_other {r q : CtxRef} (f : Ctx → Ctx) (h : q ≠ r) : (s.modCtx r f).ctx q = s.ctx q :=
  State.ctx_setCtx_other s _ h
@[simp] theorem State.me_setMe (f : Ctx → Ctx) : (s.setMe f).me = f s.me := State.ctx_modCtx_same s s.cur f
@[simp] theorem State.me_put (lat : Nat) (e : Effect) (fl : Flags) : (s.put lat e fl).me = s.me.push lat e fl :=
  State.me_setMe s _
@[simp] theorem State.me_branch (t : Word) (n : Nat) : (s.branch t n).me = s.me := rfl
@[simp] theorem State.core_modCore_same (i : Nat) (f : Core → Core) : (s.modCore i f).core i = f (s.core i) :=
  State.core_setCore_same s i _
theorem State.core_modCore_other {i j : Nat} (f : Core → Core) (h : j ≠ i) : (s.modCore i f).core j = s.core j :=
  State.core_setCore_other s _ h

/-- A context written changes a core only in that context. -/
theorem State.core_setCtx (r : CtxRef) (c : Ctx) (j : Nat) :
    (s.setCtx r c).core j = if j = r.core then (s.core j).setCtx r.ctx c else s.core j := by
  unfold State.setCtx
  rw [State.core_setCore]
  split
  · rename_i h; rw [h]
  · rfl

/-- A core updated outside its contexts keeps every context. -/
theorem State.ctx_modCore (i : Nat) (f : Core → Core) (h : ∀ k, (f k).ctxs = k.ctxs) (r : CtxRef) :
    (s.modCore i f).ctx r = s.ctx r := by
  unfold State.ctx State.modCore
  rw [State.core_setCore]
  split
  · rename_i e; rw [e]; unfold Core.ctx; rw [h]
  · rfl

/-! ### The parts of a core that are not its contexts -/

/-- Two cores agree but for their contexts. -/
def Core.sameUnits (k l : Core) : Prop := k = { l with ctxs := k.ctxs }
theorem Core.sameUnits_setCtx (k : Core) (i : Nat) (c : Ctx) : (k.setCtx i c).sameUnits k := rfl
theorem State.sameUnits_setCtx (r : CtxRef) (c : Ctx) (j : Nat) : ((s.setCtx r c).core j).sameUnits (s.core j) := by
  rw [State.core_setCtx]
  split <;> rfl
theorem State.sameUnits_setMe (f : Ctx → Ctx) (j : Nat) : ((s.setMe f).core j).sameUnits (s.core j) :=
  State.sameUnits_setCtx s _ _ j

/-! ### Clusters, dies, stacks, ports and the module block -/

theorem State.cluster_setCluster (i j : Nat) (k : Cluster) :
    (s.setCluster i k).cluster j = if j = i then k else s.cluster j := Sparse.get_put
theorem State.die_setDie (i j : Nat) (k : Die) : (s.setDie i k).die j = if j = i then k else s.die j := Sparse.get_put
theorem State.stack_setStack (i j : Nat) (k : Stack) :
    (s.setStack i k).stack j = if j = i then k else s.stack j := Sparse.get_put
theorem State.port_setPort (i j : Nat) (k : Port) :
    (s.setPort i k).port j = if j = i then k else s.port j := Sparse.get_put
theorem State.blockReg_setBlockReg (o l : Nat) (v : Word) :
    (s.setBlockReg o v).blockReg l = if l = o then v else s.blockReg l := Sparse.get_set

/-! ### A result on its way (R90) -/

@[simp] theorem Ctx.push_mode (c : Ctx) (lat : Nat) (e : Effect) (fl : Flags) : (c.push lat e fl).mode = c.mode := by
  unfold Ctx.push; split <;> rfl
/-- The line of the running mode grows by one result at its end. -/
theorem Ctx.push_line (c : Ctx) (lat : Nat) (e : Effect) (fl : Flags) :
    (c.push lat e fl).curLine = c.curLine ++ [{ due := c.clock + lat, eff := e, flags := fl }] := by
  unfold Ctx.push Ctx.curLine
  cases c.mode <;> rfl
/-- Nothing of a context changes with a result issued but its delay lines. -/
theorem Ctx.push_frame (c : Ctx) (lat : Nat) (e : Effect) (fl : Flags) :
    c.push lat e fl = { c with
      line := (c.push lat e fl).line, sline := (c.push lat e fl).sline, kline := (c.push lat e fl).kline } := by
  unfold Ctx.push; cases c.mode <;> rfl

end Sys2Proof.Machine
end

