-- ==== Sys2Proof/Laws/Issue.lean ====
section
/-! SUPPORT. What the shared operations can do: the issue of a word, a step that is enabled or not, the checks of a
local access, and a result on its way. -/
namespace Sys2Proof.Machine

/-! ### The issue of a word -/

/-- A word that goes and whose checks pass is performed. -/
theorem issue_goes {i : Instr} {g : Guard} {s : State} {check : Verdict} {perform : State → State} (h : Goes i g s)
    (hc : check = .ok) : issue i g s check perform = .next (perform s) := by
  obtain ⟨hg, h⟩ := h
  unfold issue
  by_cases hk : s.iss.checked = true
  · simp [hk, hg]
  · have ha : acceptedIn s.me.mode i = true := h.resolve_left hk
    simp [hk, hg, ha, hc]
/-- A word of a checked group whose guard is false does nothing (R59). -/
theorem issue_skips {i : Instr} {g : Guard} {s : State} {check : Verdict} {perform : State → State}
    (hk : s.iss.checked = true) (hg : s.me.guard g = false) : issue i g s check perform = .next s := by
  simp [issue, hk, hg]
/-- A word of a checked group whose guard holds is performed. -/
theorem issue_checked {i : Instr} {g : Guard} {s : State} {check : Verdict} {perform : State → State}
    (hk : s.iss.checked = true) (hg : s.me.guard g = true) : issue i g s check perform = .next (perform s) := by
  simp [issue, hk, hg]
/-- A word that the mode does not accept raises ILG. -/
theorem issue_unaccepted {i : Instr} {g : Guard} {s : State} {check : Verdict} {perform : State → State}
    (hk : s.iss.checked = false) (ha : acceptedIn s.me.mode i = false) :
    issue i g s check perform = .next (s.takeTrap s.cur (Trap.plain causeILG s.me.at_) s.me.at_) := by
  simp [issue, hk, ha]
/-- A word by itself whose check is a trap takes it. -/
theorem issue_traps {i : Instr} {g : Guard} {s : State} {t : Trap} {perform : State → State}
    (hk : s.iss.checked = false) (ha : acceptedIn s.me.mode i = true) (hg : s.me.guard g = true) :
    issue i g s (.trap t) perform = .next (s.takeTrap s.cur t s.me.at_) := by
  simp only [issue, hk, ha, hg, State.refuse, Bool.not_true, Bool.false_eq_true, if_false, if_true]
  rfl
/-- Every issue answers a next state. -/
theorem issue_next (i : Instr) (g : Guard) (s : State) (check : Verdict) (perform : State → State) :
    ∃ t, issue i g s check perform = .next t := by
  unfold issue
  split
  · exact ⟨_, rfl⟩
  · split
    · exact ⟨_, rfl⟩
    · split <;> exact ⟨_, rfl⟩
theorem whenever_on {b : Bool} {s : State} {f : State → State} (h : b = true) : whenever b s f = .next (f s) := by
  simp [whenever, h]
theorem whenever_off {b : Bool} {s : State} {f : State → State} (h : b = false) : whenever b s f = .next s := by
  simp [whenever, h]
theorem whenever_next (b : Bool) (s : State) (f : State → State) : ∃ t, whenever b s f = .next t := ⟨_, rfl⟩

/-! ### Verdicts -/

@[simp] theorem Verdict.ok_andThen (v : Verdict) : Verdict.ok.andThen v = v := rfl
@[simp] theorem Verdict.trap_andThen (t : Trap) (v : Verdict) : (Verdict.trap t).andThen v = .trap t := rfl
@[simp] theorem trapIf_false (c : Nat) (a : Word) : trapIf false c a = .ok := rfl
@[simp] theorem trapIf_true (c : Nat) (a : Word) : trapIf true c a = .trap (Trap.plain c a) := rfl
@[simp] theorem blockIf_false : blockIf false = .ok := rfl
theorem trapIf_ok {b : Bool} {c : Nat} {a : Word} (h : b = false) : trapIf b c a = .ok := by simp [h]

/-! ### Ownership and gates -/

theorem regionStarts_mem {a n x : Nat} (h : x ∈ regionStarts a n) : a ≤ x ∧ x < a + n := by
  unfold regionStarts at h
  split at h
  · simp at h
  · rename_i hn
    have hn : n ≠ 0 := by simpa using hn
    obtain ⟨i, hi, rfl⟩ := List.mem_map.mp h
    have hi := List.mem_range.mp hi
    unfold regionOf at *
    constructor
    · exact Nat.le_max_left _ _
    · apply Nat.max_lt.mpr ⟨by omega, ?_⟩
      have : (a / 131072 + i) * 131072 ≤ (a + n - 1) / 131072 * 131072 := Nat.mul_le_mul_right _ (by omega)
      omega

/-- The region check passes on ranges whose bytes the context owns. -/
theorem regionCheck_owned {k : Core} {c : Nat} {ranges : List (Nat × Nat)}
    (h : ∀ r ∈ ranges, ∀ b, r.1 ≤ b → b < r.1 + r.2 →
      (k.region (regionOf b)).owner = some c ∧ (k.region (regionOf b)).zeroing = false) :
    k.regionCheck c ranges = .ok := by
  have hv : ∀ x ∈ ranges.flatMap (fun r => regionStarts r.1 r.2), k.regionVerdict c x = .owned := by
    intro x hx
    obtain ⟨r, hr, hx⟩ := List.mem_flatMap.mp hx
    obtain ⟨h1, h2⟩ := regionStarts_mem hx
    obtain ⟨ho, hz⟩ := h r hr x h1 h2
    simp [Core.regionVerdict, ho, hz]
  unfold Core.regionCheck
  have h1 : (ranges.flatMap fun r => regionStarts r.1 r.2).filter (fun a => k.regionVerdict c a == .refused) = [] := by
    rw [List.filter_eq_nil_iff]
    intro x hx
    simp [hv x hx]
  have h2 : (ranges.flatMap fun r => regionStarts r.1 r.2).any (fun a => k.regionVerdict c a == .waiting) = false := by
    rw [List.any_eq_false]
    intro x hx
    simp [hv x hx]
  simp only [h1, h2, blockIf_false]

theorem OwnScratch.check {s : State} {a n : Nat} (h : OwnScratch s a n) :
    s.here.regionCheck s.cur.ctx [(a, n)] = .ok :=
  regionCheck_owned fun r hr b h1 h2 => by
    simp only [List.mem_singleton] at hr
    subst hr
    exact h.2 b h1 h2

/-- With no closed gate an access meets none. -/
theorem NoGate.gateL {s : State} (h : NoGate s) (rs : List (Nat × Nat)) : s.gateL s.cur rs = .ok := by
  have h : s.closedGates s.cur = [] := h
  simp [State.gateL, State.gatesHolding, h, State.gateVerdict]

theorem AllRaw.check {s : State} {a n : Nat} (h : AllRaw s a n) : s.reliefStoreCheck s.cur.core a n = .ok := by
  unfold State.reliefStoreCheck
  by_cases hn : n = 0
  · simp [hn]
  · apply trapIf_ok
    have h1 := h a (by omega) (by omega)
    have h2 := h (a + n - 1) (by omega) (by omega)
    simp [h1, h2]

/-- The checks of a local access pass on an aligned, owned range without closed gates; a store also needs RAW blocks. -/
theorem checkLocal_ok {load : Bool} {a : Word} {size lo n : Nat} {s : State} (ha : a.toNat % size = 0)
    (ho : OwnScratch s (a.toNat + lo) n) (hg : NoGate s) (hr : load = true ∨ AllRaw s (a.toNat + lo) n) :
    checkLocal load a size lo n s = .ok := by
  have hin : inScratch (a.toNat + lo) n = true := by simpa [inScratch] using ho.1
  unfold checkLocal checkLocalAt
  simp only [ha, hin, ho.check, hg.gateL]
  rcases hr with rfl | hr
  · simp
  · cases load <;> simp [hr.check]
theorem checkCluster_ok {load : Bool} {a : Word} {size lo n : Nat} {s : State} (ha : a.toNat % size = 0)
    (ho : OwnCluster s (a.toNat + lo) n) (hg : NoGate s) (hr : load = true ∨ AllRaw s (a.toNat + lo) n) :
    checkCluster load a size lo n s = .ok := by
  unfold checkCluster checkClusterAt
  have ho : s.me.inCluster (a.toNat + lo) n = true := ho
  simp only [ha, ho, hg.gateL]
  rcases hr with rfl | hr
  · simp
  · cases load <;> simp [hr.check]

/-! ### Results on their way -/

theorem onlyInFlight_put (s : State) (lat : Nat) (e : Effect) (fl : Flags) : OnlyInFlight s (s.put lat e fl) := by
  refine ⟨?_, fun r h => State.ctx_modCtx_other s _ h, fun k => ?_, fun _ => rfl, fun k a _ _ => ?_⟩
  · rw [State.me_put]; exact Ctx.push_frame _ _ _ _
  · have h := State.sameUnits_setMe s (fun c => c.push lat e fl) k
    change ((s.put lat e fl).core k) = _ at h
    rw [h]
    exact ⟨rfl, rfl, rfl, rfl, rfl, rfl⟩
  · have h := State.sameUnits_setMe s (fun c => c.push lat e fl) k
    change ((s.put lat e fl).core k) = _ at h
    unfold State.localByte State.localRead Core.read
    simp only [State.cluster, State.put_clusters]
    rw [h]
    rfl

end Sys2Proof.Machine
end

