-- ==== Sys2Proof/Laws/PerInstr.lean ====
section
/-! SUPPORT. The per-instruction family Encodes: which instructions have a word, and that its common fields are those
of the instruction (R55). -/
namespace Sys2Proof.Laws.Encodes

/-- An instruction has an encoding exactly when it is an instruction word, whatever its stop bit. -/
def Statement (i : Instr) : Prop := ∀ st : Bool, (encodeWord st i).isSome = Machine.isWord i

theorem nop (g : Guard) (f : FmtJ) : Statement (.nop g f) := fun _ => rfl
theorem br (g : Guard) (f : FmtJ) : Statement (.br g f) := fun _ => rfl
theorem brc (g : Guard) (f : FmtJ) : Statement (.brc g f) := fun _ => rfl
theorem brm (g : Guard) (f : FmtJ) : Statement (.brm g f) := fun _ => rfl
theorem pbr (g : Guard) (f : FmtJ) : Statement (.pbr g f) := fun _ => rfl
theorem brt (g : Guard) (f : FmtJ) : Statement (.brt g f) := fun _ => rfl
theorem jtb (g : Guard) (f : FmtJ) : Statement (.jtb g f) := fun _ => rfl
theorem lpad (g : Guard) (f : FmtJ) : Statement (.lpad g f) := fun _ => rfl
theorem call (g : Guard) (f : FmtJ) : Statement (.call g f) := fun _ => rfl
theorem ret (g : Guard) (f : FmtJ) : Statement (.ret g f) := fun _ => rfl
theorem lseq (g : Guard) (f : FmtJ) : Statement (.lseq g f) := fun _ => rfl
theorem lbr (g : Guard) (f : FmtJ) : Statement (.lbr g f) := fun _ => rfl
theorem tfence (g : Guard) (f : FmtJ) : Statement (.tfence g f) := fun _ => rfl
theorem pmark (g : Guard) (f : FmtJ) : Statement (.pmark g f) := fun _ => rfl
theorem fence (g : Guard) (f : FmtA) : Statement (.fence g f) := fun _ => rfl
theorem yield (g : Guard) (f : FmtJ) : Statement (.yield g f) := fun _ => rfl
theorem twait (g : Guard) (f : FmtJ) : Statement (.twait g f) := fun _ => rfl
theorem trap (g : Guard) (f : FmtJ) : Statement (.trap g f) := fun _ => rfl
theorem svc (g : Guard) (f : FmtJ) : Statement (.svc g f) := fun _ => rfl
theorem tend (g : Guard) (f : FmtJ) : Statement (.tend g f) := fun _ => rfl
theorem add (g : Guard) (f : FmtA) : Statement (.add g f) := fun _ => rfl
theorem sub (g : Guard) (f : FmtA) : Statement (.sub g f) := fun _ => rfl
theorem mul (g : Guard) (f : FmtA) : Statement (.mul g f) := fun _ => rfl
theorem mulh (g : Guard) (f : FmtA) : Statement (.mulh g f) := fun _ => rfl
theorem div (g : Guard) (f : FmtA) : Statement (.div g f) := fun _ => rfl
theorem rem (g : Guard) (f : FmtA) : Statement (.rem g f) := fun _ => rfl
theorem and (g : Guard) (f : FmtA) : Statement (.and g f) := fun _ => rfl
theorem or (g : Guard) (f : FmtA) : Statement (.or g f) := fun _ => rfl
theorem xor (g : Guard) (f : FmtA) : Statement (.xor g f) := fun _ => rfl
theorem andn (g : Guard) (f : FmtA) : Statement (.andn g f) := fun _ => rfl
theorem shl (g : Guard) (f : FmtA) : Statement (.shl g f) := fun _ => rfl
theorem shr (g : Guard) (f : FmtA) : Statement (.shr g f) := fun _ => rfl
theorem sra (g : Guard) (f : FmtA) : Statement (.sra g f) := fun _ => rfl
theorem rotl (g : Guard) (f : FmtA) : Statement (.rotl g f) := fun _ => rfl
theorem clz (g : Guard) (f : FmtA) : Statement (.clz g f) := fun _ => rfl
theorem popc (g : Guard) (f : FmtA) : Statement (.popc g f) := fun _ => rfl
theorem min (g : Guard) (f : FmtA) : Statement (.min g f) := fun _ => rfl
theorem max (g : Guard) (f : FmtA) : Statement (.max g f) := fun _ => rfl
theorem cmp (g : Guard) (f : FmtA) : Statement (.cmp g f) := fun _ => rfl
theorem sel (g : Guard) (f : FmtA) : Statement (.sel g f) := fun _ => rfl
theorem pand (g : Guard) (f : FmtA) : Statement (.pand g f) := fun _ => rfl
theorem por (g : Guard) (f : FmtA) : Statement (.por g f) := fun _ => rfl
theorem pxor (g : Guard) (f : FmtA) : Statement (.pxor g f) := fun _ => rfl
theorem pnot (g : Guard) (f : FmtA) : Statement (.pnot g f) := fun _ => rfl
theorem mfs (g : Guard) (f : FmtB) : Statement (.mfs g f) := fun _ => rfl
theorem mts (g : Guard) (f : FmtB) : Statement (.mts g f) := fun _ => rfl
theorem mtsSticky (g : Guard) (f : FmtB) : Statement (.mtsSticky g f) := fun _ => rfl
theorem mtsPend (g : Guard) (f : FmtB) : Statement (.mtsPend g f) := fun _ => rfl
theorem regrelWrite (g : Guard) (f : FmtB) : Statement (.regrelWrite g f) := fun _ => rfl
theorem tinvcStart (g : Guard) (f : FmtB) : Statement (.tinvcStart g f) := fun _ => rfl
theorem time (g : Guard) (f : FmtA) : Statement (.time g f) := fun _ => rfl
theorem lea (g : Guard) (f : FmtB) : Statement (.lea g f) := fun _ => rfl
theorem movi (g : Guard) (f : FmtW) : Statement (.movi g f) := fun _ => rfl
theorem moviHi (g : Guard) (f : FmtW) : Statement (.moviHi g f) := fun _ => rfl
theorem addi (g : Guard) (f : FmtB) : Statement (.addi g f) := fun _ => rfl
theorem andi (g : Guard) (f : FmtB) : Statement (.andi g f) := fun _ => rfl
theorem ori (g : Guard) (f : FmtB) : Statement (.ori g f) := fun _ => rfl
theorem xori (g : Guard) (f : FmtB) : Statement (.xori g f) := fun _ => rfl
theorem shli (g : Guard) (f : FmtB) : Statement (.shli g f) := fun _ => rfl
theorem shri (g : Guard) (f : FmtB) : Statement (.shri g f) := fun _ => rfl
theorem srai (g : Guard) (f : FmtB) : Statement (.srai g f) := fun _ => rfl
theorem cmpi (g : Guard) (f : FmtB) : Statement (.cmpi g f) := fun _ => rfl
theorem ldb (g : Guard) (f : FmtL) : Statement (.ldb g f) := fun _ => rfl
theorem ldh (g : Guard) (f : FmtL) : Statement (.ldh g f) := fun _ => rfl
theorem ldw (g : Guard) (f : FmtL) : Statement (.ldw g f) := fun _ => rfl
theorem ldd (g : Guard) (f : FmtL) : Statement (.ldd g f) := fun _ => rfl
theorem stb (g : Guard) (f : FmtL) : Statement (.stb g f) := fun _ => rfl
theorem sth (g : Guard) (f : FmtL) : Statement (.sth g f) := fun _ => rfl
theorem stw (g : Guard) (f : FmtL) : Statement (.stw g f) := fun _ => rfl
theorem std (g : Guard) (f : FmtL) : Statement (.std g f) := fun _ => rfl
theorem vld (g : Guard) (f : FmtL) : Statement (.vld g f) := fun _ => rfl
theorem vst (g : Guard) (f : FmtL) : Statement (.vst g f) := fun _ => rfl
theorem vlds (g : Guard) (f : FmtL) : Statement (.vlds g f) := fun _ => rfl
theorem vsts (g : Guard) (f : FmtL) : Statement (.vsts g f) := fun _ => rfl
theorem cld (g : Guard) (f : FmtL) : Statement (.cld g f) := fun _ => rfl
theorem cst (g : Guard) (f : FmtL) : Statement (.cst g f) := fun _ => rfl
theorem rwr (g : Guard) (f : FmtL) : Statement (.rwr g f) := fun _ => rfl
theorem rws (g : Guard) (f : FmtL) : Statement (.rws g f) := fun _ => rfl
theorem ldnb (g : Guard) (f : FmtL) : Statement (.ldnb g f) := fun _ => rfl
theorem stva (g : Guard) (f : FmtL) : Statement (.stva g f) := fun _ => rfl
theorem rwva (g : Guard) (f : FmtL) : Statement (.rwva g f) := fun _ => rfl
theorem sarr (g : Guard) (f : FmtL) : Statement (.sarr g f) := fun _ => rfl
theorem swait (g : Guard) (f : FmtL) : Statement (.swait g f) := fun _ => rfl
theorem sacq (g : Guard) (f : FmtL) : Statement (.sacq g f) := fun _ => rfl
theorem srel (g : Guard) (f : FmtL) : Statement (.srel g f) := fun _ => rfl
theorem sset (g : Guard) (f : FmtL) : Statement (.sset g f) := fun _ => rfl
theorem saeq (g : Guard) (f : FmtL) : Statement (.saeq g f) := fun _ => rfl
theorem saef (g : Guard) (f : FmtL) : Statement (.saef g f) := fun _ => rfl
theorem vadd (g : Guard) (f : FmtA) : Statement (.vadd g f) := fun _ => rfl
theorem vsub (g : Guard) (f : FmtA) : Statement (.vsub g f) := fun _ => rfl
theorem vmul (g : Guard) (f : FmtA) : Statement (.vmul g f) := fun _ => rfl
theorem vmin (g : Guard) (f : FmtA) : Statement (.vmin g f) := fun _ => rfl
theorem vmax (g : Guard) (f : FmtA) : Statement (.vmax g f) := fun _ => rfl
theorem vand (g : Guard) (f : FmtA) : Statement (.vand g f) := fun _ => rfl
theorem vor (g : Guard) (f : FmtA) : Statement (.vor g f) := fun _ => rfl
theorem vxor (g : Guard) (f : FmtA) : Statement (.vxor g f) := fun _ => rfl
theorem vlut3 (g : Guard) (f : FmtA) : Statement (.vlut3 g f) := fun _ => rfl
theorem vshl (g : Guard) (f : FmtA) : Statement (.vshl g f) := fun _ => rfl
theorem vshr (g : Guard) (f : FmtA) : Statement (.vshr g f) := fun _ => rfl
theorem vfsh (g : Guard) (f : FmtA) : Statement (.vfsh g f) := fun _ => rfl
theorem vpopc (g : Guard) (f : FmtA) : Statement (.vpopc g f) := fun _ => rfl
theorem vclz (g : Guard) (f : FmtA) : Statement (.vclz g f) := fun _ => rfl
theorem vrot (g : Guard) (f : FmtA) : Statement (.vrot g f) := fun _ => rfl
theorem vperm (g : Guard) (f : FmtA) : Statement (.vperm g f) := fun _ => rfl
theorem vbcast (g : Guard) (f : FmtA) : Statement (.vbcast g f) := fun _ => rfl
theorem vsel (g : Guard) (f : FmtA) : Statement (.vsel g f) := fun _ => rfl
theorem vcmp (g : Guard) (f : FmtA) : Statement (.vcmp g f) := fun _ => rfl
theorem vfadd (g : Guard) (f : FmtA) : Statement (.vfadd g f) := fun _ => rfl
theorem vfsub (g : Guard) (f : FmtA) : Statement (.vfsub g f) := fun _ => rfl
theorem vfmul (g : Guard) (f : FmtA) : Statement (.vfmul g f) := fun _ => rfl
theorem vfma (g : Guard) (f : FmtA) : Statement (.vfma g f) := fun _ => rfl
theorem vfmin (g : Guard) (f : FmtA) : Statement (.vfmin g f) := fun _ => rfl
theorem vfmax (g : Guard) (f : FmtA) : Statement (.vfmax g f) := fun _ => rfl
theorem vfdiv (g : Guard) (f : FmtA) : Statement (.vfdiv g f) := fun _ => rfl
theorem vfsqrt (g : Guard) (f : FmtA) : Statement (.vfsqrt g f) := fun _ => rfl
theorem vfabs (g : Guard) (f : FmtA) : Statement (.vfabs g f) := fun _ => rfl
theorem vfneg (g : Guard) (f : FmtA) : Statement (.vfneg g f) := fun _ => rfl
theorem vcvt (g : Guard) (f : FmtA) : Statement (.vcvt g f) := fun _ => rfl
theorem vrmax (g : Guard) (f : FmtA) : Statement (.vrmax g f) := fun _ => rfl
theorem vrmin (g : Guard) (f : FmtA) : Statement (.vrmin g f) := fun _ => rfl
theorem vradd (g : Guard) (f : FmtA) : Statement (.vradd g f) := fun _ => rfl
theorem mand (g : Guard) (f : FmtA) : Statement (.mand g f) := fun _ => rfl
theorem mor (g : Guard) (f : FmtA) : Statement (.mor g f) := fun _ => rfl
theorem mnot (g : Guard) (f : FmtA) : Statement (.mnot g f) := fun _ => rfl
theorem mpop (g : Guard) (f : FmtA) : Statement (.mpop g f) := fun _ => rfl
theorem vswt (g : Guard) (f : FmtA) : Statement (.vswt g f) := fun _ => rfl
theorem vspickStart (g : Guard) (f : FmtA) : Statement (.vspickStart g f) := fun _ => rfl
theorem vspickScan (g : Guard) (f : FmtA) : Statement (.vspickScan g f) := fun _ => rfl
theorem vspickFinal (g : Guard) (f : FmtA) : Statement (.vspickFinal g f) := fun _ => rfl
theorem qclr (g : Guard) (f : FmtA) : Statement (.qclr g f) := fun _ => rfl
theorem qdot (g : Guard) (f : FmtA) : Statement (.qdot g f) := fun _ => rfl
theorem qfma (g : Guard) (f : FmtA) : Statement (.qfma g f) := fun _ => rfl
theorem qadd (g : Guard) (f : FmtA) : Statement (.qadd g f) := fun _ => rfl
theorem qaddq (g : Guard) (f : FmtA) : Statement (.qaddq g f) := fun _ => rfl
theorem qneg (g : Guard) (f : FmtA) : Statement (.qneg g f) := fun _ => rfl
theorem qrnd (g : Guard) (f : FmtA) : Statement (.qrnd g f) := fun _ => rfl
theorem qsave (g : Guard) (f : FmtL) : Statement (.qsave g f) := fun _ => rfl
theorem qload (g : Guard) (f : FmtL) : Statement (.qload g f) := fun _ => rfl
theorem qtst (g : Guard) (f : FmtA) : Statement (.qtst g f) := fun _ => rfl
theorem qtstNar (g : Guard) (f : FmtA) : Statement (.qtstNar g f) := fun _ => rfl
theorem qfrom (g : Guard) (f : FmtA) : Statement (.qfrom g f) := fun _ => rfl
theorem mclaim (g : Guard) (f : FmtA) : Statement (.mclaim g f) := fun _ => rfl
theorem mrel (g : Guard) (f : FmtA) : Statement (.mrel g f) := fun _ => rfl
theorem mlda (g : Guard) (f : FmtL) : Statement (.mlda g f) := fun _ => rfl
theorem mma (g : Guard) (f : FmtM) : Statement (.mma g f) := fun _ => rfl
theorem mmai (g : Guard) (f : FmtM) : Statement (.mmai g f) := fun _ => rfl
theorem mlut (g : Guard) (f : FmtM) : Statement (.mlut g f) := fun _ => rfl
theorem mzero (g : Guard) (f : FmtM) : Statement (.mzero g f) := fun _ => rfl
theorem msave (g : Guard) (f : FmtL) : Statement (.msave g f) := fun _ => rfl
theorem mload (g : Guard) (f : FmtL) : Statement (.mload g f) := fun _ => rfl
theorem drd (g : Guard) (f : FmtA) : Statement (.drd g f) := fun _ => rfl
theorem dsgd (g : Guard) (f : FmtA) : Statement (.dsgd g f) := fun _ => rfl
theorem dmom (g : Guard) (f : FmtA) : Statement (.dmom g f) := fun _ => rfl
theorem dpub (g : Guard) (f : FmtL) : Statement (.dpub g f) := fun _ => rfl
theorem dclr (g : Guard) (f : FmtM) : Statement (.dclr g f) := fun _ => rfl
theorem kcp (g : Guard) (f : FmtK) : Statement (.kcp g f) := fun _ => rfl
theorem kcpOpimg (g : Guard) (f : FmtK) : Statement (.kcpOpimg g f) := fun _ => rfl
theorem kcpn (g : Guard) (f : FmtK) : Statement (.kcpn g f) := fun _ => rfl
theorem kcpv (g : Guard) (f : FmtK) : Statement (.kcpv g f) := fun _ => rfl
theorem ktr (g : Guard) (f : FmtK) : Statement (.ktr g f) := fun _ => rfl
theorem kenc (g : Guard) (f : FmtK) : Statement (.kenc g f) := fun _ => rfl
theorem krec (g : Guard) (f : FmtK) : Statement (.krec g f) := fun _ => rfl
theorem kseal (g : Guard) (f : FmtK) : Statement (.kseal g f) := fun _ => rfl
theorem ksealUnseal (g : Guard) (f : FmtK) : Statement (.ksealUnseal g f) := fun _ => rfl
theorem ktab (g : Guard) (f : FmtK) : Statement (.ktab g f) := fun _ => rfl
theorem kdrain (g : Guard) (f : FmtK) : Statement (.kdrain g f) := fun _ => rfl
theorem kres (g : Guard) (f : FmtK) : Statement (.kres g f) := fun _ => rfl
theorem kresDrop (g : Guard) (f : FmtK) : Statement (.kresDrop g f) := fun _ => rfl
theorem knmc (g : Guard) (f : FmtK) : Statement (.knmc g f) := fun _ => rfl
theorem kcol (g : Guard) (f : FmtK) : Statement (.kcol g f) := fun _ => rfl
theorem kcan (g : Guard) (f : FmtK) : Statement (.kcan g f) := fun _ => rfl
theorem ktsk (g : Guard) (f : FmtK) : Statement (.ktsk g f) := fun _ => rfl
theorem gstep (g : Guard) (f : FmtK) : Statement (.gstep g f) := fun _ => rfl
theorem gmask (g : Guard) (f : FmtK) : Statement (.gmask g f) := fun _ => rfl
theorem tretResume (c : CtxRef) : Statement (.tretResume c) := fun _ => rfl
theorem tretSuspend (c : CtxRef) : Statement (.tretSuspend c) := fun _ => rfl
theorem tretKill (c : CtxRef) : Statement (.tretKill c) := fun _ => rfl
theorem pendingRelease (core : Nat) (tile : Bool) (n : Nat) : Statement (.pendingRelease core tile n) := fun _ => rfl
theorem groupFetch (c : CtxRef) : Statement (.groupFetch c) := fun _ => rfl
theorem blockedGroupIssue (c : CtxRef) : Statement (.blockedGroupIssue c) := fun _ => rfl
theorem resultLanding (c : CtxRef) : Statement (.resultLanding c) := fun _ => rfl
theorem arrayResultLanding (c : CtxRef) : Statement (.arrayResultLanding c) := fun _ => rfl
theorem tileClearDone (core : Nat) (n : Nat) : Statement (.tileClearDone core n) := fun _ => rfl
theorem slotClearDone (core : Nat) (n : Nat) : Statement (.slotClearDone core n) := fun _ => rfl
theorem regionZeroDone (core : Nat) (n : Nat) : Statement (.regionZeroDone core n) := fun _ => rfl
theorem saeRunApply (c : CtxRef) : Statement (.saeRunApply c) := fun _ => rfl
theorem remoteWriteArrival (c : CtxRef) (id : Nat) : Statement (.remoteWriteArrival c id) := fun _ => rfl
theorem timedWritePerform (core : Nat) (id : Nat) : Statement (.timedWritePerform core id) := fun _ => rfl
theorem lateNoticeArrival (id : Nat) : Statement (.lateNoticeArrival id) := fun _ => rfl
theorem releaseMessageArrival (id : Nat) : Statement (.releaseMessageArrival id) := fun _ => rfl
theorem gateOpen (c : CtxRef) (id : Nat) : Statement (.gateOpen c id) := fun _ => rfl
theorem commandStart (core : Nat) (id : Nat) : Statement (.commandStart core id) := fun _ => rfl
theorem copyUnitTransfer (core : Nat) (id : Nat) : Statement (.copyUnitTransfer core id) := fun _ => rfl
theorem commandComplete (core : Nat) (id : Nat) : Statement (.commandComplete core id) := fun _ => rfl
theorem dictSlotSwitch (core : Nat) (id : Nat) : Statement (.dictSlotSwitch core id) := fun _ => rfl
theorem kcpvVersionReached (core : Nat) (id : Nat) : Statement (.kcpvVersionReached core id) := fun _ => rfl
theorem acquireReferenceSatisfied (id : Nat) : Statement (.acquireReferenceSatisfied id) := fun _ => rfl
theorem nmcCommandAccept (id : Nat) : Statement (.nmcCommandAccept id) := fun _ => rfl
theorem reductionCommand (stack : Nat) : Statement (.reductionCommand stack) := fun _ => rfl
theorem updateRow (stack : Nat) : Statement (.updateRow stack) := fun _ => rfl
theorem transformCommand (stack : Nat) : Statement (.transformCommand stack) := fun _ => rfl
theorem gazetteerQuery (stack : Nat) : Statement (.gazetteerQuery stack) := fun _ => rfl
theorem nmcTimedRelease (id : Nat) : Statement (.nmcTimedRelease id) := fun _ => rfl
theorem grammarCommand (die : Nat) : Statement (.grammarCommand die) := fun _ => rfl
theorem collectiveForm (i : Nat) : Statement (.collectiveForm i) := fun _ => rfl
theorem planeInject (i : Nat) (party : Nat) (tile : Nat) : Statement (.planeInject i party tile) := fun _ => rfl
theorem planeLand (i : Nat) (party : Nat) (tile : Nat) : Statement (.planeLand i party tile) := fun _ => rfl
theorem cancelReceipt (i : Nat) (party : Nat) : Statement (.cancelReceipt i party) := fun _ => rfl
theorem cancelAck (i : Nat) : Statement (.cancelAck i) := fun _ => rfl
theorem nodeAccept (iod : Nat) : Statement (.nodeAccept iod) := fun _ => rfl
theorem nodeDispatch (iod : Nat) : Statement (.nodeDispatch iod) := fun _ => rfl
theorem taskLaunch (id : Nat) : Statement (.taskLaunch id) := fun _ => rfl
theorem taskComplete (c : CtxRef) : Statement (.taskComplete c) := fun _ => rfl
theorem contextRecordWrite (c : CtxRef) : Statement (.contextRecordWrite c) := fun _ => rfl
theorem restore (id : Nat) : Statement (.restore id) := fun _ => rfl
theorem sliceExpiry (c : CtxRef) : Statement (.sliceExpiry c) := fun _ => rfl
theorem platExpiry (c : CtxRef) : Statement (.platExpiry c) := fun _ => rfl
theorem invalidationRequest (id : Nat) (die : Nat) : Statement (.invalidationRequest id die) := fun _ => rfl
theorem invalidationAckSend (id : Nat) (die : Nat) : Statement (.invalidationAckSend id die) := fun _ => rfl
theorem invalidationAck (id : Nat) (die : Nat) : Statement (.invalidationAck id die) := fun _ => rfl
theorem submitNode (port : Nat) (tenant : Nat) (v : Word) : Statement (.submitNode port tenant v) := fun _ => rfl
theorem ownerAcquire (port : Nat) : Statement (.ownerAcquire port) := fun _ => rfl
theorem ownerRelease (port : Nat) : Statement (.ownerRelease port) := fun _ => rfl
theorem moduleBlockWrite (port : Nat) (off : Nat) (v : Word) : Statement (.moduleBlockWrite port off v) := fun _ => rfl
theorem epochWrite (port : Nat) (v : Word) : Statement (.epochWrite port v) := fun _ => rfl
theorem readySet (port : Nat) (v : Word) : Statement (.readySet port v) := fun _ => rfl
theorem attestReport (port : Nat) (v : Word) : Statement (.attestReport port v) := fun _ => rfl
theorem rfree (port : Nat) (v : Word) : Statement (.rfree port v) := fun _ => rfl
theorem hostInvalidate (port : Nat) (v : Word) : Statement (.hostInvalidate port v) := fun _ => rfl
theorem gctlEnable (port : Nat) (v : Word) : Statement (.gctlEnable port v) := fun _ => rfl
theorem gctlDisable (port : Nat) (v : Word) : Statement (.gctlDisable port v) := fun _ => rfl
theorem suspendRequest (port : Nat) (v : Word) : Statement (.suspendRequest port v) := fun _ => rfl
theorem restoreRequest (port : Nat) (v : Word) : Statement (.restoreRequest port v) := fun _ => rfl
theorem overflowEvent (port : Nat) : Statement (.overflowEvent port) := fun _ => rfl
theorem hostWriteCompletion (port : Nat) : Statement (.hostWriteCompletion port) := fun _ => rfl
theorem portLinkDown (port : Nat) : Statement (.portLinkDown port) := fun _ => rfl
theorem moduleReset (b : BootInput) : Statement (.moduleReset b) := fun _ => rfl
theorem linkConfiguration (link : Nat) (peer : Nat) : Statement (.linkConfiguration link peer) := fun _ => rfl
theorem ptpMessage (rate : Int) : Statement (.ptpMessage rate) := fun _ => rfl
theorem powerArbitration (d : PowerInput) : Statement (.powerArbitration d) := fun _ => rfl
theorem throttleStep (die : Nat) : Statement (.throttleStep die) := fun _ => rfl
theorem linkNarrow (link : Nat) : Statement (.linkNarrow link) := fun _ => rfl
theorem hostDeviceMemoryWrite (port : Nat) (pa : Nat) (bytes : List Byte) : Statement (.hostDeviceMemoryWrite port pa bytes) := fun _ => rfl
theorem meridianCounterStop (die : Nat) : Statement (.meridianCounterStop die) := fun _ => rfl
theorem hostPortLinkUp (port : Nat) (kind : LinkKind) : Statement (.hostPortLinkUp port kind) := fun _ => rfl
theorem gangSliceSwitch : Statement .gangSliceSwitch := fun _ => rfl
theorem epochApply : Statement .epochApply := fun _ => rfl
theorem referenceLoss : Statement .referenceLoss := fun _ => rfl
theorem holdoverExpiry : Statement .holdoverExpiry := fun _ => rfl

end Sys2Proof.Laws.Encodes
end

