-- ==== Sys2Proof/Tests/Slice0.lean ====
section
/-! SUPPORT. Tests: words written out from the encodings of the spec, an ill-formed term for each field check, small
steps, and a witness for every statement that has hypotheses. -/
namespace Sys2Proof.Tests
open Sys2Proof Sys2Proof.Machine

/-! ### Words (R55, R63 to R79) -/

/-- The guard of an unguarded word, and a guard on p10 negated. -/
def plain : Guard := ⟨0, false⟩
def ten : Guard := ⟨10, true⟩
/-- Each word decodes to its instruction, and the instruction encodes to it. -/
def readsAll (ws : List (BitVec 64 × Instr)) : Bool :=
  ws.all fun x => decodeWord x.1 == .ok x.2 && encodeWord true x.2 == some x.1

/-- Fields of format A, in the order of its table. -/
def fmtA (dst opa opb aux fmt prof : Nat) (sga sgb : Bool) (msk sub : Nat) : FmtA :=
  { dst := BitVec.ofNat 6 dst, opa := BitVec.ofNat 6 opa, opb := BitVec.ofNat 6 opb,
    aux := BitVec.ofNat 6 aux, fmt := BitVec.ofNat 6 fmt, prof := BitVec.ofNat 6 prof, sga := sga, sgb := sgb,
    msk := BitVec.ofNat 3 msk, sub := BitVec.ofNat 5 sub }

/-- Fields of format B, in the order of its table. -/
def fmtB (dst opa imm : Nat) : FmtB :=
  { dst := BitVec.ofNat 6 dst, opa := BitVec.ofNat 6 opa, imm := BitVec.ofNat 34 imm }

/-- Fields of format J, in the order of its table. -/
def fmtJ (ja jb jhi jlo : Nat) : FmtJ :=
  { ja := BitVec.ofNat 6 ja, jb := BitVec.ofNat 6 jb, jhi := BitVec.ofNat 18 jhi, jlo := BitVec.ofNat 16 jlo }

/-- Fields of format L, in the order of its table. -/
def fmtL (dt base idx off sz msk lx : Nat) : FmtL :=
  { dt := BitVec.ofNat 6 dt, base := BitVec.ofNat 5 base, idx := BitVec.ofNat 6 idx,
    off := BitVec.ofNat 20 off, sz := BitVec.ofNat 3 sz, msk := BitVec.ofNat 3 msk, lx := BitVec.ofNat 3 lx }

/-- Fields of format K, in the order of its table. -/
def fmtK (ch tgt frm lrec cnt : Nat) (intr swe : Bool) (sw kx : Nat) : FmtK :=
  { ch := BitVec.ofNat 2 ch, tgt := BitVec.ofNat 5 tgt, frm := BitVec.ofNat 5 frm,
    lrec := BitVec.ofNat 5 lrec, cnt := BitVec.ofNat 6 cnt, intr := intr, swe := swe, sw := BitVec.ofNat 9 sw,
    kx := BitVec.ofNat 12 kx }

/-- Fields of format M, in the order of its table. -/
def fmtM (tile osa osb prof : Nat) (sga sgb : Bool) (fmta fmtb klen mx : Nat) : FmtM :=
  { tile := BitVec.ofNat 3 tile, osa := BitVec.ofNat 6 osa, osb := BitVec.ofNat 6 osb,
    prof := BitVec.ofNat 6 prof, sga := sga, sgb := sgb, fmta := BitVec.ofNat 6 fmta,
    fmtb := BitVec.ofNat 6 fmtb, klen := BitVec.ofNat 7 klen, mx := BitVec.ofNat 4 mx }

/-- Fields of format W, in the order of its table. -/
def fmtW (dst : Nat) (hi : Bool) (imm : Nat) : FmtW :=
  { dst := BitVec.ofNat 6 dst, hi := hi, imm := BitVec.ofNat 39 imm }

/-- Words of class C by R55, the tables of the formats and its opcode map. -/
theorem test_decode_c0 : readsAll [
    (0x800D400000000000#64, Instr.nop ten (fmtJ 0 0 0 0)),
    (0x80154003FFFFFFF0#64, Instr.br ten (fmtJ 0 0 0x3ffff 0xfff0)),
    (0x801D7F053FFF8000#64, Instr.brc ten (fmtJ 63 1 0x13fff 0x8000)),
    (0x8025470000010002#64, Instr.brm ten (fmtJ 7 0 1 2)),
    (0x802D637C00020003#64, Instr.pbr ten (fmtJ 35 31 2 3)),
    (0x8035430000000000#64, Instr.brt ten (fmtJ 3 0 0 0)),
    (0x803D7E7A0001ABCD#64, Instr.jtb ten (fmtJ 62 30 0x20001 0xabcd)),
    (0x804000000000BEEF#64, Instr.lpad plain (fmtJ 0 0 0 0xbeef)),
    (0x804D420000000009#64, Instr.call ten (fmtJ 2 0 0 9)),
    (0x8055410000000000#64, Instr.ret ten (fmtJ 1 0 0 0)),
    (0x8085407400FF0000#64, Instr.lseq ten (fmtJ 0 29 0xff 0)),
    (0x808D4AFFFFFFFFFE#64, Instr.lbr ten (fmtJ 10 63 0x3ffff 0xfffe)),
    (0x80C54000000001FF#64, Instr.tfence ten (fmtJ 0 0 0 0x1ff)),
    (0x80C8000000000000#64, Instr.pmark plain (fmtJ 0 0 0 0))] = true := by decide

/-- Words of class C by R55, the tables of the formats and its opcode map. -/
theorem test_decode_c1 : readsAll [
    (0x80D54010503FF000#64, Instr.fence ten (fmtA 0 4 5 0 63 60 false false 0 0)),
    (0x80DD400000000000#64, Instr.yield ten (fmtJ 0 0 0 0)),
    (0x80E5610000000000#64, Instr.twait ten (fmtJ 33 0 0 0)),
    (0x8105400000001234#64, Instr.trap ten (fmtJ 0 0 0 0x1234)),
    (0x810D40000000FFFF#64, Instr.svc ten (fmtJ 0 0 0 0xffff)),
    (0x8115400000000000#64, Instr.tend ten (fmtJ 0 0 0 0))] = true := by decide

/-- Words of class I by R55, the tables of the formats and its opcode map. -/
theorem test_decode_i0 : readsAll [
    (0x880D5FFA10000000#64, Instr.add ten (fmtA 31 62 33 0 0 0 false false 0 0)),
    (0x88155FFA10000000#64, Instr.sub ten (fmtA 31 62 33 0 0 0 false false 0 0)),
    (0x881D5FFA10000000#64, Instr.mul ten (fmtA 31 62 33 0 0 0 false false 0 0)),
    (0x88255FFA10000001#64, Instr.mulh ten (fmtA 31 62 33 0 0 0 false false 0 1)),
    (0x882D5FFA10000001#64, Instr.div ten (fmtA 31 62 33 0 0 0 false false 0 1)),
    (0x88355FFA10000001#64, Instr.rem ten (fmtA 31 62 33 0 0 0 false false 0 1)),
    (0x88455FFA10000000#64, Instr.and ten (fmtA 31 62 33 0 0 0 false false 0 0)),
    (0x884D5FFA10000000#64, Instr.or ten (fmtA 31 62 33 0 0 0 false false 0 0)),
    (0x88555FFA10000000#64, Instr.xor ten (fmtA 31 62 33 0 0 0 false false 0 0)),
    (0x885D5FFA10000000#64, Instr.andn ten (fmtA 31 62 33 0 0 0 false false 0 0)),
    (0x88655FFA10000000#64, Instr.shl ten (fmtA 31 62 33 0 0 0 false false 0 0)),
    (0x886D5FFA10000000#64, Instr.shr ten (fmtA 31 62 33 0 0 0 false false 0 0)),
    (0x88755FFA10000000#64, Instr.sra ten (fmtA 31 62 33 0 0 0 false false 0 0)),
    (0x887D5FFA10000000#64, Instr.rotl ten (fmtA 31 62 33 0 0 0 false false 0 0))] = true := by decide

/-- Words of class I by R55, the tables of the formats and its opcode map. -/
theorem test_decode_i1 : readsAll [
    (0x88857D0800000040#64, Instr.clz ten (fmtA 61 2 0 0 0 0 false false 2 0)),
    (0x888D7D0800000040#64, Instr.popc ten (fmtA 61 2 0 0 0 0 false false 2 0)),
    (0x88955FFA10000001#64, Instr.min ten (fmtA 31 62 33 0 0 0 false false 0 1)),
    (0x889D5FFA10000001#64, Instr.max ten (fmtA 31 62 33 0 0 0 false false 0 1)),
    (0x88A54F07F0000009#64, Instr.cmp ten (fmtA 15 1 63 0 0 0 false false 0 9)),
    (0x88AD451873C000E0#64, Instr.sel ten (fmtA 5 6 7 15 0 0 false false 7 0)),
    (0x88C54F38D0000003#64, Instr.pand ten (fmtA 15 14 13 0 0 0 false false 0 3)),
    (0x88CD4F38D0000003#64, Instr.por ten (fmtA 15 14 13 0 0 0 false false 0 3)),
    (0x88D54F38D0000003#64, Instr.pxor ten (fmtA 15 14 13 0 0 0 false false 0 3)),
    (0x88DD482400000000#64, Instr.pnot ten (fmtA 8 9 0 0 0 0 false false 0 0)),
    (0x89057F000000011B#64, Instr.mfs ten (fmtB 63 0 0x11b)),
    (0x890D40C40000011C#64, Instr.mts ten (fmtB 0 49 0x11c)),
    (0x890D40C400000010#64, Instr.mtsSticky ten (fmtB 0 49 16)),
    (0x890D40C40000000B#64, Instr.mtsPend ten (fmtB 0 49 11))] = true := by decide

/-- Words of class I by R55, the tables of the formats and its opcode map. -/
theorem test_decode_i2 : readsAll [
    (0x890D40C400000107#64, Instr.regrelWrite ten (fmtB 0 49 0x107)),
    (0x890D40C400000118#64, Instr.tinvcStart ten (fmtB 0 49 0x118)),
    (0x8915680000000000#64, Instr.time ten (fmtA 40 0 0 0 0 0 false false 0 0)),
    (0x89455F7BFFFFFFFF#64, Instr.lea ten (fmtB 31 30 0x3ffffffff)),
    (0x897D617FFFFFFFFF#64, Instr.movi ten (fmtW 33 false 0x7fffffffff)),
    (0x897D628001FFFFFF#64, Instr.moviHi ten (fmtW 34 true 0x1ffffff)),
    (0x8A0D41FE00000001#64, Instr.addi ten (fmtB 1 63 0x200000001)),
    (0x8A45420D23456789#64, Instr.andi ten (fmtB 2 3 0x123456789)),
    (0x8A4D420D23456789#64, Instr.ori ten (fmtB 2 3 0x123456789)),
    (0x8A55420D23456789#64, Instr.xori ten (fmtB 2 3 0x123456789)),
    (0x8A6544140000003F#64, Instr.shli ten (fmtB 4 5 63)),
    (0x8A6D44140000003F#64, Instr.shri ten (fmtB 4 5 63)),
    (0x8A7544140000003F#64, Instr.srai ten (fmtB 4 5 63)),
    (0x8AA54F193FFFFFFF#64, Instr.cmpi ten (fmtB 15 6 0x13fffffff))] = true := by decide

/-- Words of class L by R55, the tables of the formats and its opcode map. -/
theorem test_decode_l0 : readsAll [
    (0x900D7FFFD0000201#64, Instr.ldb ten (fmtL 63 31 62 0x80001 0 0 1)),
    (0x90157FFFD0000241#64, Instr.ldh ten (fmtL 63 31 62 0x80001 1 0 1)),
    (0x901D7FFFD0000281#64, Instr.ldw ten (fmtL 63 31 62 0x80001 2 0 1)),
    (0x90255F08400006C2#64, Instr.ldd ten (fmtL 31 1 2 3 3 0 2)),
    (0x902D7FFFD0000200#64, Instr.stb ten (fmtL 63 31 62 0x80001 0 0 0)),
    (0x90357FFFD0000240#64, Instr.sth ten (fmtL 63 31 62 0x80001 1 0 0)),
    (0x903D7FFFD0000280#64, Instr.stw ten (fmtL 63 31 62 0x80001 2 0 0)),
    (0x90457FFFD00002C0#64, Instr.std ten (fmtL 63 31 62 0x80001 3 0 0)),
    (0x904D7FFFD00003B8#64, Instr.vld ten (fmtL 63 31 62 0x80001 6 7 0)),
    (0x90557FFFD00003B8#64, Instr.vst ten (fmtL 63 31 62 0x80001 6 7 0)),
    (0x905D7FFFD00003BA#64, Instr.vlds ten (fmtL 63 31 62 0x80001 6 7 2)),
    (0x90657FFFD00003BA#64, Instr.vsts ten (fmtL 63 31 62 0x80001 6 7 2)),
    (0x90857FFFD0000281#64, Instr.cld ten (fmtL 63 31 62 0x80001 2 0 1)),
    (0x908D7FFFD0000388#64, Instr.cst ten (fmtL 63 31 62 0x80001 6 1 0))] = true := by decide

/-- Words of class L by R55, the tables of the formats and its opcode map. -/
theorem test_decode_l1 : readsAll [
    (0x90957FFFD00002C3#64, Instr.rwr ten (fmtL 63 31 62 0x80001 3 0 3)),
    (0x909D7FFFD00002C3#64, Instr.rws ten (fmtL 63 31 62 0x80001 3 0 3)),
    (0x90C57FFFD0000390#64, Instr.ldnb ten (fmtL 63 31 62 0x80001 6 2 0)),
    (0x90CD7FFFD0000244#64, Instr.stva ten (fmtL 63 31 62 0x80001 1 0 4)),
    (0x90D57FFFD00002C7#64, Instr.rwva ten (fmtL 63 31 62 0x80001 3 0 7)),
    (0x910540FFD00002C0#64, Instr.sarr ten (fmtL 0 31 62 0x80001 3 0 0)),
    (0x910D7FFFD00002C0#64, Instr.swait ten (fmtL 63 31 62 0x80001 3 0 0)),
    (0x91157FFFD00002C0#64, Instr.sacq ten (fmtL 63 31 62 0x80001 3 0 0)),
    (0x911D40FFD00002C0#64, Instr.srel ten (fmtL 0 31 62 0x80001 3 0 0)),
    (0x91257FFFD00002C0#64, Instr.sset ten (fmtL 63 31 62 0x80001 3 0 0)),
    (0x91457FFFD000026D#64, Instr.saeq ten (fmtL 63 31 62 0x80001 1 5 5)),
    (0x914D490000000000#64, Instr.saef ten (fmtL 9 0 0 0 0 0 0))] = true := by decide

/-- Words of class V by R55, the tables of the formats and its opcode map. -/
theorem test_decode_v0 : readsAll [
    (0x980D7FFBD01500E1#64, Instr.vadd ten (fmtA 63 62 61 0 21 0 false false 7 1)),
    (0x98157FFBD01500E0#64, Instr.vsub ten (fmtA 63 62 61 0 21 0 false false 7 0)),
    (0x981D7FFBD01500E2#64, Instr.vmul ten (fmtA 63 62 61 0 21 0 false false 7 2)),
    (0x98257FFBD01500E0#64, Instr.vmin ten (fmtA 63 62 61 0 21 0 false false 7 0)),
    (0x982D7FFBD01500E0#64, Instr.vmax ten (fmtA 63 62 61 0 21 0 false false 7 0)),
    (0x9845410830000080#64, Instr.vand ten (fmtA 1 2 3 0 0 0 false false 4 0)),
    (0x984D410830000080#64, Instr.vor ten (fmtA 1 2 3 0 0 0 false false 4 0)),
    (0x9855410830000080#64, Instr.vxor ten (fmtA 1 2 3 0 0 0 false false 4 0)),
    (0x985D41083100AAA0#64, Instr.vlut3 ten (fmtA 1 2 3 4 0 42 true false 5 0)),
    (0x986541080FD20021#64, Instr.vshl ten (fmtA 1 2 0 63 18 0 false false 1 1)),
    (0x986D41080FD20021#64, Instr.vshr ten (fmtA 1 2 0 63 18 0 false false 1 1)),
    (0x98757FFBD7D500E0#64, Instr.vfsh ten (fmtA 63 62 61 31 21 0 false false 7 0)),
    (0x9885410800100060#64, Instr.vpopc ten (fmtA 1 2 0 0 16 0 false false 3 0)),
    (0x988D410800100060#64, Instr.vclz ten (fmtA 1 2 0 0 16 0 false false 3 0))] = true := by decide

/-- Words of class V by R55, the tables of the formats and its opcode map. -/
theorem test_decode_v1 : readsAll [
    (0x98C541080FD00001#64, Instr.vrot ten (fmtA 1 2 0 63 16 0 false false 0 1)),
    (0x98CD7FFBD01500E0#64, Instr.vperm ten (fmtA 63 62 61 0 21 0 false false 7 0)),
    (0x98D541080FD10001#64, Instr.vbcast ten (fmtA 1 2 0 63 17 0 false false 0 1)),
    (0x98DD7FFBD01500E0#64, Instr.vsel ten (fmtA 63 62 61 0 21 0 false false 7 0)),
    (0x98E5470830130009#64, Instr.vcmp ten (fmtA 7 2 3 0 19 0 false false 0 9)),
    (0x99054108300A0040#64, Instr.vfadd ten (fmtA 1 2 3 0 10 0 false false 2 0)),
    (0x990D4108300A0040#64, Instr.vfsub ten (fmtA 1 2 3 0 10 0 false false 2 0)),
    (0x99154108300A0040#64, Instr.vfmul ten (fmtA 1 2 3 0 10 0 false false 2 0)),
    (0x991D410831180000#64, Instr.vfma ten (fmtA 1 2 3 4 24 0 false false 0 0)),
    (0x99254108300A0040#64, Instr.vfmin ten (fmtA 1 2 3 0 10 0 false false 2 0)),
    (0x992D4108300A0040#64, Instr.vfmax ten (fmtA 1 2 3 0 10 0 false false 2 0)),
    (0x99354108300A0040#64, Instr.vfdiv ten (fmtA 1 2 3 0 10 0 false false 2 0)),
    (0x993D4108001A0040#64, Instr.vfsqrt ten (fmtA 1 2 0 0 26 0 false false 2 0)),
    (0x99454108001A0040#64, Instr.vfabs ten (fmtA 1 2 0 0 26 0 false false 2 0))] = true := by decide

/-- Words of class V by R55, the tables of the formats and its opcode map. -/
theorem test_decode_v2 : readsAll [
    (0x994D4108001A0040#64, Instr.vfneg ten (fmtA 1 2 0 0 26 0 false false 2 0)),
    (0x99654108041A0003#64, Instr.vcvt ten (fmtA 1 2 0 16 26 0 false false 0 3)),
    (0x99854108001400C1#64, Instr.vrmax ten (fmtA 1 2 0 0 20 0 false false 6 1)),
    (0x998D4108001400C1#64, Instr.vrmin ten (fmtA 1 2 0 0 20 0 false false 6 1)),
    (0x99954108001400C1#64, Instr.vradd ten (fmtA 1 2 0 0 20 0 false false 6 1)),
    (0x99C5471850000002#64, Instr.mand ten (fmtA 7 6 5 0 0 0 false false 0 2)),
    (0x99CD471850000002#64, Instr.mor ten (fmtA 7 6 5 0 0 0 false false 0 2)),
    (0x99D5471800000000#64, Instr.mnot ten (fmtA 7 6 0 0 0 0 false false 0 0)),
    (0x99DD471800000000#64, Instr.mpop ten (fmtA 7 6 0 0 0 0 false false 0 0)),
    (0x9A05410831DA0020#64, Instr.vswt ten (fmtA 1 2 3 7 26 0 false false 1 0)),
    (0x9A0D400031CA0021#64, Instr.vspickStart ten (fmtA 0 0 3 7 10 0 false false 1 1)),
    (0x9A0D490831CA0020#64, Instr.vspickScan ten (fmtA 9 2 3 7 10 0 false false 1 0)),
    (0x9A0D490831CA0022#64, Instr.vspickFinal ten (fmtA 9 2 3 7 10 0 false false 1 2))] = true := by decide

/-- Words of class Q by R55, the tables of the formats and its opcode map. -/
theorem test_decode_q0 : readsAll [
    (0xA00D470000000000#64, Instr.qclr ten (fmtA 7 0 0 0 0 0 false false 0 0)),
    (0xA015460420110361#64, Instr.qdot ten (fmtA 6 1 2 0 17 0 true true 3 1)),
    (0xA01D450420070C00#64, Instr.qfma ten (fmtA 5 1 2 0 7 3 false false 0 0)),
    (0xA02544FC000A0001#64, Instr.qadd ten (fmtA 4 63 0 0 10 0 false false 0 1)),
    (0xA02D431C00000001#64, Instr.qaddq ten (fmtA 3 7 0 0 0 0 false false 0 1)),
    (0xA035420000000000#64, Instr.qneg ten (fmtA 2 0 0 0 0 0 false false 0 0)),
    (0xA03D7F1C00180000#64, Instr.qrnd ten (fmtA 63 7 0 0 24 0 false false 0 0)),
    (0xA045471880000B80#64, Instr.qsave ten (fmtL 7 3 4 5 6 0 0)),
    (0xA04D471880000B80#64, Instr.qload ten (fmtL 7 3 4 5 6 0 0)),
    (0xA0554F1C00000005#64, Instr.qtst ten (fmtA 15 7 0 0 0 0 false false 0 5)),
    (0xA0554E1800400000#64, Instr.qtstNar ten (fmtA 14 6 0 1 0 0 false false 0 0)),
    (0xA05D47140000FD01#64, Instr.qfrom ten (fmtA 7 5 0 0 0 63 false true 0 1))] = true := by decide

/-- Words of class M by R55, the tables of the formats and its opcode map. -/
theorem test_decode_m0 : readsAll [
    (0xA80D492800000007#64, Instr.mclaim ten (fmtA 9 10 0 0 0 0 false false 0 7)),
    (0xA815402800000001#64, Instr.mrel ten (fmtA 0 10 0 0 0 0 false false 0 1)),
    (0xA81D7F1060000903#64, Instr.mlda ten (fmtL 63 2 3 4 4 0 3)),
    (0xA8257FFF06085180#64, Instr.mma ten (fmtM 7 63 62 3 false false 4 10 24 0)),
    (0xA82D702101211E03#64, Instr.mmai ten (fmtM 6 1 2 0 true false 16 35 0x60 3)),
    (0xA835686200220607#64, Instr.mlut ten (fmtM 5 3 4 0 false false 17 0 0x60 7)),
    (0xA83D600000000000#64, Instr.mzero ten (fmtM 4 0 0 0 false false 0 0 0 0)),
    (0xA845471880000B80#64, Instr.msave ten (fmtL 7 3 4 5 6 0 0)),
    (0xA84D471880000B80#64, Instr.mload ten (fmtL 7 3 4 5 6 0 0))] = true := by decide

/-- Words of class K by R55, the tables of the formats and its opcode map. -/
theorem test_decode_k0 : readsAll [
    (0xB00D7FF81FFFFC00#64, Instr.kcp ten (fmtK 3 31 30 0 63 true true 0x1ff 0xc00)),
    (0xB00D7FF81FFFF811#64, Instr.kcpOpimg ten (fmtK 3 31 30 0 63 true true 0x1ff 0x811)),
    (0xB0157FF81FFFFCC1#64, Instr.kcpn ten (fmtK 3 31 30 0 63 true true 0x1ff 0xcc1)),
    (0xB01D7FFBBFFFF400#64, Instr.kcpv ten (fmtK 3 31 30 29 63 true true 0x1ff 0x400)),
    (0xB025510C80205022#64, Instr.ktr ten (fmtK 1 2 3 4 0 false true 5 34)),
    (0xB0457FF81FFFF402#64, Instr.kenc ten (fmtK 3 31 30 0 63 true true 0x1ff 0x402)),
    (0xB04D500C02000403#64, Instr.krec ten (fmtK 1 0 3 0 4 false false 0 0x403)),
    (0xB055500C02000406#64, Instr.kseal ten (fmtK 1 0 3 0 4 false false 0 0x406)),
    (0xB055500C02000403#64, Instr.ksealUnseal ten (fmtK 1 0 3 0 4 false false 0 0x403)),
    (0xB05D600C0200005F#64, Instr.ktab ten (fmtK 2 0 3 0 4 false false 0 0x5f)),
    (0xB085700000000000#64, Instr.kdrain ten (fmtK 3 0 0 0 0 false false 0 0)),
    (0xB08D600000000000#64, Instr.kres ten (fmtK 2 0 0 0 0 false false 0 0)),
    (0xB08D500000000001#64, Instr.kresDrop ten (fmtK 1 0 0 0 0 false false 0 1)),
    (0xB0C56000C0207000#64, Instr.knmc ten (fmtK 2 0 0 6 0 false true 7 0))] = true := by decide

/-- Words of class K by R55, the tables of the formats and its opcode map. -/
theorem test_decode_k1 : readsAll [
    (0xB0CD510C82800FFF#64, Instr.kcol ten (fmtK 1 2 3 4 5 false false 0 0xfff)),
    (0xB0D550001FC00000#64, Instr.kcan ten (fmtK 1 0 0 0 63 true false 0 0)),
    (0xB0DD500801B00000#64, Instr.ktsk ten (fmtK 1 0 2 0 3 false true 0x100 0)),
    (0xB105510C82800000#64, Instr.gstep ten (fmtK 1 2 3 4 5 false false 0 0)),
    (0xB10D510C80000000#64, Instr.gmask ten (fmtK 1 2 3 4 0 false false 0 0))] = true := by decide

/-- Words of class D by R55, the tables of the formats and its opcode map. -/
theorem test_decode_d0 : readsAll [
    (0xB80D7F0003D4002F#64, Instr.drd ten (fmtA 63 0 0 15 20 0 false false 1 15)),
    (0xB815410833CA000F#64, Instr.dsgd ten (fmtA 1 2 3 15 10 0 false false 0 15)),
    (0xB81D410836180001#64, Instr.dmom ten (fmtA 1 2 3 24 24 0 false false 0 1)),
    (0xB825441FDFFFFEC0#64, Instr.dpub ten (fmtL 4 3 62 0xfffff 3 0 0)),
    (0xB82D5800000000E1#64, Instr.dclr ten (fmtM 3 0 0 0 false false 0 0 14 1))] = true := by decide

/-! ### Ill-formed words (R9, R42, R46, R50, R60, R62 to R70) -/

/-- Every instruction of a list fails its field checks. -/
def refusesAll (is : List Instr) : Bool := is.all fun i => !i.wfWord

/-- Class C: fields of a NOP, register ranges, the condition of BRC, an unused field, a guarded LPAD, FENCE without a class. -/
theorem test_illformed_c : refusesAll [.nop plain (fmtJ 0 0 0 1), .br plain (fmtJ 1 0 0 0), .brc plain (fmtJ 0 0 (10 * 2 ^ 13) 0),
    .brm plain (fmtJ 8 0 0 0), .pbr plain (fmtJ 0x24 0 0 0), .pbr plain (fmtJ 0x20 32 0 0), .pbr plain (fmtJ 0 1 0 0),
    .brt plain (fmtJ 4 0 0 0), .jtb plain (fmtJ 0 32 0 0), .lpad ten (fmtJ 0 0 0 5), .lpad plain (fmtJ 0 0 1 5),
    .call plain (fmtJ 4 0 0 0), .ret plain (fmtJ 0 0 0 1), .lseq plain (fmtJ 0 0 256 0), .lbr plain (fmtJ 0 1 0 0),
    .tfence plain (fmtJ 0 0 1 0), .pmark ten (fmtJ 0 0 0 0), .yield plain (fmtJ 0 1 0 0), .twait plain (fmtJ 1 1 0 0),
    .trap plain (fmtJ 1 0 0 0), .svc plain (fmtJ 0 0 1 0), .tend plain (fmtJ 1 0 0 0),
    .fence plain (fmtA 0 4 5 0 0x00 0x08 false false 0 0), .fence plain (fmtA 0 4 5 0 0x08 0x00 false false 0 0),
    .fence plain (fmtA 0 4 5 0 0x0A 0x0D false false 0 0)] = true := by decide

/-- Class I: an unused field, an address register above a31, SUB above its limit, predicates above p15, system registers
that do not exist or take no write, shift amounts above 63 and the condition of CMPI. -/
theorem test_illformed_i : refusesAll [.add plain (fmtA 1 2 3 4 0 0 false false 0 0), .add plain (fmtA 32 2 3 0 0 0 false false 4 0),
    .sub plain (fmtA 1 2 3 0 0 0 false false 0 1), .div plain (fmtA 1 2 3 0 0 0 false false 0 2),
    .clz plain (fmtA 1 2 3 0 0 0 false false 0 0), .cmp plain (fmtA 16 2 3 0 0 0 false false 0 0),
    .cmp plain (fmtA 1 2 3 0 0 0 false false 0 10), .sel plain (fmtA 1 2 3 16 0 0 false false 0 0),
    .pand plain (fmtA 1 16 3 0 0 0 false false 0 0), .pnot plain (fmtA 1 2 3 0 0 0 false false 0 0),
    .time plain (fmtA 1 2 0 0 0 0 false false 0 0), .mfs plain (fmtB 1 0 0x003), .mfs plain (fmtB 1 1 0x000),
    .mts plain (fmtB 0 1 0x000), .mts plain (fmtB 0 1 0x010), .mtsPend plain (fmtB 0 1 0x010), .lea plain (fmtB 32 1 0),
    .shli plain (fmtB 1 2 64), .srai plain (fmtB 1 2 0x3FFFFFFFF), .cmpi plain (fmtB 1 2 0x140000000),
    .movi plain (fmtW 1 true 0), .moviHi plain (fmtW 1 true 0x2000000)] = true := by decide

/-- Class L: the access sizes and the sub-operations that each form accepts. -/
theorem test_illformed_l : refusesAll [.ldb plain (fmtL 1 2 3 0 1 0 0), .ldw plain (fmtL 1 2 3 0 2 1 0), .ldd plain (fmtL 1 2 3 0 3 0 1),
    .ldd plain (fmtL 32 2 3 0 3 0 2), .sth plain (fmtL 1 2 3 0 1 0 1), .vld plain (fmtL 1 2 3 0 5 0 0),
    .vlds plain (fmtL 1 2 3 0 6 0 3), .cld plain (fmtL 1 2 3 0 4 0 0), .cld plain (fmtL 1 2 3 0 3 0 1),
    .cst plain (fmtL 1 2 3 0 6 0 1), .rwr plain (fmtL 1 2 3 0 2 0 0), .rws plain (fmtL 1 2 3 0 3 0 4),
    .stva plain (fmtL 1 2 3 0x800 3 0 0), .rwva plain (fmtL 1 2 3 0 6 0 3 |> fun f => { f with sz := 2 }),
    .sarr plain (fmtL 1 2 3 0 3 0 0), .swait plain (fmtL 1 2 3 0 6 0 0), .saeq plain (fmtL 1 2 3 0 3 0 6),
    .saeq plain (fmtL 1 2 3 0 0 0 0), .saeq plain (fmtL 1 2 3 0 3 2 0), .saeq plain (fmtL 1 2 3 0 2 5 0),
    .saef plain (fmtL 1 2 0 0 0 0 0)] = true := by decide

/-- Class V: formats with no lane shape, a tapered format of an integer form, an index past the last lane, mask registers
above m7, the part of a conversion and the quire of the sampling forms. -/
theorem test_illformed_v : refusesAll [.vadd plain (fmtA 1 2 3 0 0x0A 0 false false 0 0), .vadd plain (fmtA 1 2 3 0 0x14 0 false false 0 2),
    .vmin plain (fmtA 1 2 3 0 0x14 1 false false 0 0), .vand plain (fmtA 1 2 3 0 0x14 0 false false 0 0),
    .vlut3 plain (fmtA 1 2 3 4 0 0 false false 0 1), .vshl plain (fmtA 1 2 3 4 0x14 0 false false 0 0),
    .vfsh plain (fmtA 1 2 3 32 0x14 0 false false 0 0), .vpopc plain (fmtA 1 2 3 0 0x14 0 false false 0 0),
    .vrot plain (fmtA 1 2 0 32 0x14 0 false false 0 0), .vbcast plain (fmtA 1 2 0 0 0x14 0 false false 0 1),
    .vcmp plain (fmtA 8 2 3 0 0x14 0 false false 0 0), .vcmp plain (fmtA 1 2 3 0 0x0A 0 false false 0 6),
    .vfadd plain (fmtA 1 2 3 0 0x14 0 false false 0 0), .vfsqrt plain (fmtA 1 2 3 0 0x1A 0 false false 0 0),
    .vfma plain (fmtA 1 2 3 4 0x1A 0 false false 0 1), .vcvt plain (fmtA 1 2 0 0x10 0x1A 0 false false 0 4),
    .vcvt plain (fmtA 1 2 0 0x20 0x1A 0 false false 0 0), .vradd plain (fmtA 1 2 0 0 0x14 0 false false 0 2),
    .mand plain (fmtA 8 2 3 0 0 0 false false 0 0), .mnot plain (fmtA 1 2 3 0 0 0 false false 0 0),
    .mpop plain (fmtA 1 8 0 0 0 0 false false 0 0), .vswt plain (fmtA 1 2 3 8 0x1A 0 false false 0 0),
    .vswt plain (fmtA 1 2 3 0 0x04 0 false false 0 0), .vspickStart plain (fmtA 1 0 3 0 0x0A 0 false false 0 1),
    .vspickScan plain (fmtA 1 2 3 0 0x1A 0 false false 0 0), .vspickFinal plain (fmtA 1 2 3 8 0x0A 0 false false 0 2)]
    = true := by decide

/-- Classes Q, M and D: quires above q7, profiles above 3 and of integers, a tile image of another size, a claim with an
unused field, the pass length, the partners of the 4-bit formats, the rows of a DCLR and the part of a tile row. -/
theorem test_illformed_qmd : refusesAll [.qclr plain (fmtA 8 0 0 0 0 0 false false 0 0), .qneg plain (fmtA 1 1 0 0 0 0 false false 0 0),
    .qdot plain (fmtA 1 2 3 0 0x14 1 false false 0 0), .qdot plain (fmtA 1 2 3 0 0x0A 4 false false 0 0),
    .qdot plain (fmtA 1 2 3 0 0x0A 0 true false 0 0), .qfma plain (fmtA 1 2 3 0 0x0A 0 false false 1 0),
    .qadd plain (fmtA 1 2 3 0 0x0A 0 false false 0 0), .qaddq plain (fmtA 1 8 0 0 0 0 false false 0 0),
    .qrnd plain (fmtA 1 8 0 0 0x0A 0 false false 0 0), .qsave plain (fmtL 8 2 3 0 6 0 0), .qload plain (fmtL 1 2 3 0 5 0 0),
    .qtst plain (fmtA 1 2 0 0 0 0 false false 0 6), .qtstNar plain (fmtA 1 2 0 2 0 0 false false 0 0),
    .qfrom plain (fmtA 1 8 0 0 0 0 false false 0 0), .mclaim plain (fmtA 1 2 3 0 0 0 false false 0 0),
    .mrel plain (fmtA 1 2 0 0 0 0 false false 0 0), .mlda plain (fmtL 1 2 3 0 6 0 0),
    .mma plain (fmtM 0 1 2 0 false false 8 8 25 0), .mma plain (fmtM 0 1 2 0 false false 8 0x20 0 0),
    .mmai plain (fmtM 0 1 2 1 false false 0x10 0x10 0 0), .mmai plain (fmtM 0 1 2 0 false false 0x10 0x23 0 4),
    .mlut plain (fmtM 0 1 2 0 false false 0x10 0 97 0), .mzero plain (fmtM 0 1 0 0 false false 0 0 0 0),
    .msave plain (fmtL 8 2 3 0 6 0 0), .drd plain (fmtA 1 0 0 0x10 0x14 0 false false 0 0),
    .dsgd plain (fmtA 1 2 3 0 0x14 0 false false 0 0), .dpub plain (fmtL 1 2 3 0 2 0 0),
    .dclr plain (fmtM 0 0 0 0 false false 0 0 15 1)] = true := by decide

/-- Class K: SW without SWE, unused fields and KX values that each command refuses. -/
theorem test_illformed_k : refusesAll [.kcp plain (fmtK 0 1 2 0 3 false false 1 0), .kcp plain (fmtK 0 1 2 3 3 false false 0 0),
    .kcpOpimg plain (fmtK 0 1 2 0 3 false false 0 0x001), .kcpn plain (fmtK 0 1 2 0 3 false false 0 0x000),
    .kcpn plain (fmtK 0 1 2 0 3 false false 0 0x0D7), .kcpv plain (fmtK 0 1 2 3 4 false false 0 1),
    .ktr plain (fmtK 0 1 2 3 1 false false 0 0), .ktr plain (fmtK 0 1 2 3 0 false false 0 3),
    .kenc plain (fmtK 0 1 2 0 3 false false 0 4), .krec plain (fmtK 0 1 2 0 3 false false 0 0),
    .kseal plain (fmtK 0 0 2 0 3 false false 0 1), .ksealUnseal plain (fmtK 0 0 2 0 3 false false 0 0),
    .ktab plain (fmtK 0 0 2 0 3 false false 0 0x064), .kdrain plain (fmtK 0 0 0 0 0 true false 0 0),
    .kres plain (fmtK 0 0 0 0 0 false false 0 1), .kresDrop plain (fmtK 0 0 0 0 1 false false 0 1),
    .knmc plain (fmtK 0 0 1 2 0 false false 0 0), .kcol plain (fmtK 0 1 2 3 4 false false 0 0),
    .kcol plain (fmtK 0 1 2 3 4 false false 0 0xB), .kcan plain (fmtK 0 0 0 1 1 false false 0 0),
    .ktsk plain (fmtK 0 1 2 0 3 false false 0 0), .gstep plain (fmtK 0 1 2 3 4 false false 0 1),
    .gmask plain (fmtK 0 1 2 3 4 false false 0 0)] = true := by decide
/-- A step of the machine is no word. -/
theorem test_illformed_event : refusesAll [.groupFetch ⟨0, 0⟩, .moduleReset ⟨[]⟩] = true := by decide

/-! ### Small states -/

/-- Context 0 of core 0 with a task, some x registers and some address registers. -/
def small (x a : List (Nat × Word)) : Ctx :=
  { Ctx.reset with task := some placedTask, bank := { Bank.reset with x := x, a := a } }
def ours : Own := { owner := some 0, clearing := false, ends := 0, release := none }
/-- A core whose context 0 owns tile 0, slots 0 and 1 and region 0. -/
def coreOf (c : Ctx) : Core :=
  { Core.reset with
    ctxs := [(0, c)], tileOwn := [(0, ours)], slotOwn := [(0, ours), (1, ours)]
    regions := [(0, { Region.reset with owner := some 0 })] }
/-- The words of a group that has passed its checks are being performed. -/
def run (c : Ctx) : State := { State.reset with cores := [(0, coreOf c)], iss := { Issue.none with checked := true } }
/-- The same, with a word by itself. -/
def alone (c : Ctx) : State := { run c with iss := Issue.none }
/-- The next state of an outcome. -/
def after (r : Host.Outcome State Fault Refusal) : State :=
  match r with
  | .next t => t
  | _ => State.reset
/-- The results in flight that an instruction leaves. -/
def flight (i : Instr) (s : State) : List Pending := (after (exec i s)).me.curLine
/-- Format A of class I: destination, two sources, SUB. -/
def opI (d a b sub : Nat) : FmtA := fmtA d a b 0 0 0 false false 0 sub
/-- Context 0 of core 0 after a word placed at reset has run. -/
def ranWord (w : Nat) : Ctx := (after (step (State.reset.withFetchWord 64 w))).ctx ⟨0, 0⟩

/-! ### Steps and the worked examples of the spec -/

/-- 05_scalar: the first word of `movi x9` leaves the sign extension of its 39 bits. -/
theorem test_movi_step : (ranWord 0x897809678_9ABCDEF).x 9 = 0xFFFFFFE789ABCDEF#64 := by decide
/-- 05_scalar: with HI the upper 25 bits are replaced and the low 39 stay. -/
theorem test_movi_hi : flight (.moviHi plain (fmtW 9 true 0x2468A)) (run (small [(9, 0xFFFFFFE789ABCDEF)] [])) =
    [⟨1, .x 9 0x0123456789ABCDEF#64, 0⟩] := by decide
/-- R71: an all-zero word raises ILL, so that its task without a handler asks for its suspension. -/
theorem test_zero_word_step : (ranWord 0).tcause = 2 ∧ (ranWord 0).saving = some 1 := by decide
/-- 05_scalar: the table of borderline results. -/
theorem test_div_by_zero : flight (.div plain (opI 3 1 2 0)) (run (small [(1, 7)] [])) =
    [⟨18, .x 3 (BitVec.allOnes 64), Flags.dz⟩] := by decide
theorem test_rem_truncates : flight (.rem plain (opI 3 1 2 0)) (run (small [(1, -7), (2, 2)] [])) =
    [⟨18, .x 3 (-1), 0⟩] := by decide
theorem test_div_unsigned : flight (.div plain (opI 3 1 2 1)) (run (small [(1, 0x8000000000000000), (2, 2)] [])) =
    [⟨18, .x 3 0x4000000000000000, 0⟩] := by decide
theorem test_div_least : flight (.div plain (opI 3 1 2 0)) (run (small [(1, 0x8000000000000000), (2, -1)] [])) =
    [⟨18, .x 3 0x8000000000000000, 0⟩] := by decide
theorem test_mulh : flight (.mulh plain (opI 3 1 2 0)) (run (small [(1, -1), (2, 3)] [])) = [⟨3, .x 3 (-1), 0⟩] := by decide
theorem test_mulh_unsigned : flight (.mulh plain (opI 3 1 2 1)) (run (small [(1, -1), (2, 3)] [])) =
    [⟨3, .x 3 2, 0⟩] := by decide
theorem test_sra : flight (.sra plain (opI 3 1 2 0)) (run (small [(1, -5), (2, 1)] [])) = [⟨1, .x 3 (-3), 0⟩] := by decide
theorem test_shl_by_width : flight (.shl plain (opI 3 1 2 0)) (run (small [(1, 1), (2, 64)] [])) = [⟨1, .x 3 0, 0⟩] := by decide
theorem test_rotl : flight (.rotl plain (opI 3 1 2 0)) (run (small [(1, 0x8000000000000001), (2, 65)] [])) =
    [⟨1, .x 3 3, 0⟩] := by decide
theorem test_clz_zero : flight (.clz plain (opI 3 0 0 0)) (run (small [] [])) = [⟨1, .x 3 64, 0⟩] := by decide
theorem test_cmpi_ltu : flight (.cmpi plain (fmtB 3 7 (6 * 2 ^ 29 + 0x1FFFFFFF))) (run (small [(7, 5)] [])) =
    [⟨1, .p 3 true, 0⟩] := by decide
/-- 05_scalar: COREXY of core (29, 10) of module 3, and IDARCH. -/
theorem test_corexy : ({ State.reset with mod := { ModuleRegs.reset with number := 3 } } : State).sysRead ⟨coreAt 29 10, 0⟩ 1
    = 0x000000000F030A1D#64 := by decide
theorem test_core_index : coreAt 29 10 = 509 ∧ dieOf 509 = 15 ∧ State.reset.sysRead ⟨509, 0⟩ 0 = 0x0000249600B00001#64 := by decide
/-- 02_numbers: roundings near the top of t16e1. -/
theorem test_round_t16e1 : roundTap 16 1 (Q.ofInt (3 * 2 ^ 23)) = 0x7FFC ∧ roundTap 16 1 (Q.ofInt (7 * 2 ^ 22)) = 0x7FFD
    ∧ roundTap 16 1 (Q.ofInt (2 ^ 27)) = 0x7FFE ∧ roundTap 16 1 (Q.ofInt (2 ^ 30)) = 0x7FFF
    ∧ roundTap 16 1 (Q.ofInt (-3)) = 0xA800 := by decide
theorem test_decode_t16e1 : decodeVal (.tap 16 1) 0x5800 = .real ⟨3, 1⟩ ∧ decodeVal (.tap 16 1) 0x7FFF = .real ⟨2 ^ 28, 1⟩
    ∧ decodeVal (.tap 16 1) 0x8000 = .nar := by decide
/-- 02_numbers: E(−0.5). -/
theorem test_exponential : expE ⟨-1, 2⟩ = 0x3B504F33 := by decide
/-- 02_numbers: three products under the four profiles. -/
theorem test_profiles : ((List.range 4).map fun p => (profileSum p Quire.zero [.real ⟨2 ^ 24, 1⟩, .real ⟨1, 1⟩,
    .real ⟨-(2 ^ 24), 1⟩]).1) = [⟨false, 2 ^ 240⟩, ⟨false, 0⟩, ⟨false, 0⟩, ⟨false, 2 ^ 240⟩] := by decide +kernel
/-- 07_quires: −2^−24 leaves a quire as the t16e1 word 0xFFFC, sign-extended. -/
theorem test_qrnd : flight (.qrnd plain (fmtA 5 0 0 0 5 0 false false 0 0))
    (run { small [] [] with q := [(0, ⟨false, -(2 ^ 216)⟩)] }) = [⟨4, .x 5 0xFFFFFFFFFFFFFFFC#64, 0⟩] := by decide +kernel
/-- 06_vector: 3.0 and 2^13 of f32 in t8e1. -/
theorem test_vcvt_values : (convertVal t8e1 (decodeVal (.ieee 8 23) 0x40400000)).1 = 0x58 ∧
    (convertVal t8e1 (decodeVal (.ieee 8 23) 0x46000000)) = (0x7F, 0) := by decide
/-- 06_vector: VRADD at f16 over 65,504, 65,504 and −65,504. -/
theorem test_vradd : readQuire (.ieee 5 10) (quireAddAll Quire.zero ([0x7BFF, 0x7BFF, 0xFBFF].map (decodeVal (.ieee 5 10)))).1
    = (0x7BFF, 0) := by decide +kernel
/-- 09_local_memory: the last arrival of a barrier phase clears COUNT and flips PHASE. -/
theorem test_barrier : swArrive 0x0004000300000002#64 = 0x0005000300000000#64 := by decide
/-- 09_local_memory: two entries of 2^−13 on 1.0 at t16e1, in one run and in two. -/
theorem test_scatter_run : runValue { id := 1, addr := 0x2000, sz := 1, op := 0, kind := 3, val := 0 } 0x4000 [0x00C0, 0x00C0]
    = (0x4001, 0) ∧ (runValue { id := 1, addr := 0x2000, sz := 1, op := 0, kind := 3, val := 0 } 0x4000 [0x00C0]).1 = 0x4000 := by decide
/-- 13_global_memory: a pinned and a striped page of 8 MiB. -/
theorem test_pages : leafPa 3 0x0000000340800007#64 0x000000402A812345 = 0x340812345
    ∧ homeOf 0x14C0201010 ≠ .nothing := by decide
/-- 13_global_memory: ties at the top-k steps. -/
theorem test_top_k : topK 1 [(0, .real ⟨3, 1⟩), (1, .real ⟨3, 1⟩)] = [(0, .real ⟨3, 1⟩)] ∧
    (topK 2 [(0, .real ⟨4, 1⟩), (1, .real ⟨5, 1⟩), (2, .real ⟨4, 1⟩), (3, .real ⟨5, 1⟩)]).map Prod.fst = [1, 3] := by decide
/-- R62, the table of small groups: a third word of class I finds no slot, and the first failing word decides. -/
theorem test_group_checks :
    [[0x0808040830000000#64, 0x0A08051400000040#64, 0x8810061C80000000#64], [0x4800000000000000#64, 0x8838000000000000#64],
      [0x0808040830000000#64, 0x8810061040000000#64]].map (fun ws => match decodeGroup .program 0 ws with
        | .error t => t.cause
        | .ok _ => 0) = [1, 1, 1] := by decide

/-! ### Witnesses: the hypotheses of each statement are met (instructions) -/

/-- Every word is performed where its group has passed its checks, and an accepted one by itself. -/
theorem runs (i : Instr) (c : Ctx) (h : c.guard plain = true) : Goes i plain (run c) := ⟨h, .inl rfl⟩
theorem runsAlone (i : Instr) (c : Ctx) (h : c.guard plain = true) (a : acceptedIn c.mode i = true) :
    Goes i plain (alone c) := ⟨h, .inr a⟩
theorem allAlone {is : List Instr} {c : Ctx} (h : c.guard plain = true) (a : (is.all (acceptedIn c.mode)) = true) :
    ∀ i ∈ is, Goes i plain (alone c) := fun i m => runsAlone i c h (List.all_eq_true.1 a i m)
theorem small_guard (x a : List (Nat × Word)) : (small x a).guard plain = true := rfl
theorem runsSmall (i : Instr) (x a : List (Nat × Word)) : Goes i plain (run (small x a)) := runs i _ rfl
/-- Region 0 is owned by the running context. -/
theorem ownScratch {c : Ctx} {a n : Nat} (h : a + n ≤ 0x20000) : OwnScratch (run c) a n := by
  refine ⟨Nat.le_trans h (by decide), fun b _ h2 => ?_⟩
  have e : regionOf b = 0 := by unfold regionOf; omega
  rw [e]
  exact ⟨rfl, rfl⟩
theorem allRaw {s : State} {a n : Nat} (h : ((List.range n).all fun k => s.localRelief s.cur.core (a + k) == 0) = true) :
    AllRaw s a n := by
  simp only [List.all_eq_true, List.mem_range, beq_iff_eq] at h
  intro b h1 h2
  have := h (b - a) (by omega)
  rwa [show a + (b - a) = b by omega] at this

theorem witness_EncodeOfDecode : decodeWord 0x801803105FFFFFF4#64
    = .ok (.brc plain { ja := 3, jb := 4, jhi := 0x05FFF, jlo := 0xFFF4 }) := by decide
theorem witness_DecodeOfEncode : (Instr.brc plain { ja := 3, jb := 4, jhi := 0x05FFF, jlo := 0xFFF4 }).wfWord = true := by decide
/-- Classes 8 and 15, and the opcodes 0x0B and 0xFF of class C. -/
theorem witness_BadWordsAreRefused : 8 ≤ ((0x4000000000000000#64).extractLsb' 59 4).toNat ∧
    8 ≤ ((0xFFFFFFFFFFFFFFFF#64).extractLsb' 59 4).toNat ∧ ((0x0058000000000000#64).extractLsb' 59 4).toNat < 8 ∧
    instrOf 0 0x0B plain 0 = none ∧ instrOf 0 0xFF plain 0 = none := by decide

/-- A NOP at address 0 of the program of context 0 of core 0. -/
def nopPlaced : State := State.reset.withFetchWord 64 0x8008000000000000
def nopItem : Item := itemOf [] 0x8008000000000000#64 (.nop plain (fmtJ 0 0 0 0))
theorem witness_StepRunsTheDecodedWord : nopPlaced.agenda = [some (.groupFetch ⟨0, 0⟩)] ∧ nopPlaced.canRun ⟨0, 0⟩ = true ∧
    (nopPlaced.ctx ⟨0, 0⟩).blocked = none ∧ (nopPlaced.ctx ⟨0, 0⟩).bubbles = 0 ∧ (nopPlaced.ctx ⟨0, 0⟩).tret = none ∧
    (nopPlaced.ctx ⟨0, 0⟩).kend = false ∧ (nopPlaced.ctx ⟨0, 0⟩).entered = false ∧ (nopPlaced.ctx ⟨0, 0⟩).at_ &&& 7 = 0 ∧
    (match ((nopPlaced.setAgenda []).focus ⟨0, 0⟩).formGroup ⟨0, 0⟩ 0 with
      | (.ok ws, u) => ws == [0x8008000000000000#64] && u.atMark ⟨0, 0⟩ [0x8008000000000000] == none && u.lateChecks [nopItem] == .ok &&
        padOk (u.ctx ⟨0, 0⟩) [nopItem]
      | _ => false) = true ∧
    decodeWord 0x8008000000000000#64 = .ok (.nop plain (fmtJ 0 0 0 0)) ∧
    acceptedIn .program (.nop plain (fmtJ 0 0 0 0)) = true := by decide
/-- A guard on p10, and an MTS to EPC in the program. -/
theorem witness_GuardsAndAcceptedWords : (run (small [] [])).iss.checked = true ∧
    (run (small [] [])).me.guard ⟨10, false⟩ = false ∧ ((Instr.nop ⟨10, false⟩ (fmtJ 0 0 0 0)).parts true).isSome = true ∧
    (alone (small [] [])).iss.checked = false ∧ acceptedIn (alone (small [] [])).me.mode (.mts plain (fmtB 0 1 0x018)) = false ∧
    ((Instr.mts plain (fmtB 0 1 0x018)).parts true).isSome = true := by decide

theorem witness_SumsProductsAndLogic : (∀ i ∈ [Instr.add, .sub, .mul, .mulh, .and, .or, .xor, .andn],
    Goes (i plain (opI 3 1 2 0)) plain (run (small [(1, -1), (2, 1)] []))) ∧ (opI 3 1 2 0).sub = 0 ∧ (opI 3 1 2 1).sub = 1 :=
  ⟨fun _ _ => runsSmall _ _ _, by decide, by decide⟩
/-- A shift by 64 and a turn by 65, and 0 as the source of a count. -/
theorem witness_ShiftsCountsAndExtremes : (run (small [(1, 9), (2, 64)] [])).me.srcB (opI 3 1 2 0) = 64 ∧
    (run (small [] [])).me.srcA (opI 3 1 2 0) = 0 ∧ (∀ i ∈ [Instr.shl, .shr, .sra, .rotl, .clz, .popc, .min, .max],
      Goes (i plain (opI 3 1 2 0)) plain (run (small [(1, 9), (2, 64)] []))) := ⟨rfl, rfl, fun _ _ => runsSmall _ _ _⟩
/-- A zero divisor, the least dividend by −1, and ordinary pairs, signed and unsigned. -/
theorem witness_DivisionAndRemainder : (run (small [(1, 7)] [])).me.srcB (opI 3 1 2 0) = 0 ∧
    ((run (small [(1, 0x8000000000000000), (2, -1)] [])).me.srcA (opI 3 1 2 0)).toInt = -(2 ^ 63) ∧
    ((run (small [(1, 0x8000000000000000), (2, -1)] [])).me.srcB (opI 3 1 2 0)).toInt = -1 ∧
    (run (small [(1, 7), (2, 2)] [])).me.srcB (opI 3 1 2 0) ≠ 0 ∧ (opI 3 1 2 0).sub = 0 ∧ (opI 3 1 2 1).sub = 1 ∧
    (∀ i ∈ [Instr.div, .rem], ∀ n ∈ [0, 1], Goes (i plain (opI 3 1 2 n)) plain (run (small [(1, 7), (2, 2)] []))) :=
  ⟨by decide, by decide, by decide, by decide, by decide, by decide, fun _ _ _ _ => runsSmall _ _ _⟩
/-- lt holds of 5 and 6, geu of equal words. -/
theorem witness_ComparisonsAndPredicates : CondHolds 2 5 6 ∧ CondHolds 9 5 5 ∧ ¬CondHolds 6 5 5 ∧
    ((-1 : Word).toInt = ((fmtB 3 7 0x1FFFFFFF).imm.setWidth 29).toInt) ∧
    Goes (.cmp plain (fmtA 3 1 2 0 0 0 false false 0 2)) plain (run (small [(1, 5), (2, 6)] [])) ∧
    Goes (.cmpi plain (fmtB 3 7 0x1FFFFFFF)) plain (run (small [] [])) ∧
    (∀ i ∈ [Instr.sel, .pand, .por, .pxor, .pnot], Goes (i plain (opI 3 1 2 0)) plain (run (small [] []))) :=
  ⟨.inr (.inr (.inl (by decide))), by unfold CondHolds; decide, by unfold CondHolds; decide, by decide, runsSmall _ _ _,
    runsSmall _ _ _, fun _ _ => runsSmall _ _ _⟩
/-- The least immediate, and an amount of 63. -/
theorem witness_ImmediatesAndSystemRegisters : ((-(2 ^ 33) : Word).toInt = (fmtB 1 2 (2 ^ 33)).imm.toInt) ∧
    ((63 : Word).toInt = (fmtB 1 2 63).imm.toInt) ∧ ((-1 : Word).toInt = (fmtW 1 false 0x7FFFFFFFFF).imm.toInt) ∧
    (∀ i ∈ [Instr.addi, .andi, .ori, .xori, .shli, .shri, .srai, .lea, .mfs, .mts, .mtsSticky, .mtsPend, .regrelWrite,
      .tinvcStart], Goes (i plain (fmtB 1 2 63)) plain (run (small [] []))) ∧
    Goes (.moviHi plain (fmtW 1 true 0)) plain (run (small [] [])) ∧ Goes (.time plain (opI 1 0 0 0)) plain (run (small [] [])) :=
  ⟨by decide, by decide, by decide, fun _ _ => runsSmall _ _ _, runsSmall _ _ _, runsSmall _ _ _⟩

/-- Context 0 with one result in flight that is due at once. -/
def due (e : Effect) : Ctx := { small [] [] with ccyc := 4, line := [⟨4, e, 0⟩] }
theorem witness_RegisterResultsLand : (run (due (.x 0 5))).me.curLine = [⟨4, .x 0 5, 0⟩] ∧
    (4 : Nat) ≤ (run (due (.x 0 5))).me.clock ∧ (run (due (.x 0 5))).me.mode ≠ .completion ∧
    (run (due (.v 63 1 1))).me.curLine = [⟨4, .v 63 1 1, 0⟩] ∧ (run (due (.p 15 true))).me.curLine = [⟨4, .p 15 true, 0⟩] ∧
    (run (due (.sys 0x010 0xFFFF))).me.curLine = [⟨4, .sys 0x010 0xFFFF, 0⟩] :=
  ⟨rfl, by decide, by decide, rfl, rfl, rfl⟩
/-- A result to x63 in the completion handler; REGREL of an owned region, of one handed to the other context and of one not
owned; TINVC with START, idle and busy; and TRET with and without a request. -/
def dueShadow : State := run { small [] [] with mode := .completion, kcyc := 4, kline := [⟨4, .x 63 5, 0⟩] }
def dueRelease : State :=
  (run (due (.sys 0x107 5))).modCore 0 fun k => k.setRegion 2 { Region.reset with owner := some 0, next := some 1 }
theorem witness_RegisterResultsLand_shadow : dueShadow.me.kline = [⟨4, .x 63 5, 0⟩] ∧ 4 ≤ dueShadow.me.kcyc ∧
    dueShadow.me.mode = .completion := ⟨rfl, by decide, rfl⟩
theorem witness_RegisterResultsLand_release : dueRelease.me.curLine = [⟨4, .sys 0x107 5, 0⟩] ∧
    (∀ g ∈ [0, 2], (5 : Word).getLsbD g = true) ∧ (dueRelease.here.region 0).owner = some 0 ∧
    (dueRelease.here.region 2).owner = some 0 ∧ (dueRelease.here.region 2).next = some 1 ∧
    (dueRelease.here.region 15).owner = none ∧ (5 : Word).getLsbD 15 = false :=
  ⟨rfl, by decide, rfl, rfl, rfl, rfl, by decide⟩
theorem witness_RegisterResultsLand_inval : (run (due (.sys 0x118 0x40))).me.curLine = [⟨4, .sys 0x118 0x40, 0⟩] ∧
    (run (due (.sys 0x118 0x3F))).me.curLine = [⟨4, .sys 0x118 0x3F, 0⟩] ∧
    (0x40 : Word).getLsbD 6 = true ∧ (0x3F : Word).getLsbD 6 = false ∧
    ((run (due (.sys 0x118 0x40))).sysRead ⟨0, 0⟩ 0x118).getLsbD 7 = false ∧
    ((run { due (.sys 0x118 0x40) with tinvc := 0x80 }).sysRead ⟨0, 0⟩ 0x118).getLsbD 7 = true :=
  ⟨rfl, rfl, by decide, by decide, rfl, rfl⟩
theorem witness_RegisterResultsLand_return : (run (due (.sys 0x11C 8))).me.curLine = [⟨4, .sys 0x11C 8, 0⟩] ∧
    (run (due (.sys 0x11C 4))).me.curLine = [⟨4, .sys 0x11C 4, 0⟩] ∧ (8 : Word) &&& 7 = 0 ∧ (4 : Word) &&& 7 ≠ 0 :=
  ⟨rfl, rfl, by decide, by decide⟩
theorem witness_ResultsWaitInFlight : (run (small [] [])).iss.checked = true ∧
    exec (.add plain (opI 1 2 3 0)) (run (small [] [])) = .next (after (exec (.add plain (opI 1 2 3 0)) (run (small [] [])))) :=
  ⟨rfl, rfl⟩

/-- A taken and an untaken condition, masks of zeros, of ones and of one one, a target that is no multiple of 8, and table
entries 0 and 1 of a table of size 1. -/
theorem witness_BranchInstructions :
    (∀ i ∈ [Instr.br, .brc, .brm, .pbr, .call, .brt, .ret, .jtb], Goes (i plain (fmtJ 0 1 1 0)) plain (run (small [] []))) ∧
    (run (small [] [])).me.mr 0 = BitVec.allOnes 128 ∧ (run (small [] [])).me.mr 7 = 0 ∧
    (alone { small [] [] with m := [(7, 1)] }).me.mr 7 ≠ 0 ∧ (alone { small [] [] with m := [(7, 1)] }).me.mr 7 ≠ BitVec.allOnes 128 ∧
    Goes (.brm plain (fmtJ 7 0 0 0)) plain (alone { small [] [] with m := [(7, 1)] }) ∧
    ((run (small [] [])).me.b 3).toNat % 8 = 0 ∧
    ((alone { small [] [] with bank := { Bank.reset with b := [(3, 4)] } }).me.b 3).toNat % 8 ≠ 0 ∧
    OwnScratch (run (small [] [(1, 0x100)])) 0x100 8 ∧ ((0x100 : Word).toNat % 8 = 0) ∧
    ((run (small [] [(1, 0x100)])).me.x 0).toNat < (fmtJ 0 1 1 0).jhi.toNat ∧
    (fmtJ 2 1 1 0).jhi.toNat ≤ ((alone (small [(2, 1)] [(1, 0x100)])).me.x 2).toNat :=
  ⟨fun _ _ => runsSmall _ _ _, by decide, by decide, by decide, by decide, runsAlone _ _ rfl rfl, by decide, by decide,
    ownScratch (by decide), by decide, by decide, by decide⟩
/-- A time that has come and one that has not, results in flight, and STICKY with and without the flag selected. -/
theorem witness_MarksWaitsAndArithmeticFence :
    (∀ i ∈ [Instr.nop, .lpad, .pmark, .yield, .twait, .tfence].map (· plain (fmtJ 1 0 0 8)), Goes i plain (alone (small [(1, 1)] []))) ∧
    ((run (small [] [])).me.x 1).toNat ≤ (run (small [] [])).dieTime 0 ∧
    (alone (small [(1, 1)] [])).dieTime 0 < ((alone (small [(1, 1)] [])).me.x 1).toNat ∧
    (alone (due (.x 1 1))).me.line ≠ [] ∧ (alone (small [] [])).me.line = [] ∧
    (alone (small [] [])).me.sticky.setWidth 16 &&& (fmtJ 0 0 0 8).jlo = 0 ∧
    (alone { small [] [] with sticky := 8 }).me.sticky.setWidth 16 &&& (fmtJ 0 0 0 8).jlo ≠ 0 :=
  ⟨allAlone rfl (by decide), by decide, by decide, by decide, by decide, by decide, by decide⟩


/-- Two NOP groups at address 0, so that a body of one group can be formed there, and a nest of one level with COUNT 2 in
region 0; LC and EC of a loop at their ends. -/
def nested (count : Byte) : State :=
  let s := nopPlaced.modCore 0 fun k => { coreOf (k.ctx 0) with scratch := [(0x100, 1), (0x108, count)] }
  { s with mem := s.mem.store 0x20000008 (bytesOfWord 0x8008000000000000), iss := { Issue.none with checked := true } }
/-- The same program with its pc at an address, mapped or not. -/
def atPc (a : Nat) : State := nopPlaced.modCtx ⟨0, 0⟩ fun c => { c with pc := BitVec.ofNat 64 a }
theorem witness_LoopSequencer : ((nested 2).bodyEnd ⟨0, 0⟩ 1 0).1 = true ∧ ((nested 2).bodyEnd ⟨0, 0⟩ 4 0).1 = false ∧
    ({ LoopSeq.reset with desc := lseqBytes (nested 2).here 0x100 } : LoopSeq).levels = 1 ∧
    ({ LoopSeq.reset with desc := lseqBytes (nested 2).here 0x100 } : LoopSeq).count 0 = 2 ∧
    ({ LoopSeq.reset with desc := lseqBytes (nested 0).here 0x100 } : LoopSeq).count 0 = 0 ∧
    (nested 2).me.guard plain = true ∧ (nested 2).iss.checked = true ∧
    (run (small [(1, 1), (2, 1)] [])).me.mode = .program ∧ (run (small [(1, 1), (2, 1)] [])).me.line = [] ∧
    (run (small [(1, 1), (2, 1)] [])).me.x 1 = 1 ∧ (run (small [(1, 1), (2, 1)] [])).me.x 2 = 1 ∧
    (run (small [] [])).me.x 1 = 0 ∧ (run (small [(2, 2)] [])).me.x 2 = 2 ∧
    (let s := { nested 2 with iss := Issue.none };
      s.iss.checked = false ∧ lseqBad (lseqBytes s.here 0x100) = false ∧ s.me.seq.active = false ∧
      s.closedGates ⟨0, 0⟩ = []) ∧
    (∀ at_ ∈ [8, 0x40000008], let s := atPc at_;
      s.me.at_.toNat = (at_ - 8) + 8 * 1 ∧ (s.scanSpan ⟨0, 0⟩ 1 (at_ - 8) 0 0).1 = if at_ = 8 then some (1, 0) else none) := by
  decide
/-- An empty snapshot, and a remote write that a FENCE of all classes takes into its snapshot. -/
def fenceAll : FmtA := fmtA 0 4 5 0 0x1F 0x3C false false 0 0
def queuedWrite : RemoteWrite :=
  { id := 3, src := ⟨0, 0⟩, module := 0, core := 1, addr := 0x100, bytes := [1, 2, 3, 4, 5, 6, 7, 8], we := 0xFF, arrive := none
    time := none, late := none, lambda := 0, ready := 0, atPort := false, store := false, tenant := 0 }
def queueing : Ctx := { small [(5, 0x200000)] [] with rwq := [queuedWrite] }
/-- A QSAVE still to land, a timed store, remote writes in a queue and at their core, a copy and a closed window. -/
def writing : State :=
  let c : Ctx := { queueing with
    line := [⟨9, .store 0x200 [1, 2], 0⟩], stva := [{ queuedWrite with id := 4, time := some 9 }]
    saeClosed := [{ id := 6, runs := [({ id := 7, addr := 0x300, sz := 2, op := 0, kind := 0, val := 0 }, [1])] }] }
  let k : Cmd :=
    { id := 8, ctx := some ⟨0, 0⟩, node := 0, tenant := 0, chan := 0, word := 0xB00D7FF81FFFFC00, tgt := 0x400, frm := 0x500, cnt := 64
      lrec := 0, record := [], nest := [], state := .queued, done := 0, acquired := false, accepted := false, released := false
      tbuf := [], source := [], owed := [], prior := [], held := [], out := [], flags := 0, lambda := 0, aux := 0, since := 0 }
  { run c with cores := [(0, coreOf c), (1, { Core.reset with incoming := [{ queuedWrite with id := 5 }] })], cmds := [k], nextId := 9 }
/-- Four closed gates, each on the write in the queue. -/
def gated : State :=
  let g (n : Nat) : Gate := { id := n, word := 0, base := 0x100, len := 8, glob := false, succ := 15, members := [.write 3] }
  alone { queueing with gates := [g 10, g 11, g 12, g 13] }
theorem witness_FenceOpensAGate_blocks :
    (∃ e ∈ gated.closedGates ⟨0, 0⟩, e.succ.getLsbD succL = true ∧ e.glob = false ∧ e.base < 0x107 + 1 ∧ 0x107 < e.base + e.len ∧
      e.base < 2 ^ 64) ∧ gated.iss.checked = false ∧ gated.cmds = [] ∧ (0x107 : Word).toNat % 2 ^ 0 = 0 ∧
    gated.me.a 0 + gated.me.x 0 + BitVec.ofInt 64 ((fmtL 3 0 0 0x107 0 0 0).off.toInt * (1 : Nat)) = 0x107 ∧
    OwnScratch gated 0x107 1 ∧ AllRaw gated 0x107 1 ∧
    (∀ i ∈ [Instr.ldb, .ldh, .ldw, .ldd, .stb, .sth, .stw, .std].map (· plain (fmtL 3 0 0 0x107 0 0 0)), Goes i plain gated) ∧
    GateMember.store 0 0x100 1 ∈ ((run { queueing with port2 := [(.program, 0x100, [1])] }).fenceGate ⟨0, 0⟩ plain fenceAll).members :=
  ⟨by decide, by decide, by decide, by decide, by decide, ownScratch (by decide), allRaw (by decide), allAlone rfl (by decide), by decide⟩
theorem witness_FenceOpensAGate : Goes (.fence plain fenceAll) plain (run (small [] [])) ∧
    ((run (small [] [])).fenceGate ⟨0, 0⟩ plain fenceAll).members = [] ∧
    (writing.fenceGate ⟨0, 0⟩ plain fenceAll).members =
      [.store 9 0x200 2, .write 4, .write 3, .write 5, .cmd 8, .run 7] ∧
    (gated.closedGates ⟨0, 0⟩).length = 4 ∧ gated.iss.checked = false ∧ gated.cmds = [] ∧
    (gated.fenceGate ⟨0, 0⟩ plain fenceAll).members ≠ [] ∧ acceptedIn gated.me.mode (.fence plain fenceAll) = true ∧
    ((alone queueing).closedGates ⟨0, 0⟩).length < 4 := ⟨runsSmall _ _ _, by decide⟩
/-- A context with nothing left, one with a remote write, and a tenant with and without a handler. -/
theorem witness_EndsAndSoftwareTraps : (run (small [] [])).ctxCmds ⟨0, 0⟩ = [] ∧ (run (small [] [])).me.rwq = [] ∧
    (run (small [] [])).me.stva = [] ∧ (∀ k ∈ (run (small [] [])).cores, ∀ w ∈ k.2.incoming, w.src ≠ ⟨0, 0⟩) ∧
    (run (small [] [])).msgs = [] ∧ (alone queueing).me.rwq ≠ [] ∧ (alone (small [] [])).me.mode = .program ∧
    (∀ i ∈ [Instr.tend, .trap, .svc].map (· plain (fmtJ 0 0 0 0)), Goes i plain ((alone (small [] [])).setBlockReg 0x0C0 8)) ∧
    8 ≤ (((alone (small [] [])).setBlockReg 0x0C0 8).svec ⟨0, 0⟩).toNat ∧
    ({ alone (small [] []) with cmds := writing.cmds } : State).ctxCmds ⟨0, 0⟩ ≠ [] ∧
    (∀ k ∈ ({ alone (small [] []) with cmds := writing.cmds } : State).ctxCmds ⟨0, 0⟩, k.isStopped = false) ∧
    ({ alone (small [] []) with cmds := writing.cmds } : State).closedGates ⟨0, 0⟩ = [] :=
  ⟨rfl, rfl, rfl, by decide, rfl, by decide, rfl, fun i m => ⟨rfl, .inr (by revert i; decide)⟩, by decide, by decide, by decide, by decide⟩
/-- The program with and without a handler at the least vector that counts as one, and a trap inside a handler. -/
theorem witness_TrapEntries : (((run (small [] [])).setBlockReg 0x0C0 8).ctx ⟨0, 0⟩).mode = .program ∧
    8 ≤ (((run (small [] [])).setBlockReg 0x0C0 8).svec ⟨0, 0⟩).toNat ∧ (Trap.plain 15 0).cause ≠ 7 ∧ (Trap.plain 255 0).cause < 2 ^ 8 ∧
    (Trap.plain 15 0).ccause < 2 ^ 8 ∧ (Trap.plain 15 0).tsub < 2 ^ 4 ∧ (Trap.plain 15 0).chan < 4 ∧ (Trap.plain 15 0).code < 2 ^ 16 ∧
    (((run (small [] [])).setBlockReg 0x0C0 7).svec ⟨0, 0⟩).toNat < 8 ∧
    ((run { small [] [] with mode := .supervisor }).ctx ⟨0, 0⟩).mode ≠ .program ∧
    ((run { small [] [] with mode := .supervisor }).ctx ⟨0, 0⟩).task.isSome = true :=
  ⟨rfl, by decide, by decide, by decide, by decide, by decide, by decide, by simp [Trap.plain], by decide, by decide, rfl⟩
theorem witness_ReturnsFromATrap : ∀ v ∈ [(1 : Word), 2, 4],
    ((run { small [] [] with mode := .supervisor, tret := some v }).ctx ⟨0, 0⟩).mode = .supervisor ∧
    ((run { small [] [] with mode := .supervisor, tret := some v }).ctx ⟨0, 0⟩).sline = [] ∧
    ((run { small [] [] with mode := .supervisor, tret := some v }).ctx ⟨0, 0⟩).tret = some v ∧
    ((run { small [] [] with mode := .supervisor, tret := some v }).ctx ⟨0, 0⟩).task.isSome = true :=
  fun _ _ => ⟨rfl, rfl, rfl, rfl⟩

/-- The last 8 and 128 bytes of region 0, the first and the last sync word, and the first page of a cluster window. -/
def windowed : Ctx := { small [] [(1, 0x1FFF8), (2, 0x1FF80)] with cwin := [(0, 0x0000000000010000)] }
theorem witness_Loads : OwnScratch (run windowed) 0x1FFF8 8 ∧ OwnScratch (run windowed) 0x1FF80 128 ∧ NoGate (run windowed) ∧
    OwnCluster (run windowed) 0x1000000 8 ∧ OwnCluster (run windowed) 0x1000F80 128 ∧ 0x1FFF8 % 8 = 0 ∧ 0x1FF80 % 128 = 0 ∧
    ((run windowed).me.a 1).toNat = 0x1FFF8 ∧ ((run windowed).me.a 2).toNat = 0x1FF80 ∧
    ((run windowed).me.x 0).toNat ≤ (run windowed).dieTime 0 ∧ (0x1FF000 ≤ 0x1FFFF8 ∧ 0x1FFFF8 + 8 ≤ 0x200000) ∧
    (∀ i ∈ [Instr.ldb, .ldh, .ldw, .ldd, .vld, .vlds, .ldnb, .cld], Goes (i plain (fmtL 3 1 0 0 3 0 0)) plain (run windowed)) :=
  ⟨ownScratch (by decide), ownScratch (by decide), rfl, by unfold OwnCluster; decide, by unfold OwnCluster; decide, by decide, by decide, by decide,
    by decide, by decide, by decide, fun _ _ => runs _ _ rfl⟩
theorem witness_Stores : OwnScratch (run windowed) 0x1FFF8 8 ∧ AllRaw (run windowed) 0x1FFF8 8 ∧ AllRaw (run windowed) 0x1FF80 128 ∧
    AllRaw (run windowed) 0x1000000 8 ∧ NoGate (run windowed) ∧
    (∀ i ∈ [Instr.stb, .sth, .stw, .std, .vst, .vsts, .cst], Goes (i plain (fmtL 3 1 0 0 3 0 0)) plain (run windowed)) :=
  ⟨ownScratch (by decide), allRaw (by decide), allRaw (by decide), allRaw (by decide), rfl, fun _ _ => runs _ _ rfl⟩
/-- An address one past a multiple of 8, the word that ends one byte into the sync page, and one that ends past it. -/
theorem witness_AccessTraps : (0x101 : Word).toNat % 8 ≠ 0 ∧ (0x1FF000 : Word).toNat % 8 = 0 ∧
    0x1FF000 < (0x1FF000 : Word).toNat + 8 ∧ 0x200000 < (0x200000 : Word).toNat + 8 ∧
    (alone (small [] [(1, 0x1FF000)])).me.a 1 = 0x1FF000 ∧ (alone (small [] [])).iss.checked = false ∧
    ¬OwnCluster (alone (small [] [])) 0x1000000 8 ∧ (∀ i ∈ [Instr.ldb, .ldh, .ldw, .ldd, .stb, .sth, .stw, .std, .cld,
      .cst].map (· plain (fmtL 3 1 0 0 3 0 0)), Goes i plain (alone (small [] []))) :=
  ⟨by decide, by decide, by decide, by decide, by decide, rfl, by unfold OwnCluster; decide, allAlone rfl (by decide)⟩
/-- A valid window of one page at core (1, 0), its last word and the sync word 511. -/
def reaching : Ctx := { small [(2, 511)] [(1, 0xFF8)] with rwin := [(0, 0x8000000100000001)] }
theorem witness_RemoteWritesAreQueued : (Sparse.get 0 (run reaching).me.rwin 0).getLsbD 63 = true ∧ (0xFF8 : Word).toNat % 8 = 0 ∧
    4096 * ((0x8000000100000001 : Word).toNat / 2 ^ 16 % 2 ^ 9) ≤ 0xFF8 ∧
    0xFF8 + 8 ≤ 4096 * ((0x8000000100000001 : Word).toNat / 2 ^ 16 % 2 ^ 9 + (0x8000000100000001 : Word).toNat / 2 ^ 32 % 2 ^ 10) ∧
    (run reaching).me.rwq.length < 16 ∧ ((run reaching).me.x 2).toNat < 512 ∧
    (run reaching).releaseBlocked ⟨0, 0⟩ (rwsRef (fmtL 3 1 2 0 3 0 0) (run reaching)) (some 1) = false ∧
    (∀ i ∈ [Instr.rwr, .rws, .rwva], Goes (i plain (fmtL 3 1 0 0 3 0 0)) plain (run reaching)) :=
  ⟨by decide, by decide, by decide, by decide, by decide, by decide, by decide, fun _ _ => runs _ _ rfl⟩
/-- A time to come and one that has come, at Λ 0. -/
theorem witness_TimedStores : (run (small [(2, 1)] [(1, 0x100)])).dieTime 0 < ((run (small [(2, 1)] [(1, 0x100)])).me.x 2).toNat ∧
    ((run (small [] [])).me.x 2).toNat ≤ (run (small [] [])).dieTime 0 ∧
    (run (small [] [])).dieTime 0 ≤ ((run (small [] [])).me.x 2).toNat + (run (small [] [])).me.mlambda.toNat ∧
    OwnScratch (run (small [] [(1, 0x100)])) 0x100 8 ∧ AllRaw (run (small [] [(1, 0x100)])) 0x100 8 ∧
    (run (small [] [])).timedRecent 0 = [] ∧ (run (small [] [])).me.stva.length < 16 ∧ Goes (.stva plain (fmtL 3 1 2 0 3 0 0)) plain (run (small [] [])) :=
  ⟨by decide, by decide, by decide, ownScratch (by decide), allRaw (by decide), by decide, by decide, runsSmall _ _ _⟩
/-- A line of 128 bytes with every byte enabled and with none, at a time that has come, and late at the counter's 100 with its
word 511. -/
def lateStore : State := { run (small [(2, 1)] [(1, 0x80)]) with dies := [(0, { Die.reset with stopped := some 100 })] }
theorem witness_TimedStores_lines : (fmtL 3 1 2 0 6 0 4).sz = 6 ∧ maskSpan (lateStore.me.mr 0) = some (0, 128) ∧
    maskSpan (lateStore.me.mr 1) = none ∧ (lateStore.me.x 2).toNat + lateStore.me.mlambda.toNat < lateStore.dieTime (dieOf 0) ∧
    (lateStore.me.x 2).toNat = 1 ∧ lateStore.timedRecent 0 = [] ∧ (fmtL 3 1 2 0 6 0 4).lx.getLsbD 2 = true ∧
    (fmtL 3 1 2 (511 * 2 ^ 11) 6 0 4).off.toNat / 2 ^ 11 = 511 ∧ lateStore.mod.number < 16 ∧ NoGate lateStore ∧
    AllRaw lateStore 0x80 128 ∧ 0x80 % 128 = 0 ∧ OwnScratch lateStore (0x80 + 0) 128 ∧
    Goes (.stva plain (fmtL 3 1 2 0 6 0 4)) plain lateStore ∧
    (let s := lateStore.modCore 0 fun k => { k with lateNow := [511] };
      511 ∈ (s.core 0).lateNow ∧ 0 ∉ (s.core 0).lateNow) :=
  ⟨by decide, by decide, by decide, by decide, by decide, by decide, by decide, by decide, by decide, rfl, allRaw (by decide +kernel),
    by decide, ownScratch (c := small [(2, 1)] [(1, 0x80)]) (by decide), ⟨rfl, .inl rfl⟩, by decide⟩
/-- Sync word 511 as a flag at 1, as a barrier at its last arrival, as a version and as a semaphore. -/
def synced (w : Word) : State := (run (small [(3, 1)] [(1, 0x1FFFF8)])).modCore 0 fun k => k.setSync 511 w
theorem witness_SyncWords : ((synced 1).me.a 1).toNat = 0x1FF000 + 8 * 511 ∧ (synced 1).here.syncWord 511 = 1 ∧
    swKind (1 : Word) = 0 ∧ swKind 0x0004000300000002 = 1 ∧ swKind 0x0008000000000001 = 2 ∧ swKind 0x000C000000000001 = 3 ∧
    (0x0004000300000002 : Word).toNat % 2 ^ 32 + 1 = (0x0004000300000002 : Word).toNat / 2 ^ 32 % 2 ^ 16 ∧
    (0x0004000300000001 : Word).toNat % 2 ^ 32 + 1 ≠ (0x0004000300000001 : Word).toNat / 2 ^ 32 % 2 ^ 16 ∧
    (1 : Word).toNat % 2 ^ 32 ≤ (0x000C000000000001 : Word).toNat % 2 ^ 32 ∧
    (synced 1).releaseBlocked ⟨0, 0⟩ ((synced 1).syncRef 0 511) none = false ∧ (synced 1).me.guard plain = true ∧
    (synced 1).iss.checked = true := by decide
/-- Words at which SARR and SREL, SACQ and SSET trap, and ones at which SWAIT and SACQ block. -/
theorem witness_SyncWords_traps (w : Word) (_ : w = 0 ∨ w = 0x0008000000000001) :
    ({ synced w with iss := Issue.none } : State).iss.checked = false ∧
    ({ synced w with iss := Issue.none } : State).here.syncWord 511 = (synced w).here.syncWord 511 ∧
    (synced w).me.x 3 = 1 ∧ ((synced w).me.a 1).toNat = 0x1FF000 + 8 * 511 ∧ (synced w).me.mode = .program :=
  ⟨rfl, rfl, rfl, rfl, rfl⟩
theorem witness_SyncWords_flag : (synced 0).here.syncWord 511 = 0 := rfl
theorem witness_SyncWords_version : (synced 0x0008000000000001).here.syncWord 511 = 0x0008000000000001 := rfl
theorem witness_SyncWords_accepted : ∀ i ∈ [Instr.sarr, .srel, .sacq, .swait, .sset].map (· plain (fmtL 3 1 0 0 3 0 0)),
    acceptedIn .program i = true := by decide
theorem witness_SyncWords_kinds :
    swKind (0 : Word) ≠ 3 ∧ (0 : Word).toNat % 2 ^ 32 < (1 : Word).toNat % 2 ^ 32 ∧
    swKind 0x000C000000000000 = 3 ∧ (0x000C000000000000 : Word).toNat % 2 ^ 32 < (1 : Word).toNat % 2 ^ 32 ∧
    swKind 0x0005000300000000 = 1 ∧ (0x0005000300000000 : Word).getLsbD 48 = (1 : Word).getLsbD 0 ∧
    (0x0008000000000000 : Word).toNat % 2 ^ 48 < (1 : Word).toNat % 2 ^ 48 ∧
    swKind 0x0004000300000003 = 1 ∧
    (0x0004000300000003 : Word).toNat / 2 ^ 32 % 2 ^ 16 ≤ (0x0004000300000003 : Word).toNat % 2 ^ 32 := by decide
/-- The last free place of a window, an odd address, and the first word of the sync page. -/
theorem witness_ScatterAccumulateQueue : OwnScratch (run (small [] [(1, 0x100)])) 0x100 4 ∧
    (run (small [] [(1, 0x100)])).me.saeLen < 128 ∧
    (run { small [] [] with saeOpen := List.replicate 63 { id := 1, addr := 0, sz := 2, op := 0, kind := 0, val := 0 } }).me.saeOpen.length = 63 ∧
    (0x101 : Word).toNat % 4 ≠ 0 ∧ (0x1FF000 ≤ (0x1FF000 : Word).toNat ∧ (0x1FF000 : Word).toNat + 4 ≤ 0x200000) ∧
    (run (small [] [])).me.saeOpen = [] ∧ (run (small [] [])).me.saeClosed = [] ∧
    (∀ i ∈ [Instr.saeq, .saef], Goes (i plain (fmtL 3 1 0 0 2 0 0)) plain (run (small [] []))) :=
  ⟨ownScratch (by decide), by decide, by decide, by decide, by decide, rfl, rfl, fun _ _ => runsSmall _ _ _⟩
/-- A word of a cluster window; the first byte past the local space; a region of another, and one that is to be the context's. -/
theorem witness_ScatterAccumulateQueue_places : OwnCluster (run windowed) 0x1000FFC 4 ∧ 0x1000FFC % 4 = 0 ∧
    ¬OwnCluster (run (small [] [])) 0x200000 4 ∧ 0x200000 ≤ (0x200000 : Word).toNat ∧
    ((run (small [] [])).here.region (0x20000 / 0x20000)).owner ≠ some 0 ∧
    ((run (small [] [])).here.region (0x20000 / 0x20000)).next ≠ some 0 ∧
    (let s := (alone (small [] [(1, 0x20000)])).modCore 0 fun k => k.setRegion 1 { Region.reset with owner := some 1, next := some 0 };
      s.iss.checked = false ∧ (s.here.region ((s.me.a 1).toNat / 0x20000)).owner ≠ some 0 ∧
      (s.here.region ((s.me.a 1).toNat / 0x20000)).next = some 0) ∧
    (run (small [] [])).me.saeErr = 0 ∧ (run (small [] [])).me.saeCause = 0 ∧
    Goes (.saeq plain (fmtL 3 1 0 0 2 0 0)) plain (alone (small [] [])) :=
  ⟨by unfold OwnCluster; decide, by decide, by unfold OwnCluster; decide, by decide, by decide, by decide, by decide, rfl, rfl,
    runsAlone _ _ rfl rfl⟩


/-! ### Witnesses: vectors, quires, tiles and commands -/

theorem witness_IntegerLanes : ((0x14#6, 32, true) : BitVec 6 × Nat × Bool) ∈ [(0x10#6, 8, true), (0x11, 8, false), (0x12, 16, true),
      (0x13, 16, false), (0x14, 32, true), (0x15, 32, false)] ∧
    (∀ i ∈ [Instr.vadd, .vsub, .vmul, .vmin, .vmax], ∀ n ∈ [0, 1, 2], Goes (i plain (fmtA 1 2 3 0 0x14 0 false false 0 n)) plain
      (run (small [] []))) ∧ (fmtA 1 2 3 0 0x14 0 false false 0 2).sub = 2 ∧
    (∃ a : Nat → Int, ∀ n, a n = laneNum true 32 ((run (small [] [])).me.vr 2) n) :=
  ⟨by decide, fun _ _ _ _ => runsSmall _ _ _, by decide, ⟨_, fun _ => rfl⟩⟩
/-- The last lane of 8-bit lanes as an index. -/
theorem witness_BitwiseLanesAndMoves : (∀ i ∈ [Instr.vand, .vor, .vxor, .vlut3, .mand, .mor, .mnot, .mpop, .vshl, .vshr, .vpopc,
      .vclz, .vfsh, .vrot, .vperm, .vbcast, .vsel], Goes (i plain (fmtA 1 2 3 63 0x10 0 false false 0 1)) plain (run (small [] []))) ∧
    (fmtA 1 2 3 63 0x10 0 false false 0 1).aux.toNat + 64 * (fmtA 1 2 3 63 0x10 0 false false 0 1).sub.toNat < 1024 / 8 ∧
    (fmtA 1 2 3 63 0x10 0 false false 0 2).sub = 2 ∧ (fmtA 1 2 3 63 0x10 0 false false 0 1).aux.toNat < 1024 / 8 :=
  ⟨fun _ _ => runsSmall _ _ _, by decide, by decide, by decide⟩
theorem witness_LaneComparisons : Goes (.vcmp plain (fmtA 1 2 3 0 0x15 0 false false 0 9)) plain (run (small [] [])) ∧
    isIeee (fmtA 1 2 3 0 0x1A 0 false false 0 5).fmt = true ∧ (fmtA 1 2 3 0 0x1A 0 false false 0 5).sub.toNat ≤ 5 ∧
    isTap (fmtA 1 2 3 0 0x0A 0 false false 0 5).fmt = true := ⟨runsSmall _ _ _, by decide, by decide, by decide⟩
/-- Lanes of f32 and t32e2, and the last part of a widening from 8 to 32 bits. -/
theorem witness_RealLanes : (∀ i ∈ [Instr.vfadd, .vfsub, .vfmul, .vfma, .vfdiv, .vfsqrt, .vfmin, .vfmax, .vfabs, .vfneg, .vcvt],
      Goes (i plain (fmtA 1 2 3 0x10 0x1A 0 false false 0 3)) plain (run (small [] []))) ∧
    isIeee (fmtA 1 2 3 0x10 0x1A 0 false false 0 3).fmt = true ∧ isTap (0x0A#6) = true ∧
    isInt (fmtA 1 2 3 0x10 0x1A 0 false false 0 3).aux = true ∧
    (fmtA 1 2 3 0x10 0x1A 0 false false 0 3).sub.toNat < max (fmtWidth 0x10) (fmtWidth 0x1A) / min (fmtWidth 0x10) (fmtWidth 0x1A) ∧
    (run (small [] [])).iss.checked = true :=
  ⟨fun _ _ => runsSmall _ _ _, by decide, by decide, by decide, by decide, rfl⟩
/-- f32 lanes of a quiet and a signalling NaN, both infinities and both zeros, 1.0 and −1.0, and what they give. -/
theorem witness_RealLanes_values : let v := decodeVal (fmtOf 0x1A);
    v 0x7FC00000 = .nan false ∧ v 0x7F800001 = .nan true ∧ v 0x7F800000 = .inf false ∧ v 0xFF800000 = .inf true ∧
    v 0x80000000 = .negZero ∧ v 0 = .real Q.zero ∧ v 0x3F800000 = .real Q.one ∧ v 0xBF800000 = .real Q.one.neg ∧
    valLt (v 0xFF800000) (v 0) = true ∧ decodeVal (fmtOf 0x0A) (2 ^ 31) = .nar := by decide +kernel
theorem witness_RealLanes_gives : (∀ op xs, IeeeGives op (.nan true :: xs) (.nan false) Flags.nv) ∧
    IeeeGives .add [.inf true, .inf false] (.nan false) Flags.nv ∧ IeeeGives .add [.inf true, .negZero] (.inf true) Flags.none ∧
    IeeeGives .add [.negZero, .real Q.zero] (.real Q.zero) Flags.none ∧ IeeeGives .sub [.negZero, .real Q.zero] .negZero Flags.none ∧
    IeeeGives .mul [.inf true, .negZero] (.nan false) Flags.nv ∧ IeeeGives .mul [.negZero, .real Q.one] .negZero Flags.none ∧
    IeeeGives .div [.real Q.one, .negZero] (.inf true) Flags.dz ∧ IeeeGives .div [.negZero, .inf true] (.real Q.zero) Flags.none ∧
    IeeeGives .sqrt [.negZero] .negZero Flags.none ∧ IeeeGives .sqrt [.inf true] (.nan false) Flags.nv ∧
    IeeeGives .fma [.negZero, .real Q.one, .negZero] .negZero Flags.none ∧
    IeeeGives .fma [.inf true, .real Q.zero, .nan false] (.nan false) Flags.nv :=
  ⟨fun _ _ => .signals (.head _) rfl, .sumInvalid, .sumInf (.inl ⟨rfl, .inr rfl⟩),
    .sumReal (x := .negZero) (y := .real Q.zero) rfl rfl (.inr (by decide)), .difference (y := .real Q.zero) (r := .negZero) .sumNegZero, .productInvalid (.inl ⟨rfl, rfl⟩), .productZero (.inl ⟨rfl, rfl⟩), .divisionByZero rfl rfl,
    .quotientOfInf rfl rfl, .rootKeeps (.inl rfl), .rootInvalid rfl (by decide),
    .fused (p := .negZero) (fl := Flags.none) (fl' := Flags.none) (.productZero (.inl ⟨rfl, rfl⟩)) rfl rfl .sumNegZero, .fusedInvalid (.inl ⟨rfl, rfl⟩)⟩
/-- IEEE lanes of a NaN alone, and of a NaN beside 1.0. -/
theorem witness_Reductions_nans : let s := run { small [] [] with v := [(2, 0x3F800000_7F800001)], m := [(1, 0xFF), (2, 0xF)] };
    (List.range 32).filter (fun n => (s.me.mr 1).getLsbD (4 * n)) = [0, 1] ∧
    (List.range 32).filter (fun n => (s.me.mr 2).getLsbD (4 * n)) = [0] ∧
    decodeVal (fmtOf 0x1A) (laneAt 32 (s.me.vr 2) 0) = .nan true ∧ decodeVal (fmtOf 0x1A) (laneAt 32 (s.me.vr 2) 1) = .real Q.one ∧
    (Val.real Q.one).real? = some (Q.mk' (2 ^ 240) (2 ^ 240)) ∧ [(2 : Int) ^ 240].map Int.natAbs = [2 ^ 240] ∧ 2 ^ 240 < 2 ^ 511 ∧
    isIeee (fmtA 1 2 0 0 0x1A 0 false false 1 0).fmt = true := by decide +kernel
/-- Every lane enabled, and none. -/
theorem witness_Reductions : (∀ i ∈ [Instr.vradd, .vrmax, .vrmin], ∀ n ∈ [0, 1], Goes (i plain (fmtA 1 2 0 0 0x14 0 false false 1 n))
      plain (run (small [] []))) ∧
    (List.range 32).filter (fun n => ((run (small [] [])).me.mr 1).getLsbD (4 * n)) = [] ∧
    (List.range 32).filter (fun n => ((run (small [] [])).me.mr 0).getLsbD (4 * n)) = List.range 32 :=
  ⟨fun _ _ _ _ => runsSmall _ _ _, by decide, by decide⟩
/-- A score and κ of zero, and a budget of one unit, of zero and below zero. -/
theorem witness_Sampling : (∀ i ∈ [Instr.vswt, .vspickStart, .vspickScan, .vspickFinal],
      Goes (i plain (fmtA 1 2 3 0 0x0A 0 false false 0 0)) plain (run (small [] []))) ∧
    (decodeVal (fmtOf 0x0A) (laneAt 32 ((run (small [] [])).me.vr 3) 1)).real? = some Q.zero ∧
    ((run (small [] [])).me.qr 0).nar = false ∧ (⟨false, 1⟩ : Quire).isNeg = false ∧ (⟨false, -1⟩ : Quire).isNeg = true ∧
    ((quireAdd ⟨false, 0⟩ (.real ((⟨1, 1⟩ : Q).scale 32).neg)).1).isNeg = true :=
  ⟨fun _ _ => runsSmall _ _ _, by decide +kernel, by decide, by decide +kernel, by decide +kernel, by decide +kernel⟩
/-- A cell of an owned tile, one of a tile that no context owns, and the least quire value. -/
theorem witness_QuireArithmetic : (∀ i ∈ [Instr.qclr, .qneg, .qaddq, .qadd, .qfrom, .qrnd, .qtst, .qtstNar],
      Goes (i plain (fmtA 1 0 0 0 0 0 false false 0 1)) plain (run (small [] []))) ∧ Owns (run (small [] [])) true 0 ∧
    ¬Owns (alone (small [] [])) true 7 ∧ Goes (.qfrom plain (fmtA 1 7 0 0 0 0 false false 0 0)) plain (alone (small [] [])) ∧
    (BitVec.ofInt 512 (-(2 ^ 511))).toInt = -(2 ^ 511) :=
  ⟨fun _ _ => runsSmall _ _ _, by unfold Owns; decide, by unfold Owns; decide, runsAlone _ _ rfl rfl, by decide +kernel⟩
theorem witness_QuireSumsAndImages : (∀ i ∈ [Instr.qdot, .qfma], Goes (i plain (fmtA 1 2 3 0 5 0 false false 0 1)) plain
      (run (small [] []))) ∧ (∀ i ∈ [Instr.qsave, .qload], Goes (i plain (fmtL 1 1 0 0 6 0 0)) plain (run (small [] [(1, 0x1FF80)]))) ∧
    OwnScratch (run (small [] [(1, 0x1FF80)])) 0x1FF80 128 ∧ NoGate (run (small [] [(1, 0x1FF80)])) ∧ 0x1FF80 % 128 = 0 ∧
    (fmtL 1 1 0 0 6 0 0).sz = 6 :=
  ⟨fun _ _ => runsSmall _ _ _, fun _ _ => runsSmall _ _ _, ownScratch (by decide), rfl, by decide, by decide⟩
/-- Named slots, the last one free and one owned, a mask past the last tile, and counts of none, of some and of too many. -/
theorem witness_ClaimsAndReleases : (∀ i ∈ [Instr.mclaim, .mrel], ∀ n ∈ [0, 1, 2, 3], Goes (i plain (fmtA 1 1 0 0 0 0 false false 0 n)) plain
      (run (small [(1, 0x8000000000000001)] []))) ∧ Unowned (run (small [] [])).here false 63 ∧
    Owns (run (small [] [])) false 0 ∧ (holderOf (run (small [] [])).here false 0).release = none ∧
    256 ≤ ((run (small [(1, 256)] [])).me.x 1).toNat ∧
    (List.range 8).filter (fun n => (holderOf (run (small [] [])).here true n).owner.isNone) = [1, 2, 3, 4, 5, 6, 7] :=
  ⟨fun _ _ _ _ => runsSmall _ _ _, by unfold Unowned; decide, by unfold Owns; decide, by decide, by decide, by decide⟩
/-- The last 16 rows of 96 bytes that fit in region 0, a tile image at its start, rows 1 to 15 of a tile. -/
theorem witness_MatrixInstructions : (∀ r, r < 16 → OwnScratch (run (small [] [(1, 0x1FA00)])) (0x1FA00 + 96 * r) 96) ∧
    OwnScratch (run (small [] [])) 0 16512 ∧ Owns (run (small [] [])) false 1 ∧ Owns (run (small [] [])) true 0 ∧
    ¬Owns (alone (small [] [])) true 1 ∧ ¬Owns (alone (small [] [])) false 63 ∧
    (∀ i ∈ [Instr.mma, .mmai, .mlut].map (· plain (fmtM 0 0 63 0 false false 4 4 0 0)), Goes i plain (alone (small [] []))) ∧
    (∀ i ∈ [Instr.msave, .mload].map (· plain (fmtL 1 1 0 0 4 0 0)), Goes i plain (alone (small [] []))) ∧
    (Instr.mlut plain (fmtM 0 0 1 0 false false 0x11 0 96 7)).wfWord = true ∧
    (Instr.mma plain (fmtM 0 0 1 3 false false 4 0x0A 24 0)).wfWord = true ∧
    (fmtM 0 0 0 0 false false 0 0 14 1).mx.toNat + (fmtM 0 0 0 0 false false 0 0 14 1).klen.toNat + 1 ≤ 16 ∧
    (∀ i ∈ [Instr.mma, .mmai, .mlut, .mzero, .dclr], Goes (i plain (fmtM 0 0 1 0 false false 4 4 0 0)) plain (run (small [] []))) ∧
    (∀ i ∈ [Instr.mlda, .msave, .mload], Goes (i plain (fmtL 0 1 0 0 4 0 0)) plain (run (small [] []))) ∧ NoGate (run (small [] [])) :=
  ⟨fun r h => ownScratch (by omega), ownScratch (by decide), by unfold Owns; decide, by unfold Owns; decide,
    by unfold Owns; decide, by unfold Owns; decide, allAlone rfl (by decide), allAlone rfl (by decide), by decide, by decide, by decide,
    fun _ _ => runsSmall _ _ _, fun _ _ => runsSmall _ _ _, rfl⟩
theorem witness_UpdateInstructions : (∀ i ∈ [Instr.drd, .dsgd, .dmom], Goes (i plain (fmtA 1 2 3 8 0x0A 0 false false 0 15)) plain
      (run (small [] []))) ∧ isTap (fmtA 1 2 3 8 0x0A 0 false false 0 15).fmt = true ∧
    16 * ((fmtA 1 2 3 8 0x0A 0 false false 0 15).aux.toNat / 8) + 16 ≤ 1024 / fmtWidth 0x0A ∧
    Owns (run (small [] [])) true ((fmtA 1 2 3 8 0x0A 0 false false 0 15).aux.toNat % 8) ∧
    Goes (.dpub plain (fmtL 3 1 0 0 3 0 0)) plain (synced 0x0008000000000000) ∧ swKind 0x0008000000000000 = 2 ∧
    (0x0008000000000000 : Word).toNat % 2 ^ 48 < ((synced 0x0008000000000000).me.x 3).toNat % 2 ^ 48 ∧
    ((synced 0x0008000000000001).me.x 3).toNat % 2 ^ 48 ≤ (0x0008000000000001 : Word).toNat % 2 ^ 48 ∧
    ¬Owns (alone (small [] [])) true ((fmtA 1 2 3 15 0x0A 0 false false 0 15).aux.toNat % 8) ∧
    (∀ i ∈ [Instr.drd, .dsgd, .dmom].map (· plain (fmtA 1 2 3 15 0x0A 0 false false 0 15)), Goes i plain (alone (small [] []))) :=
  ⟨fun _ _ => runsSmall _ _ _, by decide, by decide, by unfold Owns; decide, ⟨by decide, .inl rfl⟩, by decide, by decide, by decide,
    by unfold Owns; decide, allAlone rfl (by decide)⟩
/-- An infinite and a zero stored value, factors of 1 and 0, and a NaR step. -/
theorem witness_UpdateInstructions_values : decodeVal (fmtOf 0x1A) 0xFF800000 = .inf true ∧
    (decodeVal (fmtOf 0x1A) 0x80000000).isZero = true ∧ decodeVal t32e2 0x40000000 = .real Q.one ∧
    decodeVal t32e2 0 = .real Q.zero ∧ Q.zero.isZero = true ∧ decodeVal t32e2 0x80000000 = .nar ∧
    ((run (small [] [])).here.cell 0 0).nar = false := by decide +kernel
/-- A signalling NaN in the first lane of the part of row 0 of tile 0. -/
theorem witness_UpdateInstructions_signal : (let s := run { small [] [] with v := [(2, 0x7F800001)] };
      isIeee (fmtA 1 2 3 0 0x1A 0 false false 0 0).fmt = true ∧ isInt (fmtA 1 2 3 0 0x1A 0 false false 0 0).fmt = false ∧
      decodeVal (fmtOf 0x1A) (laneAt 32 (s.me.vr 2) 0) = .nan true ∧ (s.me.mr 0).getLsbD 0 = true ∧ Owns s true 0) ∧
    (∀ i ∈ [Instr.dsgd, .dmom], Goes (i plain (fmtA 1 2 3 0 0x1A 0 false false 0 0)) plain (run { small [] [] with v := [(2, 0x7F800001)] })) :=
  ⟨by unfold Owns; decide +kernel, fun _ _ => runs _ _ rfl⟩
/-- Products of ones: 8-bit lanes of −1 under MMA and MMAI, and activations of 255 under MLUT; a NaR of t16. -/
theorem witness_UnitResultsLand_products :
    (let f := fmtM 0 0 1 0 false false 0x10 0x10 0 0; passOf f ≠ 0 ∧ isInt f.fmta = true ∧ isInt f.fmtb = true ∧ f.prof = 0 ∧
      (∀ k, k < passOf f → elemVal f.fmta (codeUnsigned f.fmta) ((BitVec.allOnes 12800).extractLsb' (8 * k) 8).toNat = .real Q.one.neg) ∧
      Q.one.neg.mul Q.one.neg = Q.mk' (2 ^ 240) (2 ^ 240)) ∧
    (let f := fmtM 0 0 1 0 false false 0x11 0 2 7;
      elemVal f.fmta (codeUnsigned f.fmta) ((BitVec.allOnes 12800).extractLsb' 0 8).toNat = .real ⟨255, 1⟩ ∧
      (BitVec.allOnes 12800).getLsbD (96 * 7) = true ∧ (⟨255, 1⟩ : Q).mul Q.one = Q.mk' (255 * 2 ^ 240) (2 ^ 240)) ∧
    ((List.replicate 96 ((2 : Int) ^ 240)).map Int.natAbs).sum + (0 : Int).natAbs < 2 ^ 511 ∧
    (elemVal 4 (codeUnsigned 4) 0x8000).real? = none := by decide +kernel
theorem witness_UnitResultsLand : (run (due (.tile 7 0x8000 []))).me.curLine = [⟨4, .tile 7 0x8000 [], 0⟩] ∧
    (Effect.tile 7 0x8000 []).isArray = false ∧ (run (due (.slot 63 1))).me.curLine = [⟨4, .slot 63 1, 0⟩] ∧
    (run (due (.store 0x1FEFFF [5]))).me.curLine = [⟨4, .store 0x1FEFFF [5], 0⟩] ∧ 0x1FEFFF + 1 ≤ scratchEnd ∧
    (run (due (.array 0xA820100000000000 0 0))).me.line = [⟨4, .array 0xA820100000000000 0 0, 0⟩] ∧
    (run { small [] [] with port2 := [(.program, 0x1FEFFF, [5])] }).me.port2 = [(.program, 0x1FEFFF, [5])] ∧
    (run { small [] [] with port2 := [(.program, 0x1FEFFF, [5])] }).localRelief 0 0x1FEFFF = 0 :=
  ⟨rfl, rfl, rfl, rfl, by decide, rfl, rfl, rfl⟩

/-- A command of channel 0 of context 0 in a state, and the machine with it; a share of two places. -/
def command (word : BitVec 64) (state : CmdState) : Cmd :=
  { id := 5, ctx := some ⟨0, 0⟩, node := 0, tenant := 0, chan := 0, word := word, tgt := 0x200, frm := 0x100, cnt := 64, lrec := 0, record := []
    nest := [], state := state, done := 0, acquired := false, accepted := false, released := false, tbuf := [], source := [], owed := [], prior := [], held := [], out := [], flags := 0
    lambda := 0, aux := 0, since := 0 }
def sharing : Ctx := { small [] [] with shares := [(0, 2)] }
def holding (ks : List Cmd) : State := { run sharing with cmds := ks, nextId := 6 }
theorem witness_ChannelCommands : Sparse.get 0 (run sharing).me.shares 0 = 2 ∧ (run sharing).chanCmds ⟨0, 0⟩ 0 = [] ∧
    OwnScratch (run sharing) 0 128 ∧ ((run sharing).me.a 0).toNat % 32 = 0 ∧
    (∀ i ∈ [Instr.kcp, .kcan, .ktsk, .kdrain, .kres, .kresDrop, .knmc], Goes (i plain (fmtK 0 0 0 0 0 false false 0 0)) plain
      (run sharing)) ∧ (Instr.kcp plain (fmtK 0 0 0 0 0 false false 0 0)).wfWord = true ∧
    (Instr.knmc plain (fmtK 0 0 0 0 0 false false 0 0)).wfWord = true ∧ Sparse.get 0 (alone (small [] [])).me.shares 0 = 0 ∧
    Goes (.kcp plain (fmtK 0 0 0 0 0 false false 0 0)) plain (alone (small [] [])) ∧
    2 ≤ ((holding [command 0 .queued, command 0 .running]).chanCmds ⟨0, 0⟩ 0).length ∧
    ((holding [command 0 (.stopped .refused 0)]).chanCmds ⟨0, 0⟩ 0).find? Cmd.isStopped = some (command 0 (.stopped .refused 0)) ∧
    (let s := (holding [command 0 (.stopped .refused 0)]).setBlockReg 0x0C0 8;
      8 ≤ (s.svec ⟨0, 0⟩).toNat ∧ s.me.mode = .program ∧ StopCause.refused.sub < 16) ∧
    (∀ k ∈ (holding [command 0 .queued]).chanCmds ⟨0, 0⟩ 0, k.isStopped = false) ∧
    (∀ k ∈ (holding [command 0 .queued]).cmds, k.id ≠ (holding [command 0 .queued]).nextId) :=
  ⟨by decide, rfl, ownScratch (by decide), by decide, fun _ _ => runs _ _ rfl, by decide, by decide, by decide, runsAlone _ _ rfl rfl,
    by decide, by decide, by decide, by decide, by decide⟩


/-! ### Witnesses: groups, deliveries, engines and collectives -/

def atZero (f : Ctx → Ctx) : State := nopPlaced.modCtx ⟨0, 0⟩ f
/-- The word of an unguarded command. -/
def wordFor (i : Instr) : BitVec 64 := (encodeWord true i).getD 0
/-- A record of n bytes with fields (offset, bytes, value). -/
def recordOf (n : Nat) (fs : List (Nat × Nat × Nat)) : List Byte :=
  fs.foldl (fun bs f => patchBytes bs f.1 (natBytes f.2.1 f.2.2)) (List.replicate n 0)
/-- The state of a try that goes on, with a test. -/
def goesTo (t : Try) (p : State → Bool) : Bool :=
  match t with
  | .go s => p s
  | _ => false
def reads (f : Fetched) (p : List Byte → State → Bool) : Bool :=
  match f with
  | .bytes bs s => p bs s
  | _ => false

/-- A group that waits at address 0. -/
def waiting : State := atZero fun c => { c with blocked := some true, group := [0x8008000000000000] }
/-- A PMARK at address 0 with a suspension asked for. -/
def marked : State :=
  (State.reset.withFetchWord 64 0x80C8000000000000).modCtx ⟨0, 0⟩ fun c =>
    { c with req := { Requests.reset with suspend := true }, group := [0x80C8000000000000] }
/-- A core with tile 7 and slot 63 being cleared, region 15 being zeroed, and pending releases of tile 0 and slot 1. -/
def clearingCore : State :=
  (run (small [] [])).modCore 0 fun k => { k with
    tileOwn := [(0, { ours with release := some 0 }), (7, { ours with owner := none, clearing := true })]
    slotOwn := [(1, { ours with release := some 0 }), (63, { ours with owner := none, clearing := true })]
    regions := Sparse.put k.regions 15 { Region.reset with zeroing := true } }
theorem witness_GroupsAndClearing :
    (∀ f ∈ [fun c => { c with bubbles := 1 }, fun c : Ctx => { c with pc := 4 }, id],
      (atZero f).canRun ⟨0, 0⟩ = true ∧ ((atZero f).ctx ⟨0, 0⟩).blocked = none ∧ ((atZero f).ctx ⟨0, 0⟩).tret = none ∧
      ((atZero f).ctx ⟨0, 0⟩).kend = false) ∧
    ((atZero fun c => { c with bubbles := 1 }).ctx ⟨0, 0⟩).bubbles ≠ 0 ∧
    ((atZero fun c => { c with pc := 4 }).ctx ⟨0, 0⟩).at_.toNat % 8 ≠ 0 ∧
    (match (State.reset.withFetchWord 64 0).focus ⟨0, 0⟩ |>.formGroup ⟨0, 0⟩ 0 with
      | (.ok ws, _) => (decodeGroup .program 0 ws matches .error _)
      | _ => false) = true ∧
    (match (nopPlaced.focus ⟨0, 0⟩).formGroup ⟨0, 0⟩ 0 with
      | (.ok ws, u) => (match decodeGroup .program 0 ws with
        | .ok xs => padOk (nopPlaced.ctx ⟨0, 0⟩) xs && u.atMark ⟨0, 0⟩ ws == none && u.lateChecks xs == .ok
        | _ => false)
      | _ => false) = true ∧
    (let s := atZero fun c => { c with entered := true, group := [0x8008000000000000] };
      s.canRun ⟨0, 0⟩ = true ∧ (s.ctx ⟨0, 0⟩).entered = true ∧
      (s.focus ⟨0, 0⟩).issueChecks (s.itemsOf ⟨0, 0⟩ (s.ctx ⟨0, 0⟩).group) = .ok) ∧
    (let s := atZero fun c => { c with pad := some (0, 5) };
      match (s.focus ⟨0, 0⟩).formGroup ⟨0, 0⟩ 0 with
      | (.ok ws, u) => (match decodeGroup .program 0 ws with
        | .ok xs => !padOk (u.ctx ⟨0, 0⟩) xs && u.atMark ⟨0, 0⟩ ws == none
        | _ => false)
      | _ => false) = true ∧
    (waiting.canRun ⟨0, 0⟩ = true ∧ (waiting.ctx ⟨0, 0⟩).blocked ≠ none ∧
      (waiting.focus ⟨0, 0⟩).atMark ⟨0, 0⟩ (waiting.ctx ⟨0, 0⟩).group = none ∧
      (match decodeGroup (waiting.ctx ⟨0, 0⟩).mode (waiting.ctx ⟨0, 0⟩).at_ (waiting.ctx ⟨0, 0⟩).group with
        | .ok xs => (waiting.focus ⟨0, 0⟩).lateChecks xs == .ok
        | .error _ => false) = true) ∧
    (let u := marked.focus ⟨0, 0⟩;
      marked.canRun ⟨0, 0⟩ = true ∧ (u.atMark ⟨0, 0⟩ (marked.ctx ⟨0, 0⟩).group).isSome = true ∧
      (match u.formGroup ⟨0, 0⟩ 0 with
        | (.ok ws, v) => (v.atMark ⟨0, 0⟩ ws).isSome
        | _ => false) = true) ∧
    (holderOf (clearingCore.core 0) true 7).clearing = true ∧ (holderOf (clearingCore.core 0) false 63).clearing = true ∧
    ((clearingCore.core 0).region 15).zeroing = true ∧
    (∀ tn ∈ [(true, 0), (false, 1)], (holderOf (clearingCore.core 0) tn.1 tn.2).owner = some 0 ∧
      (holderOf (clearingCore.core 0) tn.1 tn.2).release = some 0) ∧
    0 ≤ (clearingCore.ctx ⟨0, 0⟩).ccyc ∧ (clearingCore.ctx ⟨0, 0⟩).line = [] := by decide

/-- A PMARK at address 0 with one completion of KIPEND and a handler at 0x100. -/
def completing : State :=
  (State.reset.withFetchWord 64 0x80C8000000000000).modCtx ⟨0, 0⟩ fun c => { c with kipend := 1, kihand := 0x100 }
/-- A completion handler whose YIELD passes, with some results of its own in flight; and the same once it has passed. -/
def yielding (line : List Pending) : State :=
  let c : Ctx := { small [] [] with mode := .completion, kline := line, pc := 8 }
  { run c with iss := { Issue.none with checked := true, pass := true } }
def ended : State := alone { small [] [] with mode := .completion, kend := true, pc := 8 }
theorem witness_GroupsAndClearing_completion :
    completing.canRun ⟨0, 0⟩ = true ∧ (completing.ctx ⟨0, 0⟩).blocked = none ∧ (completing.ctx ⟨0, 0⟩).bubbles = 0 ∧
    (completing.ctx ⟨0, 0⟩).tret = none ∧ (completing.ctx ⟨0, 0⟩).kend = false ∧ (completing.ctx ⟨0, 0⟩).entered = false ∧
    (completing.ctx ⟨0, 0⟩).at_.toNat % 8 = 0 ∧
    (match (completing.focus ⟨0, 0⟩).formGroup ⟨0, 0⟩ 0 with
      | (.ok ws, u) => ws.any (wordIs isPmark) && decide ((u.ctx ⟨0, 0⟩).mode = .program) && (u.ctx ⟨0, 0⟩).line.isEmpty
        && (u.ctx ⟨0, 0⟩).kipend == 1 && (u.ctx ⟨0, 0⟩).kihand == 0x100
      | _ => false) = true ∧
    (∀ line ∈ [[], [(⟨9, .x 60 1, 0⟩ : Pending)]], (yielding line).iss.checked = true ∧ (yielding line).iss.pass = true ∧
      (yielding line).iss.trap = none ∧ (yielding line).me.mode = .completion ∧ (yielding line).me.kline = line ∧
      (yielding line).me.portWaits .completion = false) ∧
    (let s := atZero fun c => { c with mode := .completion, kend := true };
      s.canRun ⟨0, 0⟩ = true ∧ (s.ctx ⟨0, 0⟩).blocked = none ∧ (s.ctx ⟨0, 0⟩).bubbles = 0 ∧ (s.ctx ⟨0, 0⟩).kend = true) ∧
    ended.iss.checked = false ∧ ended.me.kend = true ∧ ended.me.kline = [] ∧ ended.me.portWaits .completion = false := by decide

/-- A window of one run at the last word of region 0, a write that arrives at a core whose context 0 owns the region, one
to a region that no context owns, and timed ones. -/
def oneRun : SaeEntry := { id := 8, addr := 0x1FFFC, sz := 2, op := 0, kind := 0, val := 0 }
def arrivingCtx (w : RemoteWrite) : Ctx :=
  { small [] [] with
    rwq := [w], stva := [{ w with id := 9, core := 0, time := some 0 }]
    saeClosed := [{ id := 1, runs := [(oneRun, [1, 2])] }]
    gates := [{ id := 2, word := 0, base := 0, len := 0, glob := false, succ := 0, members := [.write 77] }] }
/-- Both cores have made their cycle of this instant. -/
def arriving (w : RemoteWrite) : State :=
  { run (arrivingCtx w) with
    cores := [(0, { coreOf (arrivingCtx w) with nextAt := 1 }), (1, { coreOf (small [] []) with nextAt := 1 })]
    msgs := [{ id := 4, src := 1, dst := 0, sent := true, delay := 0, ready := 0, msg := .late ⟨0, 0⟩ 0 },
      { id := 5, src := 2, dst := 1, sent := true, delay := 0, ready := 0, msg := .release 0x10000 none 0 none }] }
/-- The same with the counter of die 0 at 100, and a timed write from context 0 of core 1 held at core 0. -/
def lateAt (w : RemoteWrite) : State := { arriving w with dies := [(0, { Die.reset with stopped := some 100 })] }
def heldLate : State :=
  { lateAt queuedWrite with
    cores := [(0, { coreOf (small [] []) with
      nextAt := 1, incoming := [{ queuedWrite with id := 9, src := ⟨1, 0⟩, core := 0, time := some 0 }] })] }
theorem witness_Deliveries_late :
    (let w : RemoteWrite := { queuedWrite with time := some 1, late := some 511 };
      let s := lateAt w;
      (s.ctx ⟨0, 0⟩).rwq.find? (·.id == 3) = some w ∧ s.writeFirst ⟨0, 0⟩ w = true ∧ s.writeHeld ⟨0, 0⟩ w = false ∧
      s.writeRefused w = false ∧ 1 + w.lambda < s.coreTime 1 ∧ s.coreDone 1 = true ∧ s.timedRecent 1 = [] ∧ (s.core 1).lateNow = []) ∧
    (let w : RemoteWrite := { queuedWrite with time := some 100 };
      (lateAt w).writeRefused w = false ∧ 100 ≤ (lateAt w).coreTime 1 ∧ (lateAt w).coreTime 1 ≤ 100 + w.lambda) ∧
    (∀ x ∈ [(lateAt queuedWrite, { queuedWrite with id := 9, core := 0, time := some 0 }, true),
        (heldLate, { queuedWrite with id := 9, src := ⟨1, 0⟩, core := 0, time := some 0 }, false)],
      x.1.dueWrite 0 = some x.2.1 ∧ x.1.writeRefused x.2.1 = false ∧ 0 + x.2.1.lambda < x.1.coreTime 0 ∧
      (x.1.ctx x.2.1.src).stva.any (·.id == x.2.1.id) = x.2.2 ∧ x.1.localRelief 0 0x100 = 0 ∧ x.1.timedRecent 0 = [] ∧
      (x.1.core 0).lateNow = []) ∧
    (arriving queuedWrite).coreDone 0 = true ∧ (arriving queuedWrite).coreDone 1 = true ∧
    ((0x0000000000000000 : Word).toNat % 2 ^ 16 = 0) := by decide
theorem witness_Deliveries :
    (arriving queuedWrite).saeEnabled ⟨0, 0⟩ = true ∧ ((arriving queuedWrite).ctx ⟨0, 0⟩).nextRun = some ({ id := 1, runs := [(oneRun, [1, 2])] }, oneRun, [1, 2]) ∧
    oneRun.addr + szBytes oneRun.sz ≤ scratchEnd ∧ oneRun.addr % szBytes oneRun.sz = 0 ∧
    (arriving queuedWrite).localRelief 0 oneRun.addr = 0 ∧
    (∀ w ∈ [queuedWrite, { queuedWrite with addr := 0x20000 }, { queuedWrite with time := some 1 }],
      ((arriving w).ctx ⟨0, 0⟩).rwq.find? (·.id == 3) = some w ∧ w.ready ≤ (arriving w).now ∧
      (arriving w).writeFirst ⟨0, 0⟩ w = true ∧ (arriving w).writeHeld ⟨0, 0⟩ w = false ∧
      w.module = (arriving w).mod.number ∧ w.atPort = false) ∧
    (arriving queuedWrite).writeRefused queuedWrite = false ∧
    (arriving { queuedWrite with addr := 0x20000 }).writeRefused { queuedWrite with addr := 0x20000 } = true ∧
    (arriving { queuedWrite with time := some 1 }).writeRefused { queuedWrite with time := some 1 } = false ∧
    (arriving { queuedWrite with time := some 1 }).coreTime 1 < 1 ∧
    ((arriving { queuedWrite with time := some 1 }).core 1).incoming.length < 64 ∧
    (arriving queuedWrite).dueWrite 0 = some { queuedWrite with id := 9, core := 0, time := some 0 } ∧
    (arriving queuedWrite).coreTime 0 ≤ 0 + queuedWrite.lambda ∧ (arriving queuedWrite).timedRecent 0 = [] ∧
    (arriving queuedWrite).localRelief 0 queuedWrite.addr = 0 ∧ queuedWrite.bytes.length ≤ 128 ∧
    (arriving queuedWrite).writeRefused { queuedWrite with id := 9, core := 0, time := some 0 } = false ∧
    (∀ m ∈ (arriving queuedWrite).msgs, (arriving queuedWrite).messageReady m = true) ∧
    (arriving queuedWrite).gateOpens ⟨0, 0⟩ 2 = true := by decide

/-- A command of channel 0 with its instruction and its block. -/
def commandOf (i : Instr) (state : CmdState) (block : List Byte) : Cmd := { command (wordFor i) state with record := block }
def kcpLocal : Instr := .kcp plain (fmtK 0 0 0 0 0 false false 0 0xC00)
def ktskIn : Instr := .ktsk plain (fmtK 0 0 0 0 0 false false 0 0)
def ktabIn : Instr := .ktab plain (fmtK 0 0 0 0 0 false false 0 3)
def kcpvIn : Instr := .kcpv plain (fmtK 0 0 0 0 0 false false 0 0xC00)
def knmcIn : Instr := .knmc plain (fmtK 0 0 0 0 0 false true 511 0)
/-- A reduction of two buffers of one f32 element at 0x10000 and 0x10004 to 0x20000, with a timed release at word 5. -/
def reduceBlock : List Byte := recordOf 128 [(3, 1, 6), (4, 4, 1), (24, 8, 5), (40, 1, 0x1A), (41, 1, 0x1A), (42, 1, 2),
  (48, 8, 0x10000), (56, 8, 4), (64, 8, 0x20000)]
/-- Version word 0 at 7. -/
def versioned : State := (holding []).modCore 0 fun k => k.setSync 0 0x0008000000000007
/-- A seal of one block, in a Relief-capable page and in a region that is being zeroed. -/
def sealIn (here : Bool) : Instr := .kseal plain (fmtK 0 0 0 0 0 false false 0 (if here then 0x400 else 0))
def sealing (here : Bool) : Cmd := { commandOf (sealIn here) .queued [] with frm := if here then 0x20000 else 0x10000, cnt := 1 }
def sealable (k : Cmd) : State :=
  { nopPlaced with
    cores := [(0, { coreOf sharing with regions := Sparse.put (coreOf sharing).regions 1 { Region.reset with owner := some 0, zeroing := true } })]
    cmds := [k], nextId := 6, mem := nopPlaced.mem.store 0x2000 [0x0F] }
theorem witness_CommandsStartAndComplete_blocks :
    ∀ here ∈ [false, true], let k := sealing here; let s := sealable k;
      s.findCmd k.id = some k ∧ k.ctx = some ⟨0, 0⟩ ∧ k.instr = some (sealIn here) ∧ isCopy (sealIn here) = true ∧
      s.startEnabled k = true ∧ s.copyRefused k (sealIn here) = false ∧ k.blocks (sealIn here) = some (here, k.frm, 1) ∧
      (match s.blocksTry .chan k here k.frm 1 with
        | .go _ => !here
        | .wait => here
        | _ => false) = true := by decide +kernel
/-- Core 0 has made its core cycle of this instant. -/
def settled (s : State) : State := s.modCore 0 fun k => { k with nextAt := 1 }
/-- A copy from host memory, which the engine of an I/O die moves. -/
def fromHost : Cmd := commandOf (.kcp plain (fmtK 0 0 0 0 0 false false 0 0x800)) .running []
def hosted : State := { settled nopPlaced with cmds := [fromHost], mem := nopPlaced.mem.store 0x2000 (natBytes 8 0x80000000007) }
theorem witness_CommandsStartAndComplete_messages :
    (settled (holding [])).coreDone 0 = true ∧ (settled (holding [])).carrierOf (.complete 5) = none ∧
    (holding []).engineIod (commandOf kcpLocal .running []) = none ∧ hosted.coreDone 0 = true ∧
    (hosted.engineIod fromHost).isSome = true ∧ fromHost.ctx = some ⟨0, 0⟩ ∧
    (let m : Message := { id := 9, src := 0, dst := 0, sent := true, delay := 0, ready := 0, msg := .complete 5 };
      let s : State := { settled (holding [{ commandOf kcpLocal .finished [] with done := 64 }]) with msgs := [m] };
      s.completeEnabled { commandOf kcpLocal .finished [] with done := 64 } = true ∧ s.carrierOf (.complete 5) = some m) := by
  decide
theorem witness_CommandsStartAndComplete :
    (∀ k ∈ [commandOf kcpLocal .queued [], { commandOf kcpLocal .queued [] with cnt := 2 ^ 40 }, { commandOf ktskIn .queued [] with cnt := 64 }],
      (holding [k]).findCmd k.id = some k ∧ k.ctx = some ⟨0, 0⟩ ∧ (holding [k]).startEnabled k = true) ∧
    (commandOf kcpLocal .queued []).instr = some kcpLocal ∧ (commandOf ktskIn .queued []).instr = some ktskIn ∧
    isCopy kcpLocal = true ∧ (holding []).copyRefused (commandOf kcpLocal .queued []) kcpLocal = false ∧
    (holding []).copyRefused { commandOf kcpLocal .queued [] with cnt := 2 ^ 40 } kcpLocal = true ∧
    (commandOf kcpLocal .running []).moves 0 kcpLocal = true ∧
    ({ commandOf kcpLocal .running [] with done := 64 } : Cmd).total kcpLocal ≤ 64 ∧
    goesTo ((holding [commandOf kcpLocal .running []]).copyStep (commandOf kcpLocal .running []) kcpLocal)
      (fun v => (v.findCmd 5).any fun k => k.word == wordFor kcpLocal && k.done == 64) = true ∧
    (let k := { commandOf kcpLocal .running [] with cnt := 65 };
      let s := holding [k];
      k.done + 64 < k.cnt ∧ (k.frm < k.tgt && rangesMeet k.frm k.cnt k.tgt k.cnt) = false ∧
      s.wholeBlock k true k.tgt k.cnt = false ∧
      (match s.place .chan k true 0x100 1 false with
        | .at_ l false u => !isEncoded (u.reliefAt l) &&
          reads (u.fetchRange .chan k true 0x100 64) fun bs v => bs.length == 64 && v.findCmd 5 == some k &&
            goesTo ((v.setCmd { k with tbuf := bs }).putRange .chan { k with tbuf := bs } true k.tgt bs) fun _ => true
        | _ => false) = true) ∧
    (let k := { commandOf (.kcol plain (fmtK 0 0 0 0 0 false false 0 1)) .queued (recordOf 128 [(1, 1, 0x10), (4, 4, 1)]) with
        id := 20, frm := 0x100 };
      let s := { gated with cmds := [k] };
      s.findCmd 20 = some k ∧ s.startEnabled k = true ∧ s.cmdHeld k = true) ∧
    (commandOf ktskIn .queued []).aux = 0 ∧ (holding []).cmdHeld { commandOf ktskIn .queued [] with cnt := 64 } = false ∧
    (let k := commandOf kcpvIn .running (recordOf 32 [(8, 8, 7)]);
      k.atCore 0 = true ∧ k.awaitsVersion = true ∧ versioned.refLocal (fieldAt k.record 0 8) = true ∧
      swKind ((versioned.core 0).syncWord 0) = 2 ∧ fieldAt k.record 8 6 ≤ ((versioned.core 0).syncWord 0).toNat % 2 ^ 48) ∧
    (let k := commandOf knmcIn .running (recordOf 128 [(3, 1, 1), (16, 8, 7)]);
      (({ versioned with cmds := [k] } : State).acquireEnabled k) = true) ∧
    (let k := { commandOf ktabIn .running [] with frm := 0x40 };
      let s := holding [k];
      k.instr = some ktabIn ∧ s.decoding k (fmtK 0 0 0 0 0 false false 0 3) = false ∧
      ktabStack (fmtK 0 0 0 0 0 false false 0 3) = none ∧ ktabSlot (fmtK 0 0 0 0 0 false false 0 3) = 3 ∧
      reads (s.fetchPiece .chan k true 0x40 64) (fun _ _ => true) = true) ∧
    (let k := commandOf knmcIn .running reduceBlock;
      (holding [k]).acceptEnabled k = true ∧ (holding [k]).nmcRefused k = false) ∧
    (let k := commandOf knmcIn .finished reduceBlock;
      (holding [k]).timedReleaseEnabled k = true ∧ (holding [k]).refLocal (nmcRelRef k.record) = true ∧
      swKind (((holding [k]).core 0).syncWord 5) ≠ 2 ∧ (holding [k]).coreTime 0 ≤ nmcRelT k.record + k.lambda) ∧
    (let k := { commandOf knmcIn .finished reduceBlock with released := true };
      (settled (holding [k])).completeEnabled k = true ∧ k.fmt = some (fmtK 0 0 0 0 0 false true 511 0)) := by decide

/-- The command at the head of a unit of stack 0, over the page that maps address 0. -/
def serving (k : Cmd) (u : Nat) : State :=
  { nopPlaced with cmds := [k], complexes := [(0, { Stack.reset with units := [(u, [k.id])] })] }
/-- The same reduction without a release; an update of one weight; a transposition of one row of one byte-wide element; a
lookup with no query; a reduction in the second of its two units, and one whose address is not mapped. -/
def sumBlock : List Byte := recordOf 128 [(4, 4, 1), (40, 1, 0x1A), (41, 1, 0x1A), (42, 1, 2), (48, 8, 0x10000), (56, 8, 4),
  (64, 8, 0x20000)]
def stepBlock : List Byte := recordOf 128 [(0, 1, 1), (4, 4, 1), (40, 1, 0x1A), (41, 1, 0x1A), (64, 8, 0x10000), (72, 8, 0x20000)]
def turnBlock : List Byte := recordOf 128 [(0, 1, 2), (40, 1, 2), (48, 8, 0x10000), (56, 8, 0x20000), (64, 1, 0x10), (65, 1, 2),
  (72, 4, 1), (76, 4, 1)]
def lookBlock (queries : Nat) : List Byte := recordOf 128 [(0, 1, 3), (4, 4, queries), (40, 1, 4), (41, 1, 4), (42, 1, 4), (43, 1, 1),
  (44, 2, 1), (46, 2, 1), (48, 2, 1), (52, 4, 0x40000000), (56, 8, 0x10000), (64, 8, 0x10100), (72, 8, 0x10200), (80, 8, 0x10300),
  (88, 8, 0x20000), (96, 8, 0x20100), (104, 8, 0x20200)]
def farBlock : List Byte := recordOf 128 [(4, 4, 1), (40, 1, 0x1A), (41, 1, 0x1A), (42, 1, 2), (48, 8, 0x40000000), (56, 8, 4),
  (64, 8, 0x20000)]
/-- An encoding of one block of 4 KiB. -/
def packBlock : List Byte := recordOf 128 [(0, 1, 2), (4, 4, 1), (48, 8, 0x10000), (56, 8, 0x20000)]
/-- The served command has work left, and its next unit moves it on by some elements, with or without work left then. -/
def moving (k : Cmd) (u by_ last : Nat) : Bool :=
  (serving k u).served 0 u == some k && decide (k.computed < nmcTotal k.record) &&
    goesTo ((serving k u).nmcUnitTry 0 k) fun v => (v.findCmd k.id).any fun d =>
      d.state == .running && d.record == k.record && d.computed == k.computed + by_ && (nmcTotal k.record == d.computed) == (last == 1)
theorem witness_NearMemoryUnitsServe :
    moving (commandOf knmcIn .running sumBlock) 0 1 1 = true ∧
    moving (commandOf knmcIn .running (patchBytes sumBlock 4 [17])) 0 16 0 = true ∧
    moving (commandOf knmcIn .running stepBlock) 1 1 1 = true ∧ moving (commandOf knmcIn .running turnBlock) 2 1 1 = true ∧
    moving (commandOf knmcIn .running (lookBlock 2)) 3 1 0 = true ∧
    (∀ mode ∈ [0, 1], let k := commandOf knmcIn .running (patchBytes sumBlock 43 [mode]);
      nmcUnit k.record = 0 ∧ reduceSpan k = 1 ∧ blkSize k.record 40 = 4 ∧ byteAt k.record 42 = 2 ∧
      (match (serving k 0).fillBuffers 0 k 4 (List.range 2) with
        | (j, none, t) => decide (4 ≤ (j.held.getD 0 []).length) && decide (4 ≤ (j.held.getD 1 []).length) && t.findCmd 5 == some k
        | _ => false) = true) ∧
    (serving (commandOf knmcIn .running (lookBlock 0)) 3).served 0 3 = some (commandOf knmcIn .running (lookBlock 0)) ∧
    nmcTotal (lookBlock 0) ≤ (commandOf knmcIn .running (lookBlock 0)).computed ∧
    (match (serving (commandOf knmcIn .running farBlock) 0).nmcUnitTry 0 (commandOf knmcIn .running farBlock) with
      | .stop c _ v => c != .refused && v.findCmd 5 == some (commandOf knmcIn .running farBlock)
      | _ => false) = true := by decide +kernel
/-- What a row of an update writes, by its array. -/
def newOf (mode : Byte) : List (Nat × (Nat × Nat × Nat × Flags → Nat)) :=
  [(0, fun r => r.1)] ++ (if mode = 0 then [] else [(1, fun r => r.2.1)]) ++ (if mode = 2 then [(2, fun r => r.2.2.1)] else [])
/-- The operands of an updated row in each mode, of an encoded block, of a transposition's piece and of a query can be read,
and its results written. -/
theorem witness_NearMemoryUnitsServe_units :
    (∀ mode ∈ [0, 1, 2], let b := patchBytes (patchBytes stepBlock 80 (natBytes 8 0x30000)) 88 (natBytes 8 0x38000);
      let k := commandOf knmcIn .running (patchBytes b 43 [mode]);
      let arr := [(fieldAt k.record 64 8, blkSize k.record 40)]
        ++ (if mode = 0 then [] else [(fieldAt k.record 80 8, blkSize k.record 42)])
        ++ (if mode = 2 then [(fieldAt k.record 88 8, blkSize k.record 42)] else []);
      nmcUnit k.record = 1 ∧ rowFirst k.record 0 = 0 ∧ rowFirst k.record 1 = 1 ∧ blkSize k.record 41 = 4 ∧ byteAt k.record 43 = mode.toNat ∧
      (match (serving k 1).fillBuffer 0 k 0 4 5 with
        | (j, none, t) =>
          let grads := j.held.getD 0 []
          let k' := { k with held := [grads.drop 4] }
          (match t.fetchAll (.unit 0) k' (arr.map fun a => (a.1 + a.2 * 0, a.2 * 1)) with
            | .ok (bss, v) =>
              let el (a : Nat) : Nat := fieldAt (bss.getD a []) 0 (arr.getD a (0, 1)).2
              let new := updateElem k.record (el 0) (fieldAt (grads.take 4) 0 4) (el 1) (el 2)
              goesTo (v.putAll (.unit 0) k' false State.readRows ((newOf mode).map fun x =>
                (((arr.getD x.1 (0, 1)).1 + (arr.getD x.1 (0, 1)).2 * 0) % 2 ^ 64, natBytes (arr.getD x.1 (0, 1)).2 (x.2 new))))
                fun _ => true
            | _ => false)
        | _ => false) = true) ∧
    (let k := commandOf knmcIn .running packBlock;
      -- the page is Relief-capable
      let s := { serving k 2 with mem := (serving k 2).mem.store 0x2000 [0x0F] };
      nmcUnit k.record = 2 ∧ byteAt k.record 40 = 0 ∧ s.slotStalled (.unit 0) k 0 = false ∧
      reads (s.fetchRange (.unit 0) k false 0x10000 4096) (fun _ v => match v.place (.unit 0) k false 0x20000 4096 true with
        | .at_ l true w => !isSealed (w.reliefAt l)
        | _ => false) = true) ∧
    (let k := commandOf knmcIn .running turnBlock;
      nmcUnit k.record = 2 ∧ byteAt k.record 40 = 2 ∧ (transposePieces k.record).getD 0 (0, 0) = (0x20000, 1) ∧
      reads ((serving k 2).fetchRange (.unit 0) k false 0x10000 (layBytes ((k.record.drop 64).take 32))) (fun els v =>
        goesTo (v.putRange (.unit 0) k false 0x20000 ((transposed ((k.record.drop 64).take 32) 0 0 els).take 1)) fun _ => true) = true) ∧
    (let k := commandOf knmcIn .running (lookBlock 2);
      nmcUnit k.record = 3 ∧
      (match (serving k 3).fetchAll (.unit 0) k [(0x10000, 4), (0x10100, 2), (0x10200, 2)] with
        | .ok (inp, v) =>
          let x := gazSelect k.record (inp.getD 0 []) (inp.getD 1 []) (inp.getD 2 [])
          (match v.fetchAll (.unit 0) k (x.1.map fun r => (0x10300 + 2 * r.1, 2)) with
            | .ok (rows, t) => goesTo (t.putAll (.unit 0) k false (fun _ s => s) (gazOutputs k.record 0 x.1 x.2 rows).1) fun _ => true
            | _ => false)
        | _ => false) = true) := by decide +kernel
/-- A held result of the last element and one before it; real operands of an update in each mode, and NaR; reals of κ 1 at the
head of a selection, a NaR score, and lists of two and of three values. -/
theorem witness_NearMemoryUnitsServe_values :
    (∀ total ∈ [1, 17], let w : HeldUnit := { n := 1, addr := 0x20000, bytes := [1, 2, 3, 4], flags := 0 };
      let k := { commandOf knmcIn .running (patchBytes sumBlock 4 [total]) with out := [w] };
      let s := holding [k];
      s.findCmd k.id = some k ∧ k.isNmc = true ∧ k.atCore 0 = true ∧ nmcTotal k.record = total.toNat ∧
      goesTo ((serving k 0).putRange (.unit 0) k false w.addr w.bytes) (fun v => v.findCmd k.id == some k) = true) ∧
    (2 ≤ [Val.nar, .nar].length ∧ 2 ^ 0 < [Val.nar, .nar].length ∧ [Val.nar, .nar].length ≤ 2 ^ (0 + 1)) ∧
    (2 ^ 1 < [Val.nar, .nar, .nar].length ∧ [Val.nar, .nar, .nar].length ≤ 2 ^ (1 + 1)) ∧
    ((decodeVal t32e2 0x40000000).real? = some Q.one ∧ (decodeVal f32 0x3F800000).real? = some Q.one ∧
      (decodeVal t32e2 (2 ^ 31)).isNar = true ∧ (decodeVal f32 0x7FC00000).isNan = true ∧
      (roundVal t32e2 (decodeVal f32 0x3F800000)).1 = 0x40000000 ∧ (expE Q.zero) = 0x40000000 ∧ (0 : Int) ≤ Q.zero.num) ∧
    (Val.nar ∈ [Val.nar] ∧ ([(0, Val.nar), (1, .real Q.one)].map Prod.fst).Nodup ∧ 0 < Q.one.den) := by decide +kernel

/-- A grammar of one state, two symbols, one class and 32 tokens, whose tables lie at 0x10000 and 0x10100; the action of
class 0 under symbol 0 pushes symbol 1. -/
def gram : List Byte := recordOf 32 [(0, 2, 1), (2, 2, 2), (4, 2, 1), (8, 4, 32), (16, 8, 0x10000), (24, 8, 0x10100)]
def gstepIn : Instr := .gstep plain (fmtK 0 0 0 0 0 false false 0 0)
def gmaskIn : Instr := .gmask plain (fmtK 0 0 0 0 0 false false 0 0)
def parsing (k : Cmd) : State :=
  let s := nopPlaced.modCore 0 fun c => { coreOf (c.ctx 0) with scratch := [(0x102, 129)] };
  { s with cmds := [k], dies := [(0, { Die.reset with grammar := [5] })], mem := s.mem.store 0x20010100 (natBytes 4 0x10003) }
/-- A walker record of depth d. -/
def walker (d : Nat) : List Byte := recordOf 256 [(2, 1, d)]
theorem witness_GrammarCommands :
    (let k := { commandOf gstepIn .running gram with tgt := 0x100 };
      (parsing k).grammarNext 0 = some k ∧
      reads ((parsing k).fetchRange .chan k true k.tgt 256) (fun w v => !walkOk k.record w && v.findCmd 5 == some k) = true) ∧
    (let k := { commandOf gstepIn .running gram with cnt := 1, tbuf := walker 0 };
      (parsing k).grammarNext 0 = some k ∧ walkDead k.tbuf = false ∧
      reads ((parsing k).fetchRange .chan k true k.frm 4) (fun b u => match u.admission k k.tbuf (leNat b % 32) with
        | .known a u' => a == some 0x10003 && u'.findCmd 5 == some k &&
          goesTo ((u'.setCmd { k with done := 1, tbuf := applyAction k.tbuf a }).putRange .chan
            { k with done := 1, tbuf := applyAction k.tbuf a } true k.tgt (applyAction k.tbuf a)) fun _ => true
        | _ => false) = true) ∧
    (∀ held ∈ [[], [[(0 : Byte)]]],
      let k := { commandOf gmaskIn .running gram with done := 31, tbuf := walker 0 ++ List.replicate 60 0, held := held };
      let s := parsing k;
      let go (bs : List Byte) (v : State) : Bool := match v.admitClass { k with held := [bs] } k.tbuf (byteAt bs 0) with
        | .known a u => a == some 0x10003 &&
          (let k' := { k with done := 32, tbuf := k.tbuf ++ [255, 255, 255, 255], held := [bs.drop 1] };
            goesTo (u.putRange .chan k' true (k.tgt + 64) (k'.tbuf.drop 256)) fun _ => true)
        | _ => false;
      s.grammarNext 0 = some k ∧ k.done + 1 = 32 * ((gramTokens k.record + 31) / 32) ∧ k.tbuf.length = 316 ∧
      walkDead k.tbuf = false ∧ k.done < gramTokens k.record ∧
      (match held with
        | [bs] => go bs s
        | _ => reads (s.fetchRange .chan k false ((gramClsAddr k.record + 31) % 2 ^ 64)
          (min (64 - (gramClsAddr k.record + 31) % 2 ^ 64 % 64) (gramTokens k.record - 31))) go) = true) ∧
    (let k := { commandOf gmaskIn .running gram with done := 31, tbuf := applyAction (walker 0) none ++ List.replicate 60 0 };
      (parsing k).grammarNext 0 = some k ∧ walkDead k.tbuf = true ∧ k.tbuf.length = 316 ∧
      goesTo ((parsing k).putRange .chan { k with done := 32, tbuf := k.tbuf ++ [0, 0, 0, 0] } true (k.tgt + 64)
        ((k.tbuf ++ [0, 0, 0, 0]).drop 256)) (fun _ => true) = true) ∧
    (walker 128).length = 256 ∧ walkDepth (walker 128) ≤ 128 ∧ walkDepth (walker 127) < 128 ∧ 1 ≤ walkDepth (walker 1) ∧
    actOp 1 = 0 ∧ actOp 3 = 1 ∧ actOp 5 = 2 ∧ actOp 7 = 3 := by decide +kernel

/-- A reduce of one 8-bit element by the contexts 0 and 1 of core 0: one producer at 0x200, one consumer at 0x240 with its
table at 0x280. -/
def gatherBlock : List Byte := recordOf 32 [(1, 1, 0x10), (4, 4, 1), (8, 4, 3), (12, 2, 1), (14, 2, 1)]
/-- The same at times 1 cycle apart from 1 on. -/
def timedBlock : List Byte := patchBytes (patchBytes gatherBlock 16 [1]) 24 [1]
def kcolIn (role : Nat) : Instr := .kcol plain (fmtK 0 0 0 0 0 false false 0 role)
def giver : Cmd := { commandOf (kcolIn 1) .running (gatherBlock ++ List.replicate 96 0) with frm := 0x200 }
def taker : Cmd := { commandOf (kcolIn 2) .running (gatherBlock ++ List.replicate 96 0) with id := 6, tgt := 0x240, cnt := 0x280 }
def giving (sent : Nat) : Party :=
  { core := 0, ctx := 0, cmd := 5, task := 0, table := 0, prod := true, cons := false, read := [(0, [0x80])], sent := Sparse.set 0 [] 0 sent, landed := []
    cancelled := false, killed := false, flowAt := 0 }
def taking (landed : Nat) : Party :=
  { core := 0, ctx := 0, cmd := 6, task := 0, table := 0x280, prod := false, cons := true, read := [], sent := [], landed := Sparse.set 0 [] 0 landed
    cancelled := false, killed := false, flowAt := 0 }
def gathered (p q : Party) (formed cancel : Bool) : Collective :=
  { id := 1, tenant := 0, block := gatherBlock, parties := [p, q], formed := formed, cancel := cancel, ghost := 0, kcans := [] }
def joined (c : Collective) : State := { run sharing with cmds := [giver, taker], colls := [c] }
theorem witness_Collectives :
    ((joined (gathered (giving 0) (taking 0) false false)).collById 1 = some (gathered (giving 0) (taking 0) false false) ∧
      (gathered (giving 0) (taking 0) false false).ready = true ∧
      (joined (gathered (giving 0) (taking 0) false false)).treeOf (gathered (giving 0) (taking 0) false false) = none) ∧
    (∀ n ∈ [0, 7], let c := gathered (giving n) (taking 0) true false;
      (joined c).partyAt 1 0 = some (c, giving n, giver) ∧ (joined c).injectEnabled c (giving n) giver 0 = true ∧
      Sparse.get 0 (giving n).sent 0 = n) ∧ collPt0 gatherBlock = 0 ∧
    reads ((joined (gathered (giving 0) (taking 0) true false)).fetchRange .chan giver true 0x200 1) (fun _ _ => true) = true ∧
    (let c := gathered (giving 8) (taking 7) true false;
      (joined c).partyAt 1 1 = some (c, taking 7, taker) ∧ (joined c).landEnabled c (taking 7) taker 0 = true ∧
      collWordUsed c.block = false ∧ collOp c.block = 0 ∧
      reads ((joined c).fetchRange .chan taker true 0x240 1) (fun old v =>
        goesTo (v.putAll .chan taker true (fun _ s => s) [(0x240, [BitVec.ofNat 8 (landElem false 1 0 (leNat old) [0x80])]), (0x288, [8]), (0x280, [8]),
          (0x281, [2])]) fun _ => true) = true ∧ c.landedAll (taking 8) = true) ∧
    (let c := { gathered (giving 8) (taking 7) true false with block := timedBlock };
      let s := { joined c with mer := { Meridian.reset with acc := 16000 * 2 ^ 32, held := false } };
      s.partyAt 1 1 = some (c, taking 7, taker) ∧ s.landEnabled c (taking 7) taker 0 = true ∧ taker.aux = 0 ∧ collPt0 c.block ≠ 0) ∧
    (∀ x ∈ [(0, 7), (1, 7), (1, 8)], let c := gathered (giving 0) (taking x.2) true true;
      let m : Message := { id := 40, src := 1, dst := 0, sent := true, delay := 0, ready := 0, msg := .cancel 1 x.1 };
      let s := { joined c with msgs := [m] };
      s.collById 1 = some c ∧ c.parties[x.1]? = some (if x.1 = 0 then giving 0 else taking x.2) ∧
      s.carrierOf (.cancel 1 x.1) = some m ∧ s.messageReady m = true ∧ c.beyondCancel = (x.2 == 8) ∧
      (giving 0).cons = false ∧ (taking 7).cons = true ∧ s.partyHere (taking 7) = true ∧
      (match s.writeData (.loc 0 0x281) [1] with
        | .ok _ => true
        | .error _ => false) = true) ∧
    (let c := gathered { giving 0 with cancelled := true } { taking 0 with cancelled := true } true true;
      (joined c).collById 1 = some c ∧ c.over = true ∧ (joined c).partyRunning c = true ∧
      ({ joined c with cmds := [] } : State).partyLeft c = false) := by decide +kernel
/-- A stopped party of the one formed collective, as KRES.DROP meets it. -/
def formedOne : Collective := gathered (giving 8) (taking 7) true false
def stoppedTaker : Cmd := { taker with state := .stopped .syncp 0 }
def partyStopped : State := { joined formedOne with cmds := [giver, stoppedTaker] }
theorem witness_ChannelCommands_party : partyStopped.stoppedCmd ⟨0, 0⟩ 0 = some stoppedTaker ∧
    partyStopped.colls = [formedOne] ∧ formedOne.formed = true ∧ formedOne.beyondCancel = false ∧
    (formedOne.parties.any fun p => p.cmd == stoppedTaker.id) = true ∧ Sparse.get 0 partyStopped.me.shares 0 ≠ 0 :=
  ⟨by decide, rfl, rfl, by decide, by decide, by decide⟩
/-- A producer that holds its source, and a consumer that owes its arrival at a version. -/
theorem witness_HeldSources :
    (let c := gathered (giving 0) (taking 0) true false; let k := { giver with source := [0x80] };
      ({ joined c with cmds := [k, taker] } : State).partyAt 1 0 = some (c, giving 0, k) ∧
      ({ joined c with cmds := [k, taker] } : State).injectEnabled c (giving 0) k 0 = true ∧ k.source ≠ []) ∧
    (let c := gathered (giving 8) (taking 8) true false; let k := { taker with aux := 1 };
      let s := ({ joined c with cmds := [giver, k] } : State).modCore 0 fun x => x.setSync 0 0x0008000000000007;
      s.partyAt 1 1 = some (c, taking 8, k) ∧ k.state = .running ∧ collWord c.block = 0 ∧ swKind ((s.core 0).syncWord 0) ≠ 0) := by
  decide +kernel
/-- A flow from core (0, 0) to core (1, 0). -/
def edgeFlow : BitVec 64 := 0x0001000000010000
/-- A tree of one edge from core (0, 0) to core (1, 0), of the collective of gatherBlock, with slot 5 reserved for it; an earlier
store, performed or not; and a KCAN of that collective, before and after its last plane. -/
def treed (fabric : Nat) : State :=
  let c := gathered (giving 0) (taking 0) true false
  { joined c with
    now := fabric * Config.fabricPeriod
    trees := [{ collid := collId gatherBlock, tenant := 0, edges := [edgeFlow] }]
    reserved := [{ owner := 0, coll := some (collId gatherBlock, 0), flow := 0, inj := true, link := 0, slot := 5 }] }
def earlier : Cmd := { giver with source := [0, 0], prior := [(.cmd 77, [(0x201, 9)])] }
def canceller : Cmd := { commandOf (.kcan plain (fmtK 1 0 0 0 0 false false 0 0)) .queued [] with id := 9, chan := 1, cnt := collId gatherBlock }
def cancelling (landed cnt : Nat) : State :=
  let s := joined (gathered (giving 8) (taking landed) true false)
  { s with cmds := s.cmds ++ [{ canceller with cnt := cnt }] }
theorem witness_Collectives_slots_and_cancels :
    (let c := gathered (giving 0) (taking 0) true false;
      (treed 69).injectEnabled c (giving 0) giver 0 = true ∧ (treed 69).planeSlots c (giving 0) ≠ [] ∧
      (treed 70).injectEnabled c (giving 0) giver 0 = false) ∧
    (earlier.ctx = some ⟨0, 0⟩ ∧ earlier.prior = [(.cmd 77, [(0x201, 9)])] ∧
      (joined (gathered (giving 0) (taking 0) true false)).memberPending ⟨0, 0⟩ (.cmd 77) = false ∧
      (joined (gathered (giving 0) (taking 0) true false)).memberPending ⟨0, 0⟩ (.cmd 5) = true ∧ earlier.frm ≤ 0x201) ∧
    (∀ x ∈ [(7, collId gatherBlock), (8, collId gatherBlock), (7, collId gatherBlock + 1)],
      let s := cancelling x.1 x.2; let k := { canceller with cnt := x.2 };
      let y := s.colls.find? (fun c => c.tenant == k.tenant && collId c.block == k.cnt % 2 ^ 32 && (c.live || c.over));
      s.findCmd k.id = some k ∧ k.ctx = some ⟨0, 0⟩ ∧ (k.instr.any fun i => i matches .kcan _ _) = true ∧
      s.startEnabled k = true ∧ (y.map fun d => (d.beyondCancel, d.formed, d.cancel, s.collById d.id == some d)) =
        (if x.2 = collId gatherBlock then some (x.1 == 8, true, false, true) else none)) := by decide +kernel
theorem witness_PlanesOfAnElement : (0xFF : Nat) < 2 ^ (8 * 1) ∧ (7 : Nat) < 8 * 1 ∧ (31 : Nat) < 32 := by decide


/-! ### Witnesses: schedulers, records, host ports and the module -/

/-- The page that maps address 0, with firmware running and records stored at its addresses. -/
def stocked (rs : List (Nat × List Byte)) : State :=
  let s := nopPlaced.setBlockReg 0x018 1
  { s with mem := rs.foldl (fun m r => m.store (0x20000000 + r.1) r.2) s.mem }
/-- The code of an outcome that fails. -/
def failsWith {ε α : Type} [DecidableEq ε] (e : ε) (r : Except ε α) : Bool :=
  match r with
  | .error x => x == e
  | .ok _ => false
def posted (a : Nat) : Post := { iod := 0, tenant := 0, port := some 0, addr := a, cmd := none, prio := 7, carrier := none }
/-- A launch entry of one task on core (0, 0), context 3, tile 7, slot 63 and region 15, with its loop table at 0x2000. -/
def entry : List Byte := recordOf 256 [(28, 1, 3), (34, 1, 1), (35, 1, 1), (36, 4, 1), (40, 4, 1), (44, 4, 1), (48, 4, 128), (64, 8, 0x2000),
  (76, 2, 0x8000), (78, 1, 0x80), (80, 8, 2 ^ 63)]
def loops : List Byte := recordOf 152 [(0, 1, 1), (8, 4, 1)]
/-- A tree of one edge from core (0, 0) to core (1, 0), of one slot. -/
def tree : List Byte := recordOf 40 [(0, 4, 3), (4, 4, 1), (34, 1, 1), (38, 1, 1)]
def nodeAt (id kind body prio : Nat) : Node :=
  { id := id, addr := 0x40, pa := 0x20000040, tenant := 0, port := some 0, iod := 0, kind := kind, prio := prio, record := recordOf 64 [(24, 8, body)]
    ready := some id, dispatched := false, tokens := 0, decided := [], left := 0, bad := none, lates := 0 }
def withNodes (ns : List Node) : State := { stocked [(0x1000, entry), (0x2000, loops), (0x3000, entry.set 65 0x30), (0x4000, tree)] with nodes := ns }
theorem witness_NodesAcceptAndDispatch :
    (stocked []).booted = true ∧ (∀ a ∈ [0x40, 0x80, 0x40000000],
      ({ stocked [] with posts := [posted a] } : State).posts.find? (fun x => x.iod == 0 && ({ stocked [] with posts := [posted a] } : State).postHere x) = some (posted a)) ∧
    failsWith (tINVALID, 0x40000000) ((stocked []).readGlobal (.die (iodDie 0)) 0 0x40000000 64).1 = true ∧
    (match (stocked [(0x83, [1])]).readGlobal (.die (iodDie 0)) 0 0x80 64 with
      | (.ok bs, _) => byteAt bs 3 != 0
      | _ => false) = true ∧
    (match (stocked []).readGlobal (.die (iodDie 0)) 0 0x40 64 with
      | (.ok bs, w) => byteAt bs 3 == 0 && w.deviceRecord (.die (iodDie 0)) 0 0x40 && nodeOk w bs &&
        (match w.writeSmall (.die (iodDie 0)) 0 0x43 [1] with
          | (.ok _, _) => true
          | _ => false)
      | _ => false) = true ∧
    (withNodes [nodeAt 9 0 1 6, nodeAt 3 0 1 7, nodeAt 8 0 0x1000 7]).nextNode 0 = some (nodeAt 3 0 1 7) ∧
    failsWith refEntry ((withNodes [nodeAt 3 0 1 7]).readPlacement (nodeAt 3 0 1 7)).1 = true ∧
    (match (withNodes [nodeAt 3 0 0x3000 0]).readPlacement (nodeAt 3 0 0x3000 0) with
      | (.ok p, v) => v.placementCode (nodeAt 3 0 0x3000 0) p == some refEntry
      | _ => false) = true ∧
    (match (withNodes [nodeAt 3 0 0x1000 0]).readPlacement (nodeAt 3 0 0x1000 0) with
      | (.ok p, v) => v.placementCode (nodeAt 3 0 0x1000 0) p == none && p.tasks == [(0, 0)]
      | _ => false) = true ∧
    (match (withNodes [nodeAt 3 3 0x4000 0]).readTree (nodeAt 3 3 0x4000 0) with
      | (.ok tr, v) => tr.edges.all v.flowReachable && (v.takeFlows { owner := 0, coll := some (tr.collid, tr.tenant), flow := 0 } tr.edges v.reserved).isSome &&
        tr.tenant == 0
      | _ => false) = true ∧
    (match (withNodes [nodeAt 3 2 0x5000 0]).readGlobal (nodeAt 3 2 0x5000 0).iodWalker 0 0x5000 128 with
      | (.ok bs, _) => nmcUnit bs != 2
      | _ => false) = true ∧
    (match (withNodes [nodeAt 3 1 0x2F80 0]).readGlobal (nodeAt 3 1 0x2F80 0).iodWalker 0 0x2F80 128 with
      | (.ok bs, _) => nmcUnit bs == 0
      | _ => false) = true ∧
    failsWith (tINVALID, 0x40000000) ((withNodes [nodeAt 3 1 0x40000000 0]).readGlobal (nodeAt 3 1 0x40000000 0).iodWalker 0 0x40000000 128).1 =
      true := by decide +kernel
/-- A node that a KTSK of a task of PRIO 7 posts, at some address, and the page that maps address 0 with some permissions. -/
def taskPost (a : Nat) : Post := { posted a with port := none, cmd := some 5 }
def postedBy (a : Nat) (leaf : Nat) : State :=
  let s := stocked [(0x41, [8]), (0x80, [9]), (0x103, [0])]
  { s with posts := [taskPost a], cmds := [{ commandOf ktskIn .running [] with cnt := 1 }], mem := s.mem.store 0x2000 (natBytes 8 (0x20000000 + leaf)) }
/-- A record that cannot be read, one above PRIO 7, one of an unknown kind, one that is accepted, one that cannot be written. -/
theorem witness_NodesAcceptAndDispatch_posts :
    (∀ x ∈ [(0x40000000, 7), (0x40, 7), (0x80, 7), (0x100, 7), (0x100, 3)], let s := postedBy x.1 x.2; let v := s.dropPost (taskPost x.1);
      s.booted = true ∧ s.posts.find? (fun y => y.iod == 0 && s.postHere y) = some (taskPost x.1) ∧
      (match v.readGlobal (.die (iodDie 0)) 0 x.1 64 with
        | (.error e, w) => x.1 == 0x40000000 && e == (tINVALID, 0x40000000) && (w.findCmd 5).isSome
        | (.ok bs, w) => byteAt bs 3 == 0 && w.deviceRecord (.die (iodDie 0)) 0 x.1 && (nodeOk w bs == !([0x40, 0x80].contains x.1)) &&
          (match w.writeSmall (.die (iodDie 0)) 0 (x.1 + 3) [1] with
            | (.ok _, z) => x.2 == 7 && (z.findCmd 5).isSome
            | (.error _, z) => x.2 == 3 && (z.findCmd 5).isSome)) = true) ∧
    (let p := { taskPost 0x40 with prio := 6 };
      let s := { postedBy 0x40 7 with posts := [p], mem := (stocked [(0x41, [7])]).mem };
      s.posts.find? (fun y => y.iod == 0 && s.postHere y) = some p ∧ p.cmd ≠ none ∧
      (match (s.dropPost p).readGlobal (.die (iodDie 0)) 0 0x40 64 with
        | (.ok bs, w) => byteAt bs 3 == 0 && nodeOk w bs && w.deviceRecord (.die (iodDie 0)) 0 0x40 && decide (p.prio < byteAt bs 1) &&
          ((w.refusePost p 7).findCmd 5).isSome
        | _ => false) = true) := by decide +kernel

/-- A launch of that entry, and one that has begun with a parameter block of 8 bytes at address 0. -/
def launch (e : List Byte) (begun : Bool) : Launch :=
  { id := 4, node := 9, tenant := 0, core := 0, ctx := entCtx e, num := 0, entry := e, levels := loops, binds := [], syncs := [0x1FF], flows := []
    begun := begun, block := [] }
def launching (s : State) (l : Launch) : State := { s with launches := [l], nodes := [nodeAt 9 0 0x1000 7] }
/-- Every slot of the link of that flow taken; that launch with a parameter block. -/
def blockEntry (e : List Byte) : List Byte := (e.set 28 0).set 20 8
def startable (l : Launch) : State := launching nopPlaced l
def crowded : State :=
  { State.reset with reserved := (List.range 64).map fun n => { owner := 1, coll := none, flow := 0, inj := true, link := 0, slot := n } }
theorem witness_LaunchesAndEnds :
    (launching State.reset (launch entry false)).launches.find? (·.id == 4) = some (launch entry false) ∧
    (launching State.reset (launch entry false)).launchFree (launch entry false) = true ∧ (launch entry false).ctx < 4 ∧
    (entTiles entry).testBit 7 = true ∧ (entSlots entry).testBit 63 = true ∧ (entRegions entry).getLsbD 15 = true ∧
    (let e := entry.set 28 0; let s := launching (run (small [] [])) (launch e false);
      s.launchFree (launch e false) = false ∧ s.nodes.find? (·.id == 9) = some (nodeAt 9 0 0x1000 7) ∧
      s.undecided (nodeAt 9 0 0x1000 7) ≠ []) ∧
    (let e := (entry.set 28 0).set 20 8; let s := launching (nopPlaced.modCore 0 fun k => coreOf (k.ctx 0)) (launch e true);
      s.launchReady (launch e true) = true ∧ entPlocal e + 8 ≤ scratchEnd ∧ entDesc e = false ∧
      (match s.readGlobal (.die (iodDie 0)) 0 ((fieldAt e 8 8 + 0 * fieldAt e 16 4) % 2 ^ 64) (entPlen e) with
        | (.ok block, _) => block == bytesOfWord 0x8008000000000000
        | _ => false) = true ∧
      homeIod (dieOf 0) = 0) ∧
    (match (startable (launch entry false)).readBlocks ((startable (launch entry false)).waitingOf 9) with
      | (.ok blocks, v) => blocks == [(4, [])] && v.launchSlots (launch entry false) == some [] &&
        !(startable (launch entry false)).othersBegun (launch entry false)
      | _ => false) = true ∧
    (let l := { launch (entry.set 35 2) false with core := 1, id := 5, num := 1 };
      let s := { startable l with launches := [{ l with core := 0, id := 4, num := 0, begun := true }, l] };
      s.launches.find? (·.id == 5) = some l ∧ l.begun = false ∧ s.launchFree l = true ∧ s.othersBegun l = true) ∧
    (let l := { launch entry false with flows := [edgeFlow] }; let s := { startable l with reserved := crowded.reserved };
      l.begun = false ∧ s.launchFree l = true ∧ s.othersBegun l = false ∧ (match s.readBlocks (s.waitingOf l.node) with
        | (.ok _, v) => (v.launchSlots l).isNone && v.nodes.find? (·.id == 9) == some (nodeAt 9 0 0x1000 7)
        | _ => false) = true) ∧
    (let l := launch (entry.set 20 8) false; let s := launching State.reset l;
      l.begun = false ∧ s.launchFree l = true ∧ s.othersBegun l = false ∧ (match s.readBlocks (s.waitingOf l.node) with
        | (.error _, v) => v.nodes.find? (·.id == 9) == some (nodeAt 9 0 0x1000 7)
        | _ => false) = true) ∧
    (run { small [] [] with ending := true }).taskEnds ⟨0, 0⟩ = true := by decide +kernel

/-- A context whose record is due, with a pool of one slot of four pages at 0x100000, and a record stored there that holds Λ alone. -/
def saving : State :=
  ((nopPlaced.modCtx ⟨0, 0⟩ fun c => { c with saving := some 1 }).setBlockReg 0x140 0x100000).setBlockReg 0x1C0 0x40001
def savedTask : Saved :=
  { addr := 0x100000, core := 0, ctx := 0, task := placedTask, pool := (0, 0), binds := [], cmds := [], gates := [], lates := 0, kept := Kept.none }
def stored : State :=
  { State.reset with
    mem := [(0x100000, 1), (0x100005, 0x32), (0x100400, 0x80)], saved := [savedTask]
    mod := { State.reset.mod with poolUsed := [(0, 0)], block := [(0x018, 1)] } }
def asked (a : Nat) (begun : Bool) : RestoreReq := { id := 2, addr := a, tenant := 0, port := true, begun := begun }
theorem bytes_length (m : Memory) (a n : Nat) : (m.bytes a n).length = n := by
  induction n generalizing a with
  | zero => rfl
  | succ n ih => simp [Memory.bytes, ih]
theorem stored_parses : parseRecord (stored.mem.bytes 0x100000 12800) = some ⟨[], 12800, 12800, 12800, 12800⟩ := by
  unfold parseRecord
  rw [bytes_length]
  decide +kernel
theorem stored_ok : stored.recordOk savedTask (stored.mem.bytes 0x100000 12800) = some ⟨[], 12800, 12800, 12800, 12800⟩ := by
  unfold State.recordOk
  rw [stored_parses]
  decide +kernel
theorem restore_begins {s : State} {q : RestoreReq} {v : Saved} {n : Nat} {p : Parsed} {r : List Slot}
    (f : (s.saved.find? fun v => v.addr == q.addr && v.task.tenant == q.tenant) = some v) (b : q.begun = false)
    (h : min (s.mem.nat (q.addr + 4) 4) recordLimit = n) (e : s.hostPending q.addr n = false)
    (k : s.recordOk v (s.mem.bytes q.addr n) = some p) (g : s.restoreFree v (s.mem.bytes q.addr n) = true) (o : q.port = true)
    (w : s.takeTaskFlows q.id v.task.flows s.reserved = some r) (y : s.mayStore q.addr n = true)
    (z : s.restoreCode v (s.mem.bytes q.addr n) = none) :
    s.restoreMove q = .begin_ v p (s.mem.bytes q.addr n) r := by
  subst h
  simp [State.restoreMove, State.savedAt, f, b, e, k, g, o, w, y, z, bytes_length]
theorem stored_begins : stored.restoreMove (asked 0x100000 false) =
    .begin_ savedTask ⟨[], 12800, 12800, 12800, 12800⟩ (stored.mem.bytes 0x100000 12800) [] :=
  restore_begins (by decide) rfl (by decide) (by decide) stored_ok (by decide +kernel) rfl (by decide) (by decide) (by decide +kernel)
theorem natBytes_length (n v : Nat) : (natBytes n v).length = n := by
  induction n generalizing v with
  | zero => rfl
  | succ n ih => simp [natBytes, ih]
theorem padTo_length (n : Nat) (bs : List Byte) : (padTo n bs).length = n := by
  simp [padTo, zeros]; omega
theorem sum_const {α : Type} (l : List α) (n : Nat) : (l.map fun _ => n).sum = l.length * n := by
  induction l with
  | nil => simp
  | cons a l ih => rw [List.map_cons, List.sum_cons, ih, List.length_cons, Nat.succ_mul, Nat.add_comm]
theorem saving_free : saving.poolFree 0 (saving.recordOf ⟨0, 0⟩ 1).length = some 0 := by
  have l : (saving.recordOf ⟨0, 0⟩ 1).length = 12800 := by
    have a : (saving.ctx ⟨0, 0⟩).line = [] := by decide
    have b : saving.ctxCmds ⟨0, 0⟩ = [] := by decide
    have c : saving.closedGates ⟨0, 0⟩ = [] := by decide
    have d : (List.range 8).filter (fun t => ((saving.core 0).tileOwner t).owner == some 0) = [] := by decide
    have e : (List.range 64).filter (fun t => ((saving.core 0).slotOwner t).owner == some 0) = [] := by decide
    unfold State.recordOf
    simp only [a, b, c, d, e, List.flatMap_nil, List.filterMap_nil, List.flatten_nil, List.append_nil, List.length_append,
      natBytes_length, padTo_length, Bank.image, words8, word8, zeros, List.length_replicate, List.length_flatMap, sum_const,
      List.length_range, List.length_nil, List.length_cons, Quire.image]
  unfold State.poolFree
  rw [l]
  decide
theorem saving_alone : saving.closedGates ⟨0, 0⟩ = [] := by decide
/-- A save that waits for a remote write in its queue. -/
theorem witness_RecordsAndRestores_waits : (saving.modCtx ⟨0, 0⟩ fun c => { c with rwq := [queuedWrite] }).saveReady ⟨0, 0⟩ = false ∧
    ((saving.modCtx ⟨0, 0⟩ fun c => { c with rwq := [queuedWrite] }).ctx ⟨0, 0⟩).saving = some 1 ∧ stored.booted = true ∧
    saving.storeMembers ⟨0, 0⟩ (saving.closedGates ⟨0, 0⟩) = saving := by decide +kernel
theorem witness_RecordsAndRestores : (homeOf 0x100000).isDram = true ∧
    (saving.ctx ⟨0, 0⟩).task = some placedTask ∧ (saving.ctx ⟨0, 0⟩).saving = some 1 ∧ saving.saveReady ⟨0, 0⟩ = true ∧
    saving.poolFree 0 (saving.recordOf ⟨0, 0⟩ 1).length = some 0 ∧
    (saving.setBlockReg 0x1C0 0).poolFree 0
      ((saving.setBlockReg 0x1C0 0).recordOf ⟨0, 0⟩ 1).length = none ∧
    stored.restoreMove (asked 0 false) = .refuse refEntry ∧
    stored.restoreMove (asked 0x100000 false) = .begin_ savedTask ⟨[], 12800, 12800, 12800, 12800⟩ (stored.mem.bytes 0x100000 12800) [] ∧
    stored.restoreMove (asked 0x100000 true) = .finish savedTask :=
  ⟨by decide, by decide, by decide, by decide, saving_free, by unfold State.poolFree; split <;> rfl, by decide, stored_begins, by decide⟩

/-- Context 0 on the stage and context 1 able to run, with a request that has stood for PLAT, and a gang schedule whose
first boundary has passed. -/
def sharingStage : State :=
  { State.reset with
    cores := [(0, { coreOf (small [] []) with ctxs := [(0, { small [] [] with req := { Requests.reset with tenant := some 0 } }), (1, small [] [])] })]
    gang := some { gt0 := 0, glen := 1600000, sets := [0], at_ := 0 } }
theorem witness_SlicesAndKills : sharingStage.sliceOut ⟨0, 0⟩ = true ∧ (sharingStage.ctx ⟨0, 0⟩).task = some placedTask ∧
    sharingStage.platOut ⟨0, 0⟩ = true ∧
    ({ gt0 := 0, glen := 1600000, sets := [0], at_ := 0 } : Gang).at_ < Gang.passed { gt0 := 0, glen := 1600000, sets := [0], at_ := 0 }
      sharingStage.reference ∧
    ({ gt0 := 1, glen := 1600000, sets := [0], at_ := 0 } : Gang).passed 0 = 0 ∧
    (∀ n ∈ [0, 1], (sharingStage.ctx ⟨0, n⟩).task.isSome = true ∧ (sharingStage.ctx ⟨0, n⟩).starting = false ∧
      (sharingStage.ctx ⟨0, n⟩).ending = false ∧ (sharingStage.ctx ⟨0, n⟩).saving = none) := by decide

/-- A module whose port 0 is up, with an owner. -/
def portUp (owner : Option Nat) : State :=
  let s := (stocked []).setBlockReg 0x008 1
  { s with cores := [], ports := [(0, { Port.reset with link := some .cxl })], mod := { s.mod with owner := owner } }
theorem witness_HostPorts : (∃ t, exec (.epochWrite 0 5) (portUp (some 0)) = .next t) ∧
    (∃ t, exec (.restoreRequest 0 5) (portUp (some 1)) = .next t) ∧ (∀ o ∈ [none, some 0, some 1], (portUp o).portUp 0 = true) ∧
    (portUp none).mod.owner = none ∧ (portUp (some 0)).mod.owner = some 0 ∧ (portUp (some 1)).mod.owner ≠ some 0 ∧
    (portUp (some 1)).mod.ownedAt ≠ some (portUp (some 1)).fabric ∧
    (let s := { portUp (some 1) with mod := { (portUp (some 1)).mod with ownedAt := some 0 } };
      s.mod.owner = some (1 - 0) ∧ s.mod.ownedAt = some s.fabric) ∧
    ((portUp none).blockReg 0x008).getLsbD 0 = true ∧
    (((portUp none).setBlockReg 0x008 0).blockReg 0x008).getLsbD 0 = false ∧ (0xFFFFFFFFFFFFFFC0 : Word).toNat % 64 = 0 ∧
    (∀ k ∈ (portUp none).cores, ∀ c ∈ k.2.ctxs, c.2.loaded = false) ∧ (0x0FFF000F : Word) &&& ~~~0x0FFF000F#64 = 0 ∧
    1600000 ≤ (1600000 : Word).toNat ∧ (4096 : Word).toNat % 4096 = 0 ∧ 0xFF8 % 8 = 0 ∧ 0xFF8 < 0x1000 ∧
    (portUp none).booted = true ∧ paModule 0x20000FFF = (portUp none).mod.number ∧ (homeOf 0x20000FFF).isDram = true ∧
    splitRange 0x20000FFF [(1 : Byte)].length = [(0x20000FFF, [(1 : Byte)].length)] ∧ (portUp none).reliefAt (.phys 0x20000FFF) = 0 ∧
    ({ portUp none with relief := [(0x20000, 2)] } : State).reliefAt (.phys 0x20000FFF) = 2 :=
  ⟨⟨_, rfl⟩, ⟨_, rfl⟩, by decide⟩

/-- An owner, a dispatched node with its task on core 0, and a slice length of 100 microseconds. -/
def owning : State :=
  { portUp (some 0) with
    cores := [(0, coreOf { small [] [] with task := some { placedTask with node := 3 } })]
    nodes := [{ nodeAt 3 0 0x1000 7 with dispatched := true }] }
theorem witness_OwnerRequests : owning.portUp 0 = true ∧ owning.mod.owner = some 0 ∧ (0x7F : Word).toNat / 2 ^ 13 = 0 ∧
    (0x7F : Word).getLsbD 6 = true ∧ (owning.blockReg 0x250).getLsbD 7 = false ∧
    (∀ v ∈ [0x101, 0x100], v / 2 % 8 = 0 ∧ v / 2 ^ 9 = 0 ∧ v / 16 ≤ 16 ∧ v / 16 ≠ 0) ∧ (0x101 : Word).toNat = 0x101 ∧
    (0x100 : Word).toNat = 0x100 ∧
    (0x101 : Word).getLsbD 0 = true ∧ (0x100 : Word).getLsbD 0 = false ∧ owning.mer.xmesh = false ∧
    1600000 ≤ ((owning.setBlockReg 0x260 1600000).blockReg 0x260).toNat ∧
    (0x10 : Word).toNat / 2 ^ 6 % 2 ^ 26 = 0 ∧ (owning.blockReg 0x308).getLsbD 5 = false ∧ (0x10 : Word).getLsbD 4 = true ∧
    (owning.setBlockReg 0x300 0x40).suspendTarget 0 0x40 0 = some ⟨0, 0⟩ ∧ owning.suspendTarget 0 0 0 = none ∧
    (0x1F : Word).toNat / 2 ^ 6 = 0 ∧ (owning.blockReg 0x318).getLsbD 5 = false ∧ (0x1F : Word).getLsbD 4 = true := by decide

def ringing : State :=
  { State.reset with
    mod := { State.reset.mod with busyUntil := [(0x308, [1])], block := [(0x018, 1)] }
    ports := [(0, { Port.reset with
        link := some .pcie, esize := 64, discarded := 3
        writes := [{ pa := 0x80000000000, bytes := [1], event := true, cmd := none }] })]
    invals := [{ id := 1, ctx := some ⟨0, 0⟩, host := false, tenant := 0, size := 0, va := 0, src := 0, todo := [27], owing := [0], flying := [] },
      { id := 2, ctx := some ⟨0, 0⟩, host := false, tenant := 0, size := 3, va := 0, src := 0, todo := [], owing := [], flying := [27] }]
    msgs := [{ id := 3, src := 0, dst := dieSrc 27, sent := true, delay := 0, ready := 0, msg := .inval 1 27 },
      { id := 4, src := dieSrc 27, dst := 0, sent := true, delay := 0, ready := 0, msg := .ack 2 27 }] }
theorem witness_RingsAndInvalidations : ringing.portUp 0 = true ∧ (ringing.port 0).writes ≠ [] ∧ (ringing.port 0).held = [] ∧
    (ringing.port 0).discarded ≠ 0 ∧ (ringing.port 0).hasSpace 0 = true ∧
    (∀ v ∈ ringing.invals, ringing.invals.find? (·.id == v.id) = some v) ∧
    (∃ w ws, (ringing.port 0).writes = w :: ws ∧ w.event = true ∧ (0x308, w.bytes) ∈ ringing.mod.busyUntil) ∧
    (∃ v ∈ ringing.invals, 27 ∈ v.todo ∧ 0 ∈ v.owing ∧ ringing.unitsWait v 0 = false) ∧
    (∃ v ∈ ringing.invals, v.flying = [27] ∧ v.todo = [] ∧ v.owing = [] ∧ v.ctx = some ⟨0, 0⟩) ∧
    (∀ x ∈ [Msg.inval 1 27, .ack 2 27], ∃ m ∈ ringing.msgs, ringing.carrierOf x = some m ∧ ringing.messageReady m = true) ∧
    (ringing.booted = true ∧ (0x7F : Word).toNat / 2 ^ 13 = 0 ∧ (portUp none).booted = true ∧ (0x7F : Word).getLsbD 6 = true ∧ ((portUp none).blockReg 0x250).getLsbD 7 = false) :=
  ⟨by decide, by decide, by decide, by decide, by decide, by decide, ⟨_, _, rfl, by decide⟩, by decide, by decide, by decide, by decide⟩

/-- The images that the boot of each I/O die verifies, a host memory with something written from CFGADDR on, and a link whose
policy expects module 1. -/
def configured : BootInput := { firmware := [some 2, some 3, some 2, some 9] }
def imaged : State := { State.reset.setBlockReg 0x010 0x80000000000 with mem := [(0x80000000001, 1)] }
def linked : State := { stocked [] with links := [(5, { Link.reset with expect := some 1 })] }
theorem witness_BringUpAndLinks : linked.booted = true ∧ bootRuns configured 2 = true ∧ bootRuns configured 3 = false ∧
    (homeOf (imaged.blockReg 0x010).toNat).isHost = true ∧
    (∃ x ∈ imaged.mem, (imaged.blockReg 0x010).toNat ≤ x.1 ∧ (homeOf x.1).isHost = true) ∧
    (homeOf (State.reset.blockReg 0x010).toNat).isHost = false ∧
    (∀ x ∈ (State.reset.setBlockReg 0x010 0x80000000000).mem, x.1 ≠ 0x80000000000) ∧
    (Sparse.get Link.reset linked.links 5).expect = some 1 ∧ 1 ≠ linked.mod.number := by decide

/-- A locked reference with a holdover that has stood for ten seconds, an epoch, and a counter at its greatest value. -/
def timed : State :=
  { State.reset.setBlockReg 0x018 1 with
    now := 10 * 1880000000 * Config.fabricPeriod
    mer := { Meridian.reset with acc := accMax, held := false, lock := true, hold := true, holdAt := some 0, epoch := some 5 } }
theorem witness_MeridianDiscipline : timed.booted = true ∧ timed.mer.lock = true ∧ timed.mer.holdAt = some 0 ∧
    0 + 10 * 1880000000 * Config.fabricPeriod ≤ timed.now ∧ timed.mer.epoch = some 5 ∧ (timed.die 27).stopped = none ∧
    timed.dieTime 27 = 2 ^ 64 - 1 ∧ (nominalStep : Int) - nominalStep / 10000 ≤ nominalStep ∧
    (nominalStep : Int) ≤ nominalStep + nominalStep / 10000 ∧ (portUp none).ptpHeard = true ∧ timed.mer.acc ≤ accMax ∧
    State.reset.mer.held = true ∧ State.reset.mer.acc = 0 := by decide
/-- A step asked for, the link that leaves die 0 eastward with slots 31 and 59 reserved, and a link off the mesh. -/
def narrowing (slot : Nat) : State :=
  { State.reset.setBlockReg 0x018 1 with
    dies := [(0, { Die.reset with asked := [1, 2, 3] })], reserved := [{ owner := 1, coll := none, flow := 0, inj := true, link := 28, slot := slot }] }
/-- In the second microsecond, with that narrowing asked for in the first and an arbitration already made. -/
def judged (slot : Nat) : State :=
  { narrowing slot with
    dies := [], narrowAsked := [(28, 0)], mer := { Meridian.reset with acc := 16000 * 2 ^ 32, held := false }
    mod := { State.reset.mod with granted := 2, block := [(0x018, 1)] } }
/-- Tile 0 and region 1 of core 0 are being cleared, for four core cycles more, as its die goes to another step. -/
def clearingOn : State :=
  { narrowing 31 with
    cores := [(0, { Core.reset with
      tileOwn := [(0, { ours with clearing := true, ends := 4 * Config.corePeriod 0 })]
      regions := [(1, { Region.reset with zeroing := true, ends := 4 * Config.corePeriod 0 })] })] }
theorem witness_PowerSteps_clearing : (clearingOn.die 0).asked ≠ [] ∧ (clearingOn.die 0).step = 0 ∧
    (clearingOn.die 0).asked.getLastD 0 = 3 ∧ dieOf 0 = 0 ∧ (holderOf (clearingOn.core 0) true 0).clearing = true ∧
    (holderOf (clearingOn.core 0) true 0).ends = clearingOn.now + 4 * Config.corePeriod 0 ∧
    ((clearingOn.core 0).region 1).zeroing = true ∧
    ((clearingOn.core 0).region 1).ends = clearingOn.now + 4 * Config.corePeriod 0 := by decide
theorem witness_PowerSteps : ((narrowing 31).die 0).asked ≠ [] ∧ ((narrowing 31).die 0).wanted = 3 ∧ ((narrowing 31).die 1).wanted < 3 ∧
    (narrowing 31).booted = true ∧ (judged 31).booted = true ∧ (stocked []).booted = true ∧ (stocked []).mod.granted ≤ (stocked []).micros ∧ (judged 31).micros < (judged 31).mod.granted ∧
    (judged 31).narrowAsked = [(28, 0)] ∧ 0 < (judged 31).micros ∧ ((judged 31).die (dieOf 7)).asked = [] ∧
    ((judged 31).die (dieOf 8)).asked = [] ∧ (∀ x ∈ (narrowing 31).narrowAsked, x.1 ≠ 28) ∧
    oppositeLink 28 = some 33 ∧ 28 / 4 < 768 ∧ dieOf (28 / 4) ≠ dieOf (33 / 4) ∧
    (∀ x ∈ (judged 31).reserved, x.link = 28 ∨ x.link = 33 → x.slot < 32) ∧
    (∃ x ∈ (judged 59).reserved, (x.link = 28 ∨ x.link = 33) ∧ 32 ≤ x.slot) ∧ oppositeLink 1 = none := by decide
theorem witness_MemoryReadsBack : State.reset.Canonical ∧ (∃ t, step State.reset = .next t) :=
  ⟨State.reset_canonical, ⟨_, rfl⟩⟩
theorem witness_MemoryReadsBack_memories : State.reset.mem.wf = true ∧ (Memory.store [] 5 [1, 0, 2]).wf = true ∧
    (Memory.store [] 5 [1, 0, 2]) = [(5, 1), (7, 2)] := by decide

end Sys2Proof.Tests
end

section
/-! PROOF. Branches of class C (R64, R95 to R105): their targets and checks in the terms of the statements. -/
namespace Sys2Proof.Machine

/-! ### Targets, alignment and conditions -/

/-- The byte distance of a branch is 8 times its signed offset, wrapping at 64 bits (R66). -/
theorem targetOf_eq (at_ : Word) {w : Nat} (off : BitVec w) :
    targetOf at_ off = at_ + BitVec.ofInt 64 (8 * off.toInt) := by
  have h : off.signExtend 64 = BitVec.ofInt 64 off.toInt := rfl
  rw [targetOf, h, Int.mul_comm 8 off.toInt, BitVec.ofInt_mul]
  rfl

/-- The low three bits of a word are its remainder by 8. -/
theorem and_seven_eq_zero_iff (w : Word) : w &&& 7 = 0 ↔ w.toNat % 8 = 0 := by
  have hlow : (w &&& 7).toNat = w.toNat % 8 := (BitVec.toNat_and w 7).trans (Nat.and_two_pow_sub_one_eq_mod w.toNat 3)
  rw [← BitVec.toNat_inj, hlow]
  rfl

theorem trapIf_aligned {w a : Word} {c : Nat} (h : w.toNat % 8 = 0) : trapIf (w &&& 7 != 0) c a = .ok :=
  trapIf_ok (by simpa using (and_seven_eq_zero_iff w).mpr h)
theorem trapIf_misaligned {w a : Word} {c : Nat} (h : w.toNat % 8 ≠ 0) :
    trapIf (w &&& 7 != 0) c a = .trap (Trap.plain c a) := by
  have hw : (w &&& 7 != 0) = true := by simpa using mt (and_seven_eq_zero_iff w).mp h
  rw [hw, trapIf_true]

/-- The word of bytes is their number (R4), taken modulo 2^64. -/
theorem wordOfBytes_eq_ofNat (bs : List Byte) : wordOfBytes bs = BitVec.ofNat 64 (leNat bs) := by
  induction bs with
  | nil => rfl
  | cons b bs ih =>
    have hdisjoint : (wordOfBytes bs <<< 8) &&& b.setWidth 64 = 0#64 := by
      ext i hi
      rcases Nat.lt_or_ge i 8 with h | h
      · simp [h]
      · simp [BitVec.getLsbD_of_ge b i h]
    rw [wordOfBytes, ← BitVec.add_eq_or_of_and_eq_zero _ _ hdisjoint, ih]
    apply BitVec.eq_of_toNat_eq
    simp [leNat, Nat.shiftLeft_eq]
    omega

/-- The codes of R64 mean what the statements say of them. -/
theorem condWord_iff (code : Nat) (a b : Word) : condWord code a b = true ↔ CondHolds code a b := by
  unfold condWord CondHolds
  split <;> simp_all [BitVec.slt_iff_toInt_lt, BitVec.sle_iff_toInt_le, BitVec.ult, BitVec.ule]

theorem brcHolds_iff (f : FmtJ) (c : Ctx) :
    brcHolds f c = true ↔ CondHolds (f.jhi.toNat / 2 ^ 13) (c.x f.ja.toNat) (c.x f.jb.toNat) := by
  have hcode : (f.jhi.extractLsb' 13 5).toNat = f.jhi.toNat / 2 ^ 13 := by
    rw [BitVec.extractLsb'_toNat, Nat.shiftRight_eq_div_pow]
    omega
  rw [brcHolds, condWord_iff, hcode]

/-! ### Checks -/

/-- A word by itself that goes and whose check is a trap takes it. -/
theorem Goes.traps {i : Instr} {g : Guard} {s : State} {check : Verdict} {t : Trap} {perform : State → State}
    (h : Goes i g s) (hk : s.iss.checked = false) (hc : check = .trap t) :
    issue i g s check perform = .next (s.takeTrap s.cur t s.me.at_) := by
  obtain ⟨hg, ha⟩ := h
  rw [hc]
  exact issue_traps hk (ha.resolve_left (by simp [hk])) hg

/-- BRM accepts a mask of zeros and a mask of ones. -/
theorem checkBrm_uniform {f : FmtJ} {s : State}
    (h : s.me.mr f.ja.toNat = 0 ∨ s.me.mr f.ja.toNat = BitVec.allOnes 128) : checkBrm f s = .ok :=
  trapIf_ok (by rcases h with h | h <;> simp [h])
theorem checkBrm_mixed {f : FmtJ} {s : State} (h0 : s.me.mr f.ja.toNat ≠ 0)
    (h1 : s.me.mr f.ja.toNat ≠ BitVec.allOnes 128) :
    checkBrm f s = .trap (Trap.plain causeNUNI (f.ja.setWidth 64)) := by
  have hm : (s.me.mr f.ja.toNat != 0 && s.me.mr f.ja.toNat != BitVec.allOnes 128) = true := by
    simpa using And.intro h0 h1
  rw [checkBrm, hm, trapIf_true]
theorem checkBrt_aligned {f : FmtJ} {s : State} (h : (s.me.b f.ja.toNat).toNat % 8 = 0) : checkBrt f s = .ok :=
  trapIf_aligned h
theorem checkBrt_misaligned {f : FmtJ} {s : State} (h : (s.me.b f.ja.toNat).toNat % 8 ≠ 0) :
    checkBrt f s = .trap (Trap.plain causeALIGN (s.me.b f.ja.toNat)) :=
  trapIf_misaligned h

/-- The checks of JTB pass on an index in the table, an aligned table whose entry the context owns, and an aligned
target (R104). -/
theorem checkJtb_ok {f : FmtJ} {s : State} (hi : (s.me.x f.ja.toNat).toNat < f.jhi.toNat)
    (hb : (s.me.a f.jb.toNat).toNat % 8 = 0) (ho : OwnScratch s (jtbEntry f s.me).toNat 8)
    (ht : (jtbTarget f s).toNat % 8 = 0) : checkJtb f s = .ok := by
  have hin : inScratch (jtbEntry f s.me).toNat 8 = true := by simpa [inScratch] using ho.1
  have hregion : (s.core s.cur.core).regionCheck s.cur.ctx [((jtbEntry f s.me).toNat, 8)] = .ok := ho.check
  simp only [checkJtb, trapIf_ok (decide_eq_false (Nat.not_le_of_lt hi)), trapIf_aligned hb, hin, hregion, trapIf_aligned ht,
    Bool.not_true, trapIf_false, Verdict.ok_andThen]
theorem checkJtb_bound {f : FmtJ} {s : State} (hi : f.jhi.toNat ≤ (s.me.x f.ja.toNat).toNat) :
    checkJtb f s = .trap (Trap.plain causeJBND (s.me.x f.ja.toNat)) := by
  simp only [checkJtb, hi, decide_true, trapIf_true, Verdict.trap_andThen]

/-! ### What each branch answers -/

theorem exec_br_goes {g : Guard} {f : FmtJ} {s : State} (h : Goes (.br g f) g s) :
    exec (.br g f) s = .next (s.branch (s.me.at_ + BitVec.ofInt 64 (8 * (f.jhi ++ f.jlo).toInt)) 3) := by
  rw [exec_br, execBr, issue_goes h rfl, doBr, targetOf_eq, joff]

/-- BRC branches exactly where its condition holds. -/
theorem exec_brc_goes {g : Guard} {f : FmtJ} {s : State} (h : Goes (.brc g f) g s) {taken : Bool}
    (ht : taken = true ↔ CondHolds (f.jhi.toNat / 2 ^ 13) (s.me.x f.ja.toNat) (s.me.x f.jb.toNat)) :
    exec (.brc g f) s = .next (if taken then
      s.branch (s.me.at_ + BitVec.ofInt 64 (8 * (f.jhi.setWidth 13 ++ f.jlo).toInt)) 3 else s) := by
  have htaken : brcHolds f s.me = taken := Bool.eq_iff_iff.mpr ((brcHolds_iff f s.me).trans ht.symm)
  have hoff : f.jhi.extractLsb' 0 13 = f.jhi.setWidth 13 := BitVec.setWidth_eq_extractLsb' (by decide) |>.symm
  rw [exec_brc, execBrc, issue_goes h rfl, doBrc, htaken, targetOf_eq, hoff]

theorem exec_brm_zeros {g : Guard} {f : FmtJ} {s : State} (h : Goes (.brm g f) g s) (hm : s.me.mr f.ja.toNat = 0) :
    exec (.brm g f) s = .next s := by
  rw [exec_brm, execBrm, issue_goes h (checkBrm_uniform (.inl hm)), doBrm, hm]
  rfl
theorem exec_brm_ones {g : Guard} {f : FmtJ} {s : State} (h : Goes (.brm g f) g s)
    (hm : s.me.mr f.ja.toNat = BitVec.allOnes 128) : exec (.brm g f) s =
      .next (s.branch (s.me.at_ + BitVec.ofInt 64 (8 * (f.jhi ++ f.jlo).toInt)) 3) := by
  have hne : (BitVec.allOnes 128 == 0) = false := by decide
  rw [exec_brm, execBrm, issue_goes h (checkBrm_uniform (.inr hm)), doBrm, hm, hne, targetOf_eq, joff]
  rfl
theorem exec_brm_mixed {g : Guard} {f : FmtJ} {s : State} (h : Goes (.brm g f) g s) (hk : s.iss.checked = false)
    (h0 : s.me.mr f.ja.toNat ≠ 0) (h1 : s.me.mr f.ja.toNat ≠ BitVec.allOnes 128) :
    exec (.brm g f) s = .next (s.takeTrap s.cur (Trap.plain causeNUNI (f.ja.setWidth 64)) s.me.at_) := by
  rw [exec_brm, execBrm, h.traps hk (checkBrm_mixed h0 h1)]

/-- PBR counts from a[JB] or from its group, by JA[5], and writes b[JA[1:0]] (R101). -/
theorem exec_pbr_goes {g : Guard} {f : FmtJ} {s : State} (h : Goes (.pbr g f) g s) :
    exec (.pbr g f) s = .next ((s.put 1 (.b (f.ja.toNat % 4)
      ((if f.ja.getLsbD 5 then s.me.a f.jb.toNat else s.me.at_) + BitVec.ofInt 64 (8 * (f.jhi ++ f.jlo).toInt)))
      Flags.none).setMe fun c => c.markB (f.ja.toNat % 4)) := by
  have hreg : pbrReg f = f.ja.toNat % 4 := by simp [pbrReg, BitVec.extractLsb'_toNat]
  rw [exec_pbr, execPbr, issue_goes h rfl, doPbr, hreg, pbrValue, targetOf_eq, joff]
theorem exec_call_goes {g : Guard} {f : FmtJ} {s : State} (h : Goes (.call g f) g s) :
    exec (.call g f) s = .next (((s.put 1 (.b f.ja.toNat s.nextGroup) Flags.none).setMe fun c =>
      c.markB f.ja.toNat).branch (s.me.at_ + BitVec.ofInt 64 (8 * (f.jhi ++ f.jlo).toInt)) 3) := by
  rw [exec_call, execCall, issue_goes h rfl, doCall, targetOf_eq, joff]

/-- BRT and RET are one operation: each is issued with the check and the branch of BRT (R102). -/
theorem exec_brt_or_ret {i : Guard → FmtJ → Instr} (hi : i ∈ [Instr.brt, .ret]) (g : Guard) (f : FmtJ) (s : State) :
    exec (i g f) s = issue (i g f) g s (checkBrt f s) (doBrt f) := by
  simp only [List.mem_cons, List.not_mem_nil, or_false] at hi
  rcases hi with rfl | rfl <;> rfl
theorem exec_brt_aligned {i : Guard → FmtJ → Instr} (hi : i ∈ [Instr.brt, .ret]) {g : Guard} {f : FmtJ} {s : State}
    (h : Goes (i g f) g s) (hb : (s.me.b f.ja.toNat).toNat % 8 = 0) :
    exec (i g f) s = .next (s.branch (s.me.b f.ja.toNat) (4 - s.me.sinceB f.ja.toNat)) := by
  rw [exec_brt_or_ret hi, issue_goes h (checkBrt_aligned hb), doBrt]
theorem exec_brt_misaligned {i : Guard → FmtJ → Instr} (hi : i ∈ [Instr.brt, .ret]) {g : Guard} {f : FmtJ} {s : State}
    (h : Goes (i g f) g s) (hk : s.iss.checked = false) (hb : (s.me.b f.ja.toNat).toNat % 8 ≠ 0) :
    exec (i g f) s = .next (s.takeTrap s.cur (Trap.plain causeALIGN (s.me.b f.ja.toNat)) s.me.at_) := by
  rw [exec_brt_or_ret hi, h.traps hk (checkBrt_misaligned hb)]

theorem exec_jtb_goes {g : Guard} {f : FmtJ} {s : State} (h : Goes (.jtb g f) g s) (hc : checkJtb f s = .ok) :
    exec (.jtb g f) s = .next (doJtb f s) := by
  rw [exec_jtb, execJtb, issue_goes h hc]
theorem exec_jtb_bound {g : Guard} {f : FmtJ} {s : State} (h : Goes (.jtb g f) g s) (hk : s.iss.checked = false)
    (hi : f.jhi.toNat ≤ (s.me.x f.ja.toNat).toNat) :
    exec (.jtb g f) s = .next (s.takeTrap s.cur (Trap.plain causeJBND (s.me.x f.ja.toNat)) s.me.at_) := by
  rw [exec_jtb, execJtb, h.traps hk (checkJtb_bound hi)]

/-- Settles O34: each clause is what its branch answers; JTB's target is the number of the entry's bytes. -/
theorem branchInstructions : Obligations.BranchInstructions := by
  unfold Obligations.BranchInstructions
  refine ⟨fun g f s => ⟨exec_br_goes, fun h _ => exec_brc_goes h, exec_brm_zeros, exec_brm_ones, exec_brm_mixed⟩,
    fun g f s => ⟨?_, exec_call_goes, ?_⟩, ?_⟩
  · rintro h _ rfl
    exact exec_pbr_goes h
  · rintro i hi h _ rfl
    exact ⟨exec_brt_aligned hi h, fun hb hk => exec_brt_misaligned hi h hk hb⟩
  · rintro g f s _ _ _ t h rfl rfl rfl ht
    have htarget : jtbTarget f s = t := (wordOfBytes_eq_ofNat _).trans ht.symm
    refine ⟨fun hi hb ho ha => ?_, exec_jtb_bound h⟩
    have hc : checkJtb f s = .ok := checkJtb_ok hi hb ho (htarget ▸ ha)
    exact ⟨doJtb f s, exec_jtb_goes h hc, congrArg some htarget, rfl, rfl, rfl, rfl, rfl, rfl, rfl⟩

end Sys2Proof.Machine
end

section
/-! PROOF. Class I of sums, products, logic, immediates and system registers (R126 to R139): its values in the terms of
the statements, and what its words answer. -/
namespace Sys2Proof.Machine

/-! ### Sums and products (R130) -/

theorem add_eq_ofInt (a b : Word) : a + b = BitVec.ofInt 64 (a.toInt + b.toInt) :=
  BitVec.eq_of_toInt_eq (by rw [BitVec.toInt_add, BitVec.toInt_ofInt])
theorem sub_eq_ofInt (a b : Word) : a - b = BitVec.ofInt 64 (a.toInt - b.toInt) :=
  BitVec.eq_of_toInt_eq (by rw [BitVec.toInt_sub, BitVec.toInt_ofInt])
theorem mul_eq_ofInt (a b : Word) : a * b = BitVec.ofInt 64 (a.toInt * b.toInt) :=
  BitVec.eq_of_toInt_eq (by rw [BitVec.toInt_mul, BitVec.toInt_ofInt])

/-- The high half of a 128-bit word is its number divided by 2^64. -/
theorem extract_high_ofInt (z : Int) : (BitVec.ofInt 128 z).extractLsb' 64 64 = BitVec.ofInt 64 (z / 2 ^ 64) := by
  apply BitVec.eq_of_toNat_eq
  simp only [BitVec.extractLsb'_toNat, BitVec.toNat_ofInt, Nat.shiftRight_eq_div_pow]
  omega
theorem mulhS_eq_extract (a b : Word) :
    mulhS a b = (a.signExtend 128 * b.signExtend 128).extractLsb' 64 64 := by
  have hproduct : a.signExtend 128 * b.signExtend 128 = BitVec.ofInt 128 (a.toInt * b.toInt) :=
    (BitVec.ofInt_mul a.toInt b.toInt).symm
  rw [hproduct, extract_high_ofInt, mulhS, Int.fdiv_eq_ediv_of_nonneg _ (by decide)]
theorem mulhU_eq_extract (a b : Word) :
    mulhU a b = (a.setWidth 128 * b.setWidth 128).extractLsb' 64 64 := by
  have hproduct : a.setWidth 128 * b.setWidth 128 = BitVec.ofInt 128 (a.toNat * b.toNat : Nat) := by
    rw [BitVec.ofInt_natCast, BitVec.ofNat_mul, BitVec.ofNat_toNat, BitVec.ofNat_toNat]
  rw [hproduct, extract_high_ofInt, mulhU, ← BitVec.ofInt_natCast]
  rfl

/-! ### Shifts by the full amount (R132) -/

theorem shlWord_eq_ofNat (a n : Word) : shlWord a n = BitVec.ofNat 64 (a.toNat * 2 ^ n.toNat) := by
  have hshift : shlWord a n = a <<< n.toNat := by
    unfold shlWord
    split
    next h => exact (BitVec.shiftLeft_eq_zero h).symm
    next => rfl
  apply BitVec.eq_of_toNat_eq
  rw [hshift, BitVec.toNat_shiftLeft, BitVec.toNat_ofNat, Nat.shiftLeft_eq]
theorem shrWord_eq_ofNat (a n : Word) : shrWord a n = BitVec.ofNat 64 (a.toNat / 2 ^ n.toNat) := by
  have hshift : shrWord a n = a >>> n.toNat := by
    unfold shrWord
    split
    next h => exact (BitVec.ushiftRight_eq_zero h).symm
    next => rfl
  rw [hshift, ← Nat.shiftRight_eq_div_pow, ← BitVec.toNat_ushiftRight, BitVec.ofNat_toNat, BitVec.setWidth_eq]
theorem sraWord_eq_ofInt (a n : Word) : sraWord a n = BitVec.ofInt 64 (a.toInt / 2 ^ n.toNat) := by
  have hshift : sraWord a n = a.sshiftRight n.toNat := by
    unfold sraWord
    split
    next h =>
      have hsign : a.getLsbD 63 = a.msb := a.msb_eq_getLsbD_last.symm
      cases hm : a.msb
      case false =>
        rw [hsign, hm, BitVec.sshiftRight_eq_of_msb_false hm, BitVec.ushiftRight_eq_zero h]
        rfl
      case true =>
        rw [hsign, hm, BitVec.sshiftRight_eq_of_msb_true hm, BitVec.ushiftRight_eq_zero h]
        rfl
    next => rfl
  rw [hshift, BitVec.sshiftRight, Int.shiftRight_eq_div_pow]
  rfl

/-! ### Immediates (R70, R73, R136) -/

/-- A word of the same integer is the sign extension. -/
theorem signExtend_eq_of_toInt {w : Nat} {imm : BitVec w} {k : Word} (h : k.toInt = imm.toInt) :
    imm.signExtend 64 = k := by
  rw [BitVec.signExtend, ← h, BitVec.ofInt_toInt]
/-- HI of MOVI keeps the low 39 bits and puts 25 bits of the immediate above them. -/
theorem hiWord_toNat (old : Word) (imm : BitVec 39) :
    (hiWord old imm).toNat = imm.toNat % 2 ^ 25 * 2 ^ 39 + old.toNat % 2 ^ 39 := by
  have hlow : (old &&& ((0x7FFFFFFFFF : Nat) : Word)).toNat = old.toNat % 2 ^ 39 :=
    (BitVec.toNat_and old _).trans (Nat.and_two_pow_sub_one_eq_mod old.toNat 39)
  have hhigh : ((imm.extractLsb' 0 25).setWidth 64 <<< 39).toNat = (imm.toNat % 2 ^ 25) <<< 39 := by
    simp only [BitVec.toNat_shiftLeft, BitVec.toNat_setWidth, BitVec.extractLsb'_toNat, Nat.shiftLeft_eq, Nat.shiftRight_zero]
    omega
  rw [hiWord, BitVec.toNat_or, hlow, hhigh, Nat.or_comm,
    ← Nat.shiftLeft_add_eq_or_of_lt (Nat.mod_lt _ (by decide)), Nat.shiftLeft_eq]

/-! ### What the words answer -/

section
variable {i : Instr} {g : Guard} {s : State} {op : Word → Word → Word}

/-- A word of two sources that sets no flag: op names its value. -/
theorem exec_twoSources {f : FmtA} {lat : Nat} {v : Word} (h : Goes i g s)
    (hi : exec i s = issue i g s .ok (putI2 lat f op)) (hv : op (s.me.srcA f) (s.me.srcB f) = v) :
    exec i s = .next (s.put lat (dstI f v) Flags.none) := by
  rw [hi, issue_goes h rfl, putI2, putI, hv]
/-- An immediate form: op names its value, k is its immediate as a word. -/
theorem exec_immediate {f : FmtB} {k v : Word} (h : Goes i g s) (hi : exec i s = issue i g s .ok (putImm f op))
    (hk : k.toInt = f.imm.toInt) (hv : op (s.me.x f.opa.toNat) k = v) :
    exec i s = .next (s.put 1 (.x f.dst.toNat v) Flags.none) := by
  rw [hi, issue_goes h rfl, putImm, imm34, signExtend_eq_of_toInt hk, hv]
end

theorem exec_mulh_signed {g : Guard} {f : FmtA} {s : State} (h : Goes (.mulh g f) g s) (hs : f.sub = 0) :
    exec (.mulh g f) s = .next (s.put 3 (dstI f
      ((((s.me.srcA f).signExtend 128) * ((s.me.srcB f).signExtend 128)).extractLsb' 64 64)) Flags.none) :=
  exec_twoSources h rfl (by simp only [hs, BEq.rfl, if_true, mulhS_eq_extract])
theorem exec_mulh_unsigned {g : Guard} {f : FmtA} {s : State} (h : Goes (.mulh g f) g s) (hs : f.sub = 1) :
    exec (.mulh g f) s = .next (s.put 3 (dstI f
      ((((s.me.srcA f).setWidth 128) * ((s.me.srcB f).setWidth 128)).extractLsb' 64 64)) Flags.none) := by
  have hne : (f.sub == 0) = false := by rw [hs]; decide
  exact exec_twoSources h rfl (by simp only [hne, Bool.false_eq_true, if_false, mulhU_eq_extract])

/-- Settles O26: each word puts one result of its two sources, and the value is the statement's. -/
theorem sumsProductsAndLogic : Obligations.SumsProductsAndLogic := by
  unfold Obligations.SumsProductsAndLogic
  refine fun g f s => ⟨?_, fun h => exec_twoSources h rfl (mul_eq_ofInt _ _), exec_mulh_signed, exec_mulh_unsigned⟩
  simp only [List.forall_mem_cons]
  refine ⟨?add, ?sub, ?and, ?or, ?xor, ?andn, List.forall_mem_nil _⟩
  case add => exact fun h => exec_twoSources h rfl (add_eq_ofInt _ _)
  case sub => exact fun h => exec_twoSources h rfl (sub_eq_ofInt _ _)
  case and => exact fun h => exec_twoSources h rfl rfl
  case or => exact fun h => exec_twoSources h rfl rfl
  case xor => exact fun h => exec_twoSources h rfl rfl
  case andn => exact fun h => exec_twoSources h rfl rfl

theorem exec_lea_goes {g : Guard} {f : FmtB} {s : State} {k : Word} (h : Goes (.lea g f) g s)
    (hk : k.toInt = f.imm.toInt) :
    exec (.lea g f) s = .next (s.put 1 (.a f.dst.toNat (s.me.a f.opa.toNat + k)) Flags.none) := by
  rw [exec_lea, execLea, issue_goes h rfl, doLea, imm34, signExtend_eq_of_toInt hk]
theorem exec_movi_goes {g : Guard} {f : FmtW} {s : State} {v : Word} (h : Goes (.movi g f) g s)
    (hv : v.toInt = f.imm.toInt) : exec (.movi g f) s = .next (s.put 1 (.x f.dst.toNat v) Flags.none) := by
  rw [exec_movi, execMovi, issue_goes h rfl, doMovi, signExtend_eq_of_toInt hv]
theorem exec_moviHi_goes {g : Guard} {f : FmtW} {s : State} {v : Word} (h : Goes (.moviHi g f) g s)
    (hv : v.toNat = f.imm.toNat % 2 ^ 25 * 2 ^ 39 + (s.me.x f.dst.toNat).toNat % 2 ^ 39) :
    exec (.moviHi g f) s = .next (s.put 1 (.x f.dst.toNat v) Flags.none) := by
  have hword : hiWord (s.me.x f.dst.toNat) f.imm = v := BitVec.eq_of_toNat_eq ((hiWord_toNat _ _).trans hv.symm)
  rw [exec_moviHi, execMoviHi, issue_goes h rfl, doMoviHi, hword]
theorem exec_mfs_goes {g : Guard} {f : FmtB} {s : State} (h : Goes (.mfs g f) g s) : exec (.mfs g f) s =
    .next (s.put 1 (.x f.dst.toNat (s.sysRead s.cur (sysIndex f))) Flags.none) := by
  rw [exec_mfs, execMfs, issue_goes h rfl, doMfs]
theorem exec_time_goes {g : Guard} {f : FmtA} {s : State} (h : Goes (.time g f) g s) : exec (.time g f) s =
    .next (s.put 1 (.x f.dst.toNat (BitVec.ofNat 64 (s.dieTime (dieOf s.cur.core)))) Flags.none) := by
  rw [exec_time, execTime, issue_goes h rfl, doTime, State.coreTime]
/-- The five rows of MTS issue one and the same write of their system register. -/
theorem exec_mts_row {i : Guard → FmtB → Instr}
    (hi : i ∈ [Instr.mts, .mtsSticky, .mtsPend, .regrelWrite, .tinvcStart]) (g : Guard) (f : FmtB) (s : State) :
    exec (i g f) s = issue (i g f) g s .ok (doMts f) := by
  simp only [List.mem_cons, List.not_mem_nil, or_false] at hi
  rcases hi with rfl | rfl | rfl | rfl | rfl <;> rfl

/-- Settles O30: the seven immediate forms put one result of x[OPA] and IMM34; the other words put theirs directly. -/
theorem immediatesAndSystemRegisters : Obligations.ImmediatesAndSystemRegisters := by
  unfold Obligations.ImmediatesAndSystemRegisters
  refine ⟨fun g s => ⟨?_, fun f v => ⟨exec_movi_goes, exec_moviHi_goes⟩⟩,
    fun g s => ⟨fun f => exec_mfs_goes, fun f => exec_time_goes, ?_⟩⟩
  · rintro f k _ hk rfl
    refine ⟨?_, fun h => exec_lea_goes h hk⟩
    simp only [List.forall_mem_cons]
    refine ⟨?addi, ?andi, ?ori, ?xori, ?shli, ?shri, ?srai, List.forall_mem_nil _⟩
    case addi => exact fun h => exec_immediate h rfl hk (add_eq_ofInt _ _)
    case andi => exact fun h => exec_immediate h rfl hk rfl
    case ori => exact fun h => exec_immediate h rfl hk rfl
    case xori => exact fun h => exec_immediate h rfl hk rfl
    case shli => exact fun h => exec_immediate h rfl hk (shlWord_eq_ofNat _ _)
    case shri => exact fun h => exec_immediate h rfl hk (shrWord_eq_ofNat _ _)
    case srai => exact fun h => exec_immediate h rfl hk (sraWord_eq_ofInt _ _)
  · intro f i hi h
    rw [exec_mts_row hi, issue_goes h rfl, doMts]

end Sys2Proof.Machine
end

section
/-! PROOF. Lanes of vectors (R140 to R142): reading a vector and byte enables made from lanes, the flags of a lane-wise
result, and the integers of lanes. -/
namespace Sys2Proof.Machine

/-! ### Widths of lanes -/

/-- The lane widths of the formats with a vector lane shape (R43). -/
def LaneWidth (w : Nat) : Prop := w = 8 ∨ w = 16 ∨ w = 32

theorem LaneWidth.lane_of_byte_lt {w j : Nat} (h : LaneWidth w) (hj : j < 128) : j / (w / 8) < 1024 / w := by
  rcases h with rfl | rfl | rfl <;> omega
theorem LaneWidth.byte_lt {w j : Nat} (h : LaneWidth w) (hj : j < 128) : j < w / 8 * (1024 / w) := by
  rcases h with rfl | rfl | rfl <;> omega
theorem lane_end_le {w n : Nat} (h : n < 1024 / w) : w * n + w ≤ 1024 := by
  have hmul : w * (n + 1) ≤ w * (1024 / w) := Nat.mul_le_mul_left w h
  exact Nat.le_trans hmul (Nat.mul_div_le 1024 w)

/-- The integer lane formats of R42: code, width and whether it is signed. -/
def intLaneFmts : List (BitVec 6 × Nat × Bool) :=
  [(0x10#6, 8, true), (0x11, 8, false), (0x12, 16, true), (0x13, 16, false), (0x14, 32, true), (0x15, 32, false)]

theorem intLaneFmts_spec {fmt : BitVec 6} {w : Nat} {signed : Bool} (h : (fmt, w, signed) ∈ intLaneFmts) :
    w = fmtWidth fmt ∧ signed = isSignedInt fmt ∧ LaneWidth w := by
  have hall : ∀ e ∈ intLaneFmts, e.2.1 = fmtWidth e.1 ∧ e.2.2 = isSignedInt e.1 ∧
      (e.2.1 = 8 ∨ e.2.1 = 16 ∨ e.2.1 = 32) := by decide
  exact hall _ h

/-! ### Vectors from lanes -/

theorem foldr_lanes_div (w : Nat) (xs : List Nat) (n : Nat) :
    xs.foldr (fun x acc => acc * 2 ^ w + x % 2 ^ w) 0 / 2 ^ (w * n) % 2 ^ w = xs.getD n 0 % 2 ^ w := by
  induction xs generalizing n with
  | nil => simp
  | cons x xs ih =>
    have hx : x % 2 ^ w < 2 ^ w := Nat.mod_lt x (Nat.two_pow_pos w)
    cases n with
    | zero => simp
    | succ n =>
      rw [Nat.mul_succ, Nat.add_comm, Nat.pow_add, ← Nat.div_div_eq_div_mul, List.foldr_cons, Nat.mul_comm,
        Nat.mul_add_div (Nat.two_pow_pos w), Nat.div_eq_of_lt hx, Nat.add_zero, ih, List.getD_cons_succ]

theorem laneAt_ofNat {w n : Nat} (x : Nat) (h : w * n + w ≤ 1024) :
    laneAt w (BitVec.ofNat 1024 x) n = x / 2 ^ (w * n) % 2 ^ w := by
  have hbits : (BitVec.ofNat 1024 x).extractLsb' (w * n) w = BitVec.ofNat w (x >>> (w * n)) := by
    apply BitVec.eq_of_getLsbD_eq
    intro i hi
    have hlt : w * n + i < 1024 := by omega
    simp only [BitVec.getLsbD_extractLsb', BitVec.getLsbD_ofNat, Nat.testBit_shiftRight, hlt, hi, decide_true, Bool.true_and]
  rw [laneAt, hbits, BitVec.toNat_ofNat, Nat.shiftRight_eq_div_pow]

/-- A vector made of lanes reads each of them back, modulo the width. -/
theorem laneAt_ofLanes {w n : Nat} {xs : List Nat} (h : w * n + w ≤ 1024) :
    laneAt w (ofLanes w xs) n = xs.getD n 0 % 2 ^ w := by
  rw [ofLanes, laneAt_ofNat _ h, foldr_lanes_div]

@[simp] theorem lane_mod (w : Nat) (v : BitVec 1024) (n : Nat) : lane w v n % 2 ^ w = lane w v n :=
  Nat.mod_eq_of_lt (BitVec.isLt _)

/-! ### Byte enables -/

/-- The number whose block i of b bits is all ones where block i is on and all zeros elsewhere, for i below n. -/
def blockMask (b : Nat) (on : Nat → Bool) (n : Nat) : Nat :=
  (List.range n).foldl (fun acc i => if on i then acc + (2 ^ b - 1) * 2 ^ (b * i) else acc) 0

theorem laneBytes_eq_ofNat (w : Nat) (on : Nat → Bool) :
    laneBytes w on = BitVec.ofNat 128 (blockMask (w / 8) on (1024 / w)) := rfl
theorem blockMask_succ (b : Nat) (on : Nat → Bool) (n : Nat) :
    blockMask b on (n + 1) = 2 ^ (b * n) * (if on n then 2 ^ b - 1 else 0) + blockMask b on n := by
  unfold blockMask
  rw [List.range_succ, List.foldl_append, List.foldl_cons, List.foldl_nil]
  split
  · rw [Nat.mul_comm, Nat.add_comm]
  · rw [Nat.mul_zero, Nat.zero_add]
theorem blockMask_lt (b : Nat) (on : Nat → Bool) (n : Nat) : blockMask b on n < 2 ^ (b * n) := by
  induction n with
  | zero => exact Nat.one_pos
  | succ n ih =>
    have hblock : (if on n then 2 ^ b - 1 else 0) + 1 ≤ 2 ^ b := by
      have := Nat.two_pow_pos b
      split <;> omega
    calc blockMask b on (n + 1)
        < 2 ^ (b * n) * ((if on n then 2 ^ b - 1 else 0) + 1) := by rw [blockMask_succ, Nat.mul_succ]; omega
      _ ≤ 2 ^ (b * n) * 2 ^ b := Nat.mul_le_mul_left _ hblock
      _ = 2 ^ (b * (n + 1)) := by rw [← Nat.pow_add, Nat.mul_succ]
/-- A bit of the mask is 1 where its block is on. -/
theorem testBit_blockMask {b : Nat} {on : Nat → Bool} {n j : Nat} (hj : j < b * n) :
    (blockMask b on n).testBit j = on (j / b) := by
  induction n with
  | zero => omega
  | succ n ih =>
    rw [blockMask_succ, Nat.testBit_two_pow_mul_add _ (blockMask_lt b on n)]
    split
    next h => exact ih h
    next h =>
      rw [Nat.mul_succ] at hj
      have hblock : j / b = n :=
        Nat.div_eq_of_lt_le (by rw [Nat.mul_comm]; omega) (by rw [Nat.mul_comm, Nat.mul_succ]; omega)
      have hin : j - b * n < b := by omega
      rw [hblock]
      cases on n <;> simp [Nat.testBit_two_pow_sub_one, hin]

/-- The byte enables of lanes cover the bytes of the lanes that are on, and no other. -/
theorem getLsbD_laneBytes {w j : Nat} (on : Nat → Bool) (hw : LaneWidth w) (hj : j < 128) :
    (laneBytes w on).getLsbD j = on (j / (w / 8)) := by
  rw [laneBytes_eq_ofNat, BitVec.getLsbD_ofNat, decide_eq_true hj, Bool.true_and, testBit_blockMask (hw.byte_lt hj)]

/-! ### Flags of lanes -/

/-- The flags that the lanes of a lane-wise result set together. -/
def laneFlags (w : Nat) (on : Nat → Bool) (r : Nat → Nat × Flags) : Flags :=
  orFlags ((List.range (1024 / w)).map fun n => if on n then (r n).2 else Flags.none)
/-- Some lane that is on meets a test. -/
def anyLane (w : Nat) (on test : Nat → Bool) : Bool := (List.range (1024 / w)).any fun n => on n && test n

theorem anyLane_eq_true {w : Nat} {on test : Nat → Bool} :
    anyLane w on test = true ↔ ∃ n, n < 1024 / w ∧ on n = true ∧ test n = true := by
  simp [anyLane]
theorem anyLane_eq_false {w : Nat} {on test : Nat → Bool} :
    anyLane w on test = false ↔ ∀ n, n < 1024 / w → on n = true → test n = false := by
  simp [anyLane]

theorem flagIf_or (b c : Bool) (fl : Flags) : flagIf b fl ||| flagIf c fl = flagIf (b || c) fl := by
  cases b <;> cases c <;> simp [flagIf, Flags.none]
/-- One flag set by some members of a list is set by the list when it is by any of them. -/
theorem orFlags_map_flagIf {α : Type} (test : α → Bool) (fl : Flags) (xs : List α) :
    orFlags (xs.map fun x => flagIf (test x) fl) = flagIf (xs.any test) fl := by
  have hfold : ∀ b, (xs.map fun x => flagIf (test x) fl).foldl (fun p q => p ||| q) (flagIf b fl) =
      flagIf (b || xs.any test) fl := by
    induction xs with
    | nil => simp
    | cons x xs ih => simp [flagIf_or, ih, Bool.or_assoc]
  exact hfold false
/-- A flag that each lane sets by a test is set when a lane that is on meets the test. -/
theorem laneFlags_eq_flagIf {w : Nat} {on test : Nat → Bool} {r : Nat → Nat × Flags} {fl : Flags}
    (h : ∀ n, (r n).2 = flagIf (test n) fl) : laneFlags w on r = flagIf (anyLane w on test) fl := by
  have hlane : ∀ n, (if on n then (r n).2 else Flags.none) = flagIf (on n && test n) fl := fun n => by
    rw [h]
    cases on n <;> rfl
  simp only [laneFlags, hlane, orFlags_map_flagIf, anyLane]
theorem laneFlags_eq_none {w : Nat} {on : Nat → Bool} {r : Nat → Nat × Flags} (h : ∀ n, (r n).2 = Flags.none) :
    laneFlags w on r = Flags.none := by
  rw [laneFlags_eq_flagIf (test := fun _ => false) (fl := Flags.none) h]
  exact ite_self _

/-! ### Lane-wise results -/

/-- The vector of a lane-wise result. -/
def laneVec (w : Nat) (on : Nat → Bool) (r : Nat → Nat × Flags) : BitVec 1024 :=
  ofLanes w ((List.range (1024 / w)).map fun n => if on n then (r n).1 else 0)

theorem putWhere_eq_put (lat w d : Nat) (on : Nat → Bool) (r : Nat → Nat × Flags) (s : State) :
    putWhere lat w d on r s = s.put lat (.v d (laneVec w on r) (laneBytes w on)) (laneFlags w on r) := by
  simp only [putWhere, laneVec, laneFlags, List.map_map, Function.comp_def, apply_ite Prod.fst, apply_ite Prod.snd]
theorem laneAt_laneVec {w n : Nat} {on : Nat → Bool} (r : Nat → Nat × Flags) (hn : n < 1024 / w) (hon : on n = true) :
    laneAt w (laneVec w on r) n = (r n).1 % 2 ^ w := by
  rw [laneVec, laneAt_ofLanes (lane_end_le hn), List.getD_eq_getElem?_getD]
  simp [hn, hon]

/-- A lane-wise result writes the lanes that are on, each modulo its width. -/
theorem writesLanes_putWhere {i : Instr} {s : State} {lat d w : Nat} {on : Nat → Bool} {r : Nat → Nat × Flags}
    {sel : Nat → Prop} {rule : Nat → Nat → Prop} (hw : LaneWidth w) (hi : exec i s = .next (putWhere lat w d on r s))
    (hsel : ∀ n, on n = true ↔ sel n) (hrule : ∀ n, sel n → rule n ((r n).1 % 2 ^ w)) :
    WritesLanes i s lat d w sel rule (laneFlags w on r) := by
  rw [putWhere_eq_put] at hi
  refine ⟨_, _, hi, fun j hj => ?_, fun n hn hon => ?_⟩
  · rw [getLsbD_laneBytes on hw hj, hsel]
  · rw [laneAt_laneVec r hn ((hsel n).mpr hon)]
    exact hrule n hon

theorem on_iff_enabled {s : State} {f : FmtA} {w : Nat} (n : Nat) : s.me.on f w n = true ↔ Enabled s f w n := Iff.rfl

/-- A word answers one result with latency 2 that writes the lanes of v[DST] that its mask enables, at its format's
width. -/
def WritesEnabled (i : Instr) (s : State) (f : FmtA) (rule : Nat → Nat → Prop) (fl : Flags) : Prop :=
  WritesLanes i s 2 f.dst.toNat (fmtWidth f.fmt) (Enabled s f (fmtWidth f.fmt)) rule fl

theorem writesEnabled_putLanes {i : Instr} {g : Guard} {f : FmtA} {s : State} {r : Ctx → Nat → Nat → Nat × Flags}
    {rule : Nat → Nat → Prop} (hw : LaneWidth (fmtWidth f.fmt)) (h : Goes i g s)
    (hi : exec i s = issue i g s .ok (putLanes 2 f r))
    (hrule : ∀ n, rule n ((r s.me (fmtWidth f.fmt) n).1 % 2 ^ fmtWidth f.fmt)) :
    WritesEnabled i s f rule (laneFlags (fmtWidth f.fmt) (s.me.on f (fmtWidth f.fmt)) (r s.me (fmtWidth f.fmt))) :=
  writesLanes_putWhere hw (hi.trans (issue_goes h rfl)) on_iff_enabled fun n _ => hrule n
/-- A lane-wise result that sets no flag. -/
theorem writesEnabled_putPlain {i : Instr} {g : Guard} {f : FmtA} {s : State} {r : Ctx → Nat → Nat → Nat}
    {rule : Nat → Nat → Prop} (hw : LaneWidth (fmtWidth f.fmt)) (hi : exec i s = issue i g s .ok (putPlain f r))
    (hrule : ∀ n, rule n (r s.me (fmtWidth f.fmt) n % 2 ^ fmtWidth f.fmt)) (h : Goes i g s) :
    WritesEnabled i s f rule Flags.none := by
  have hnone : laneFlags (fmtWidth f.fmt) (s.me.on f (fmtWidth f.fmt))
      (fun n => (r s.me (fmtWidth f.fmt) n, Flags.none)) = Flags.none := laneFlags_eq_none fun _ => rfl
  rw [← hnone]
  exact writesEnabled_putLanes (r := fun c w n => (r c w n, Flags.none)) hw h hi hrule

/-! ### Integers of lanes -/

theorem two_pow_pos_int (w : Nat) : (0 : Int) < 2 ^ w := Int.pow_pos (by decide)
theorem two_pow_mono_int {m n : Nat} (h : m ≤ n) : (2 : Int) ^ m ≤ 2 ^ n := by
  exact_mod_cast Nat.pow_le_pow_right Nat.two_pos h

theorem natCast_wrapNat (w : Nat) (x : Int) : ((wrapNat w x : Nat) : Int) = x % 2 ^ w :=
  Int.toNat_of_nonneg (Int.emod_nonneg x (Int.ne_of_gt (two_pow_pos_int w)))
@[simp] theorem wrapNat_mod (w : Nat) (x : Int) : wrapNat w x % 2 ^ w = wrapNat w x := by
  apply Int.natCast_inj.mp
  push_cast
  rw [natCast_wrapNat, Int.emod_emod]

theorem sextInt_toNat {w : Nat} (x : BitVec w) : sextInt w x.toNat = x.toInt := by
  have hmsb : x.toNat.testBit (w - 1) = x.msb := x.msb_eq_getLsbD_last.symm
  rw [sextInt, Nat.mod_eq_of_lt x.isLt, BitVec.toInt_eq_msb_cond, hmsb, Int.natCast_pow]
  rfl
/-- Lane n of the register that a field names, as the integer of the format code. -/
def Ctx.num (c : Ctx) (f : FmtA) (r : BitVec 6) (n : Nat) : Int :=
  laneNum (isSignedInt f.fmt) (fmtWidth f.fmt) (c.vr r.toNat) n

theorem laneInt_ln (c : Ctx) (f : FmtA) (r : BitVec 6) (n : Nat) :
    laneInt f.fmt (c.ln r (fmtWidth f.fmt) n) = c.num f r n := by
  rw [laneInt, Ctx.ln, lane, sextInt_toNat, Ctx.num, laneNum]
theorem laneNum_lower (signed : Bool) (w : Nat) (v : BitVec 1024) (n : Nat) : -2 ^ w ≤ laneNum signed w v n := by
  have hpow : (2 : Int) ^ (w - 1) ≤ 2 ^ w := two_pow_mono_int (Nat.sub_le w 1)
  have hpos := two_pow_pos_int w
  have hsigned := (v.extractLsb' (w * n) w).le_toInt
  rw [laneNum]
  split <;> omega
theorem laneNum_upper (signed : Bool) (w : Nat) (v : BitVec 1024) (n : Nat) : laneNum signed w v n < 2 ^ w := by
  have hpow : (2 : Int) ^ (w - 1) ≤ 2 ^ w := two_pow_mono_int (Nat.sub_le w 1)
  have hsigned := BitVec.toInt_lt (x := v.extractLsb' (w * n) w)
  have hunsigned : ((v.extractLsb' (w * n) w).toNat : Int) < 2 ^ w := by exact_mod_cast (v.extractLsb' (w * n) w).isLt
  rw [laneNum]
  split <;> omega

theorem intMin_le_intMax (w : Nat) (signed : Bool) : intMin w signed ≤ intMax w signed := by
  have hhalf := two_pow_pos_int (w - 1)
  have hfull := two_pow_pos_int w
  unfold intMin intMax
  split <;> omega
/-- Saturation keeps a number within the range of the format, with NV for a number outside it (R35). -/
theorem clampInt_eq (w : Nat) (signed : Bool) (x : Int) : clampInt w signed x =
    (wrapNat w (max (intMin w signed) (min (intMax w signed) x)),
      flagIf (decide (x < intMin w signed ∨ intMax w signed < x)) Flags.nv) := by
  have hle := intMin_le_intMax w signed
  unfold clampInt
  split
  next h =>
    rw [Int.min_eq_right (by omega), Int.max_eq_left (by omega), decide_eq_true (.inl h)]
    rfl
  next h =>
    split
    next h' =>
      rw [Int.min_eq_left (by omega), Int.max_eq_right hle, decide_eq_true (.inr h')]
      rfl
    next h' =>
      rw [Int.min_eq_right (by omega), Int.max_eq_right (by omega), decide_eq_false (by omega)]
      rfl

/-! ### The forms of integer arithmetic (R145) -/

theorem intLane_wrap {f : FmtA} (h : f.sub = 0) (op : Int → Int → Int) (a b : Nat) :
    intLane f op a b = (wrapNat (fmtWidth f.fmt) (op (laneInt f.fmt a) (laneInt f.fmt b)), Flags.none) := by
  rw [intLane, h]
  rfl
theorem intLane_clamp {f : FmtA} (h : f.sub = 1) (op : Int → Int → Int) (a b : Nat) :
    intLane f op a b = clampInt (fmtWidth f.fmt) (isSignedInt f.fmt) (op (laneInt f.fmt a) (laneInt f.fmt b)) := by
  rw [intLane, h]
  rfl
theorem intLane_high {f : FmtA} (h : f.sub = 2) (op : Int → Int → Int) (a b : Nat) : intLane f op a b =
    (wrapNat (fmtWidth f.fmt) (op (laneInt f.fmt a) (laneInt f.fmt b) / 2 ^ fmtWidth f.fmt), Flags.none) := by
  rw [intLane, h, ← Int.fdiv_eq_ediv_of_nonneg _ (Int.le_of_lt (two_pow_pos_int _))]
  rfl

/-- The lanes of an integer operation. -/
def intLanes (f : FmtA) (op : Int → Int → Int) (c : Ctx) (w n : Nat) : Nat × Flags :=
  intLane f op (c.ln f.opa w n) (c.ln f.opb w n)
/-- The exact result of an integer operation on lane n. -/
def Ctx.exactAt (c : Ctx) (f : FmtA) (op : Int → Int → Int) (n : Nat) : Int := op (c.num f f.opa n) (c.num f f.opb n)

theorem putInt_eq_putLanes (f : FmtA) (op : Int → Int → Int) : putInt f op = putLanes 2 f (intLanes f op) := rfl

section
variable {i : Instr} {g : Guard} {f : FmtA} {s : State} {op : Int → Int → Int}

/-- An integer operation whose lanes are a form of the exact result, wrapped, with NV where the result meets a test. -/
theorem writesEnabled_putInt (form : Int → Int) (out : Int → Bool) (hw : LaneWidth (fmtWidth f.fmt))
    (hi : exec i s = issue i g s .ok (putInt f op)) (h : Goes i g s)
    (hform : ∀ a b, intLane f op a b = (wrapNat (fmtWidth f.fmt) (form (op (laneInt f.fmt a) (laneInt f.fmt b))),
      flagIf (out (op (laneInt f.fmt a) (laneInt f.fmt b))) Flags.nv)) :
    WritesEnabled i s f (fun n u => (u : Int) = form (s.me.exactAt f op n) % 2 ^ fmtWidth f.fmt)
      (flagIf (anyLane (fmtWidth f.fmt) (s.me.on f (fmtWidth f.fmt)) fun n => out (s.me.exactAt f op n)) Flags.nv) := by
  have hlanes : ∀ n, intLanes f op s.me (fmtWidth f.fmt) n =
      (wrapNat (fmtWidth f.fmt) (form (s.me.exactAt f op n)), flagIf (out (s.me.exactAt f op n)) Flags.nv) := fun n => by
    rw [intLanes, hform, laneInt_ln, laneInt_ln, Ctx.exactAt]
  rw [putInt_eq_putLanes] at hi
  rw [← laneFlags_eq_flagIf fun n => congrArg Prod.snd (hlanes n)]
  exact writesEnabled_putLanes hw h hi fun n => by rw [hlanes, wrapNat_mod, natCast_wrapNat]
/-- One without a flag. -/
theorem writesEnabled_putInt_plain (form : Int → Int) (hw : LaneWidth (fmtWidth f.fmt))
    (hi : exec i s = issue i g s .ok (putInt f op)) (h : Goes i g s) (hform : ∀ a b, intLane f op a b =
      (wrapNat (fmtWidth f.fmt) (form (op (laneInt f.fmt a) (laneInt f.fmt b))), Flags.none)) :
    WritesEnabled i s f (fun n u => (u : Int) = form (s.me.exactAt f op n) % 2 ^ fmtWidth f.fmt) Flags.none := by
  have hwrites := writesEnabled_putInt form (fun _ => false) hw hi h hform
  rwa [anyLane_eq_false.mpr fun _ _ _ => rfl] at hwrites

theorem writesEnabled_wrap (hw : LaneWidth (fmtWidth f.fmt)) (hi : exec i s = issue i g s .ok (putInt f op))
    (h : Goes i g s) (hs : f.sub = 0) :
    WritesEnabled i s f (fun n u => (u : Int) = s.me.exactAt f op n % 2 ^ fmtWidth f.fmt) Flags.none :=
  writesEnabled_putInt_plain id hw hi h (intLane_wrap hs op)
theorem writesEnabled_high (hw : LaneWidth (fmtWidth f.fmt)) (hi : exec i s = issue i g s .ok (putInt f op))
    (h : Goes i g s) (hs : f.sub = 2) : WritesEnabled i s f
      (fun n u => (u : Int) = s.me.exactAt f op n / 2 ^ fmtWidth f.fmt % 2 ^ fmtWidth f.fmt) Flags.none :=
  writesEnabled_putInt_plain (fun x => x / 2 ^ fmtWidth f.fmt) hw hi h (intLane_high hs op)
/-- The clamped form sets NV exactly where an enabled lane's exact result leaves the range. -/
theorem writesEnabled_clamp (hw : LaneWidth (fmtWidth f.fmt)) (hi : exec i s = issue i g s .ok (putInt f op))
    (h : Goes i g s) (hs : f.sub = 1) {lo top : Int} (hlo : lo = intMin (fmtWidth f.fmt) (isSignedInt f.fmt))
    (htop : top = intMax (fmtWidth f.fmt) (isSignedInt f.fmt)) :
    ∃ fl, WritesEnabled i s f
        (fun n u => (u : Int) = max lo (min top (s.me.exactAt f op n)) % 2 ^ fmtWidth f.fmt) fl ∧
      ((fl = Flags.nv ∧ ∃ n, n < 1024 / fmtWidth f.fmt ∧ Enabled s f (fmtWidth f.fmt) n ∧
          (s.me.exactAt f op n < lo ∨ top < s.me.exactAt f op n)) ∨
        (fl = Flags.none ∧ ∀ n, n < 1024 / fmtWidth f.fmt → Enabled s f (fmtWidth f.fmt) n →
          lo ≤ s.me.exactAt f op n ∧ s.me.exactAt f op n ≤ top)) := by
  refine ⟨_, writesEnabled_putInt (fun x => max lo (min top x)) (fun x => decide (x < lo ∨ top < x)) hw hi h
    fun a b => ?_, ?_⟩
  · rw [intLane_clamp hs, clampInt_eq, hlo, htop]
  cases hany : anyLane (fmtWidth f.fmt) (s.me.on f (fmtWidth f.fmt)) fun n =>
    decide (s.me.exactAt f op n < lo ∨ top < s.me.exactAt f op n)
  case true =>
    obtain ⟨n, hn, hon, hout⟩ := anyLane_eq_true.mp hany
    exact .inl ⟨rfl, n, hn, hon, of_decide_eq_true hout⟩
  case false =>
    refine .inr ⟨rfl, fun n hn hon => ?_⟩
    have hin := of_decide_eq_false (anyLane_eq_false.mp hany n hn hon)
    exact ⟨Int.not_lt.mp fun hlt => hin (.inl hlt), Int.not_lt.mp fun hlt => hin (.inr hlt)⟩
end

/-- VADD, VSUB and VMUL are one integer operation on lanes: each is issued with its sum, difference or product. -/
theorem exec_vadd_vsub_or_vmul {e : (Guard → FmtA → Instr) × (Int → Int → Int)}
    (he : e ∈ [(Instr.vadd, fun x y => x + y), (.vsub, fun x y => x - y), (.vmul, fun x y => x * y)])
    (g : Guard) (f : FmtA) (s : State) : exec (e.1 g f) s = issue (e.1 g f) g s .ok (putInt f e.2) := by
  simp only [List.mem_cons, List.not_mem_nil, or_false] at he
  rcases he with rfl | rfl | rfl <;> rfl

/-- Settles O48: each word is one integer operation on lanes, in the form that SUB names. -/
theorem integerLanes : Obligations.IntegerLanes := by
  unfold Obligations.IntegerLanes
  intro g f s w signed lo top a b hfmt hlo htop ha hb
  obtain ⟨rfl, rfl, hw⟩ := intLaneFmts_spec hfmt
  obtain rfl : a = s.me.num f f.opa := funext ha
  obtain rfl : b = s.me.num f f.opb := funext hb
  refine ⟨fun e he h => ?sums, writesEnabled_high hw rfl, fun hs => ⟨?vmin, ?vmax⟩⟩
  case sums =>
    have hi := exec_vadd_vsub_or_vmul he g f s
    exact ⟨writesEnabled_wrap hw hi h, fun hs => writesEnabled_clamp hw hi h hs hlo htop⟩
  case vmin => exact fun h => writesEnabled_wrap hw rfl h hs
  case vmax => exact fun h => writesEnabled_wrap hw rfl h hs

end Sys2Proof.Machine
end

section
/-! PROOF. Bitwise operations, masks, lane shifts, counts and moves (R146 to R149, R151): what the words answer in the
terms of the statements. -/
namespace Sys2Proof.Machine

/-! ### Tables of three inputs (R146) -/

/-- The bits at which three inputs have the pattern k, the bit of a first. -/
def minterm (k : Nat) (a b c : BitVec 1024) : BitVec 1024 :=
  (if k / 4 == 1 then a else ~~~a) &&& (if k / 2 % 2 == 1 then b else ~~~b) &&& (if k % 2 == 1 then c else ~~~c)

theorem lut3_eq_foldl (t : BitVec 8) (a b c : BitVec 1024) : lut3 t a b c =
    (List.range 8).foldl (fun acc k => if t.getLsbD k then acc ||| minterm k a b c else acc) 0 := rfl
theorem getLsbD_complementUnless {j : Nat} (hj : j < 1024) (p : Bool) (a : BitVec 1024) :
    (if p then a else ~~~a).getLsbD j = (p == a.getLsbD j) := by
  cases p <;> simp [hj]
/-- The pattern of three bits is the number that they make. -/
theorem pattern_eq_iff {k : Nat} (hk : k < 8) (x y z : Bool) :
    ((k / 4 == 1) == x && (k / 2 % 2 == 1) == y && (k % 2 == 1) == z) =
      decide (k = 4 * x.toNat + 2 * y.toNat + z.toNat) := by
  revert k
  revert x y z
  decide
theorem getLsbD_minterm {k j : Nat} (hk : k < 8) (hj : j < 1024) (a b c : BitVec 1024) :
    (minterm k a b c).getLsbD j =
      decide (k = 4 * (a.getLsbD j).toNat + 2 * (b.getLsbD j).toNat + (c.getLsbD j).toNat) := by
  rw [minterm, BitVec.getLsbD_and, BitVec.getLsbD_and, getLsbD_complementUnless hj, getLsbD_complementUnless hj,
    getLsbD_complementUnless hj, pattern_eq_iff hk]
/-- A union of chosen vectors has the bits that some chosen vector has. -/
theorem getLsbD_foldl_or {n j : Nat} (chosen : Nat → Bool) (v : Nat → BitVec n) (ks : List Nat) (z : BitVec n) :
    (ks.foldl (fun acc k => if chosen k then acc ||| v k else acc) z).getLsbD j =
      (z.getLsbD j || ks.any fun k => chosen k && (v k).getLsbD j) := by
  induction ks generalizing z with
  | nil => simp
  | cons k ks ih =>
    rw [List.foldl_cons, ih, List.any_cons]
    cases chosen k <;> simp [Bool.or_assoc]
/-- VLUT3 takes the bit of its table that the three input bits number. -/
theorem getLsbD_lut3 {j : Nat} (hj : j < 1024) (t : BitVec 8) (a b c : BitVec 1024) : (lut3 t a b c).getLsbD j =
    t.getLsbD (4 * (a.getLsbD j).toNat + 2 * (b.getLsbD j).toNat + (c.getLsbD j).toNat) := by
  rw [lut3_eq_foldl, getLsbD_foldl_or, BitVec.ofNat_eq_ofNat, BitVec.getLsbD_zero, Bool.false_or, Bool.eq_iff_iff,
    List.any_eq_true]
  constructor
  · rintro ⟨k, hk, hbit⟩
    rw [getLsbD_minterm (List.mem_range.mp hk) hj, Bool.and_eq_true, decide_eq_true_iff] at hbit
    exact hbit.2 ▸ hbit.1
  · intro hbit
    have hlt : 4 * (a.getLsbD j).toNat + 2 * (b.getLsbD j).toNat + (c.getLsbD j).toNat < 8 := by
      have ha := (a.getLsbD j).toNat_lt
      have hb := (b.getLsbD j).toNat_lt
      have hc := (c.getLsbD j).toNat_lt
      omega
    exact ⟨_, List.mem_range.mpr hlt, by simp only [getLsbD_minterm hlt hj, hbit, decide_true, Bool.and_self]⟩

/-! ### Masks (R151) -/

theorem invert_eq_xor (b : Bool) (m : BitVec 128) : invert b m = m ^^^ if b then BitVec.allOnes 128 else 0 := by
  cases b
  case false => exact (BitVec.xor_zero).symm
  case true => exact (BitVec.xor_allOnes).symm

/-! ### Counts (R147) -/

/-- The count of one bits is the number of the positions that hold one. -/
theorem popNat_eq_length (v w : Nat) : popNat v w = ((List.range w).filter fun i => v.testBit i).length := by
  induction w with
  | zero => rfl
  | succ w ih =>
    rw [popNat, ih, List.range_succ, List.filter_append, List.length_append, Nat.add_comm]
    cases hbit : v.testBit w <;> simp [hbit]
theorem popNat_le (v w : Nat) : popNat v w ≤ w := by
  rw [popNat_eq_length]
  exact Nat.le_trans (List.length_filter_le _ _) (Nat.le_of_eq List.length_range)
theorem clzNat_le (v w : Nat) : clzNat v w ≤ w := by
  induction w with
  | zero => exact Nat.le_refl 0
  | succ w ih =>
    rw [clzNat]
    split <;> omega
theorem lt_two_pow_of_testBit_false {v w : Nat} (h : v < 2 ^ (w + 1)) (hbit : v.testBit w = false) : v < 2 ^ w := by
  rcases Nat.lt_or_ge v (2 ^ w) with hlt | hge
  · exact hlt
  · rw [Nat.testBit_of_two_pow_le_and_two_pow_add_one_gt hge h] at hbit
    contradiction
/-- The bits that clzNat counts are zeros. -/
theorem lt_two_pow_sub_clzNat {v w : Nat} (h : v < 2 ^ w) : v < 2 ^ (w - clzNat v w) := by
  induction w with
  | zero => exact h
  | succ w ih =>
    rw [clzNat]
    split
    next => exact h
    next hbit =>
      rw [Nat.add_comm 1, Nat.add_sub_add_right]
      exact ih (lt_two_pow_of_testBit_false h (eq_false_of_ne_true hbit))
/-- Below them stands a one. -/
theorem two_pow_le_of_clzNat {v w : Nat} (h : v < 2 ^ w) (hv : v ≠ 0) : 2 ^ (w - 1 - clzNat v w) ≤ v := by
  induction w with
  | zero => omega
  | succ w ih =>
    rw [clzNat]
    split
    next hbit => exact Nat.ge_two_pow_of_testBit hbit
    next hbit =>
      have hexp : w + 1 - 1 - (1 + clzNat v w) = w - 1 - clzNat v w := by omega
      rw [hexp]
      exact ih (lt_two_pow_of_testBit_false h (eq_false_of_ne_true hbit))
/-- A count up to the width fits in a lane. -/
theorem count_mod {k w : Nat} (h : k ≤ w) : k % 2 ^ w = k := Nat.mod_eq_of_lt (Nat.lt_of_le_of_lt h Nat.lt_two_pow_self)

/-! ### Shifts by the full amount (R147) -/

theorem shlLane_eq (w a n : Nat) : shlLane w a n = a * 2 ^ n % 2 ^ w := by
  unfold shlLane
  split
  next h => exact (Nat.mod_eq_zero_of_dvd (Nat.dvd_mul_left_of_dvd (Nat.pow_dvd_pow 2 h) a)).symm
  next => rfl
/-- Past the width, floor division leaves nothing but the sign. -/
theorem ediv_two_pow_min {x : Int} {w : Nat} (hlower : -2 ^ w ≤ x) (hupper : x < 2 ^ w) (n : Nat) :
    x / 2 ^ min n w = x / 2 ^ n := by
  rcases Nat.le_total n w with h | h
  · rw [Nat.min_eq_left h]
  · have hpow : (2 : Int) ^ w ≤ 2 ^ n := two_pow_mono_int h
    rw [Nat.min_eq_right h]
    rcases Int.lt_or_le x 0 with hneg | hnonneg
    · rw [Int.ediv_eq_neg_one_of_neg_of_le hneg (by omega), Int.ediv_eq_neg_one_of_neg_of_le hneg (by omega)]
    · rw [Int.ediv_eq_zero_of_lt hnonneg hupper, Int.ediv_eq_zero_of_lt hnonneg (by omega)]
theorem shrLane_ln (c : Ctx) (f : FmtA) (r : BitVec 6) (i n : Nat) :
    shrLane f.fmt (c.ln r (fmtWidth f.fmt) i) n = wrapNat (fmtWidth f.fmt) (c.num f r i / 2 ^ n) := by
  rw [shrLane, laneInt_ln, Int.fdiv_eq_ediv_of_nonneg _ (Int.le_of_lt (two_pow_pos_int _)), Ctx.num,
    ediv_two_pow_min (laneNum_lower _ _ _ _) (laneNum_upper _ _ _ _)]

/-! ### What the words answer -/

/-- A word without issue checks that goes answers what it performs. -/
theorem exec_goes {i : Instr} {g : Guard} {s t : State} {perform : State → State} (h : Goes i g s)
    (hi : exec i s = issue i g s .ok perform) (ht : perform s = t) : exec i s = .next t := by
  rw [hi, issue_goes h rfl, ht]

theorem beq_two_of_toNat_le_one {n : BitVec 5} (h : n.toNat ≤ 1) : (n == 2) = false := by
  rw [beq_eq_false_iff_ne]
  rintro rfl
  exact absurd h (by decide)
theorem shiftOf_eq (f : FmtA) (c : Ctx) (w n : Nat) :
    shiftOf f c w n = if f.sub = 1 then f.aux.toNat else c.ln f.opb w n := by
  simp [shiftOf]
@[simp] theorem ln_mod (c : Ctx) (r : BitVec 6) (w n : Nat) : c.ln r w n % 2 ^ w = c.ln r w n := lane_mod w _ n
theorem ln_lt (c : Ctx) (r : BitVec 6) (w n : Nat) : c.ln r w n < 2 ^ w := BitVec.isLt _

/-- VSEL writes every lane, from the register that the lane's enable names (R149). -/
theorem writesLanes_vsel {g : Guard} {f : FmtA} {s : State} (hw : LaneWidth (fmtWidth f.fmt)) (h : Goes (.vsel g f) g s) :
    WritesLanes (.vsel g f) s 2 f.dst.toNat (fmtWidth f.fmt) (fun _ => True)
      (fun n u => (Enabled s f (fmtWidth f.fmt) n → u = s.me.ln f.opa (fmtWidth f.fmt) n) ∧
        (¬Enabled s f (fmtWidth f.fmt) n → u = s.me.ln f.opb (fmtWidth f.fmt) n)) Flags.none := by
  rw [← laneFlags_eq_none (r := fun n => ((if s.me.on f (fmtWidth f.fmt) n then s.me.ln f.opa (fmtWidth f.fmt) n
    else s.me.ln f.opb (fmtWidth f.fmt) n), Flags.none)) fun _ => rfl]
  refine writesLanes_putWhere hw (exec_goes h rfl rfl) (fun _ => iff_of_true rfl trivial) fun n _ =>
    ⟨fun hon => ?_, fun hoff => ?_⟩
  · simp only [on_iff_enabled, hon, if_true, ln_mod]
  · simp only [on_iff_enabled, hoff, if_false, ln_mod]

/-- Settles O49: each word writes one register; bit by bit, or lane by lane with the value that the statement names. -/
theorem bitwiseLanesAndMoves : Obligations.BitwiseLanesAndMoves := by
  unfold Obligations.BitwiseLanesAndMoves
  constructor
  · rintro g f s _ _ _ _ _ rfl rfl rfl rfl rfl
    simp only [List.forall_mem_cons]
    refine ⟨⟨?vand, ?vor, ?vxor, List.forall_mem_nil _⟩, ?vlut3,
      ⟨?mand, ?mor, ?mnot, List.forall_mem_nil _⟩, ?mpop⟩
    case vand => exact fun h => exec_goes h rfl rfl
    case vor => exact fun h => exec_goes h rfl rfl
    case vxor => exact fun h => exec_goes h rfl rfl
    case vlut3 => exact fun h => ⟨_, exec_goes h rfl rfl, fun j hj => getLsbD_lut3 hj _ _ _ _⟩
    case mand => exact fun h => exec_goes h rfl (by rw [doMand, maskA, maskB, invert_eq_xor, invert_eq_xor, putM])
    case mor => exact fun h => exec_goes h rfl (by rw [doMor, maskA, maskB, invert_eq_xor, invert_eq_xor, putM])
    case mnot => exact fun h => exec_goes h rfl rfl
    case mpop => exact fun h => exec_goes h rfl (by rw [doMpop, popNat_eq_length]; rfl)
  · intro g f s w L signed a b k hfmt hL ha hb hk
    obtain ⟨rfl, rfl, hw⟩ := intLaneFmts_spec hfmt
    subst hL
    obtain rfl : a = s.me.ln f.opa (fmtWidth f.fmt) := funext ha
    obtain rfl : b = s.me.ln f.opb (fmtWidth f.fmt) := funext hb
    obtain rfl : k = shiftOf f s.me (fmtWidth f.fmt) := funext fun n => (hk n).trans (shiftOf_eq f s.me _ n).symm
    refine ⟨writesEnabled_putPlain hw rfl fun n => ?vshl, writesEnabled_putPlain hw rfl fun n => ?vshr,
      writesEnabled_putPlain hw rfl fun n => ?vpopc, writesEnabled_putPlain hw rfl fun n => ?vclz,
      fun h _ => writesEnabled_putPlain hw rfl (fun n => ?vfsh) h,
      fun h _ => writesEnabled_putPlain hw rfl (fun n => ?vrot) h, writesEnabled_putPlain hw rfl fun n => ?vperm,
      fun h => ⟨fun hsub _ => writesEnabled_putPlain hw rfl (fun n => ?vbcastLane) h,
        fun hsub => writesEnabled_putPlain hw rfl (fun n => ?vbcastWord) h⟩, writesLanes_vsel hw⟩
    case vshl => simp only [shlLane_eq, Nat.mod_mod]
    case vshr =>
      rw [shrLane_ln, wrapNat_mod, natCast_wrapNat]
      rfl
    case vpopc => rw [count_mod (popNat_le _ _), popNat_eq_length]
    case vclz =>
      rw [count_mod (clzNat_le _ _)]
      exact ⟨clzNat_le _ _, lt_two_pow_sub_clzNat (ln_lt _ _ _ _), two_pow_le_of_clzNat (ln_lt _ _ _ _)⟩
    case vfsh =>
      dsimp only
      split <;> exact ln_mod _ _ _ _
    case vrot => simp only [beq_iff_eq, ln_mod]
    case vperm =>
      dsimp only
      split
      · exact ln_mod _ _ _ _
      · exact Nat.zero_mod _
    case vbcastLane => simp only [beq_two_of_toNat_le_one hsub, Bool.false_eq_true, if_false, ln_mod]
    case vbcastWord => simp only [hsub, BEq.rfl, if_true, Nat.mod_mod]

end Sys2Proof.Machine
end

section
/-! PROOF. Single quires and values (R30 to R33, R171, R175 to R179): exact addition in units of 2^−240, negation, the
order against zero, and what the words answer. -/
namespace Sys2Proof.Machine

/-! ### Lowest terms -/

/-- A fraction in lowest terms is divided through by the greatest common divisor. -/
theorem Q.mk'_eq (n : Int) {d : Nat} (hd : 0 < d) :
    Q.mk' n d = ⟨n / (Nat.gcd n.natAbs d : Nat), d / Nat.gcd n.natAbs d⟩ := by
  have hpos : 0 < Nat.gcd n.natAbs d := Nat.gcd_pos_of_pos_right _ hd
  dsimp only [Q.mk']
  split
  next h => rw [Nat.le_antisymm h hpos, Int.natCast_one, Int.ediv_one, Nat.div_one]
  next => rfl
theorem Q.mk'_den_pos (n : Int) {d : Nat} (hd : 0 < d) : 0 < (Q.mk' n d).den := by
  rw [Q.mk'_eq n hd]
  exact Nat.div_pos (Nat.gcd_le_right _ hd) (Nat.gcd_pos_of_pos_right _ hd)
/-- The lowest terms denote the same fraction. -/
theorem Q.mk'_cross (n : Int) {d : Nat} (hd : 0 < d) : (Q.mk' n d).num * d = n * (Q.mk' n d).den := by
  have hn : ((Nat.gcd n.natAbs d : Nat) : Int) ∣ n := Int.ofNat_dvd_left.mpr (Nat.gcd_dvd_left _ _)
  have hdvd : ((Nat.gcd n.natAbs d : Nat) : Int) ∣ d := Int.natCast_dvd_natCast.mpr (Nat.gcd_dvd_right _ _)
  rw [Q.mk'_eq n hd, Int.natCast_ediv, ← Int.mul_ediv_assoc _ hdvd, Int.mul_comm, ← Int.mul_ediv_assoc _ hn, Int.mul_comm]
theorem Q.mk'_neg (n : Int) {d : Nat} (hd : 0 < d) : (Q.mk' n d).neg = Q.mk' (-n) d := by
  rw [Q.mk'_eq n hd, Q.mk'_eq (-n) hd, Int.natAbs_neg, Int.neg_ediv_of_dvd (Int.ofNat_dvd_left.mpr (Nat.gcd_dvd_left _ _)),
    Q.neg]
/-- A whole number has denominator 1. -/
theorem Q.mk'_mul_den (n : Int) {d : Nat} (hd : 0 < d) : Q.mk' (n * d) d = Q.ofInt n := by
  have hgcd : Nat.gcd (n * d).natAbs d = d := by
    rw [Int.natAbs_mul, Int.natAbs_natCast, Nat.gcd_mul_left_left]
  rw [Q.mk'_eq _ hd, hgcd, Int.mul_ediv_cancel n (Int.natCast_ne_zero.mpr (Nat.ne_of_gt hd)), Nat.div_self hd, Q.ofInt]

/-! ### Units of 2^−240 (R30, R31) -/

/-- The real of n units of 2^−240. -/
def Q.units (n : Int) : Q := Q.mk' n (2 ^ 240)

theorem Q.units_zero : Q.units 0 = Q.zero := by
  have hwhole := Q.mk'_mul_den 0 (Nat.two_pow_pos 240)
  rwa [Int.zero_mul] at hwhole
theorem Q.units_neg (n : Int) : (Q.units n).neg = Q.units (-n) := Q.mk'_neg n (Nat.two_pow_pos 240)
theorem Q.units_den_pos (n : Int) : 0 < (Q.units n).den := Q.mk'_den_pos n (Nat.two_pow_pos 240)
theorem Q.units_cross (n : Int) : (Q.units n).num * ((2 ^ 240 : Nat) : Int) = n * (Q.units n).den :=
  Q.mk'_cross n (Nat.two_pow_pos 240)
/-- Only no units at all are zero. -/
theorem Q.eq_zero_of_isZero_units {n : Int} (h : (Q.units n).isZero = true) : n = 0 := by
  have hcross := Q.units_cross n
  rw [eq_of_beq h, Int.zero_mul] at hcross
  exact (Int.mul_eq_zero.mp hcross.symm).resolve_right (Int.natCast_ne_zero.mpr (Nat.ne_of_gt (Q.units_den_pos n)))
/-- Scaling by 2^240 counts the units. -/
theorem Q.units_scale (n : Int) : (Q.units n).scale 240 = Q.ofInt n := by
  have hscale : (Q.units n).scale 240 = Q.mk' ((Q.units n).num * ((2 ^ 240 : Nat) : Int)) ((Q.units n).den * 1) := rfl
  rw [hscale, Q.units_cross, Nat.mul_one, Q.mk'_mul_den n (Q.units_den_pos n)]
theorem Q.rne_ofInt (n : Int) : (Q.ofInt n).rne = n := by
  have hround : rneNat n.natAbs 1 = n.natAbs := by simp [rneNat, Nat.mod_one]
  simp only [Q.rne, Q.ofInt, hround]
  split <;> omega
/-- The entry rounding leaves whole units as they are, without NX (R31). -/
theorem entryUnits_units (n : Int) : entryUnits (Q.units n) = (n, Flags.none) := by
  simp [entryUnits, Q.units_scale, Q.rne_ofInt, Q.eqv, flagIf]

/-! ### Values in units -/

/-- A value is a number of units of 2^−240, or no real at all. -/
def Val.HasUnits (v : Val) (u : Option Int) : Prop := v.real? = u.map Q.units

theorem Quire.value_hasUnits (q : Quire) : q.value.HasUnits (quireUnits q) := by
  obtain ⟨nar, val⟩ := q
  cases nar <;> rfl
theorem Val.HasUnits.neg {v : Val} {u : Option Int} (h : v.HasUnits u) : v.neg.HasUnits (u.map (-·)) := by
  unfold Val.HasUnits at *
  cases v with
  | real q =>
    obtain ⟨n, rfl, rfl⟩ := Option.map_eq_some_iff.mp h.symm
    dsimp only [Val.neg, Option.map_some]
    split
    next hz => rw [Q.eq_zero_of_isZero_units hz, Int.neg_zero, Q.units_zero, Val.real?]
    next => rw [Q.units_neg, Val.real?]
  | negZero =>
    obtain ⟨n, rfl, hn⟩ := Option.map_eq_some_iff.mp h.symm
    obtain rfl : n = 0 := Q.eq_zero_of_isZero_units (by rw [hn]; rfl)
    exact h
  | nar | nan _ | inf _ =>
    obtain rfl := Option.map_eq_none_iff.mp h.symm
    rfl

/-- The factor that SUB gives an addend. -/
def addendSign (f : FmtA) : Int := if f.sub = 1 then -1 else 1

theorem Val.HasUnits.signed {v : Val} {u : Option Int} (h : v.HasUnits u) (f : FmtA) :
    (signed f v).HasUnits (u.map (addendSign f * ·)) := by
  unfold Machine.signed addendSign
  by_cases hs : f.sub = 1
  · simpa only [hs, BEq.rfl, if_true, Int.neg_one_mul] using h.neg
  · simpa only [beq_false_of_ne hs, Bool.false_eq_true, hs, if_false, Int.one_mul, Option.map_id'] using h
/-- A value that is no real stays one under the sign. -/
theorem real?_signed_none {v : Val} (h : v.real? = none) (f : FmtA) : (signed f v).real? = none :=
  Val.HasUnits.signed (u := none) h f

/-! ### Sums (R32) -/

theorem quireOfUnits_in {n : Int} (h : -(2 ^ 511) ≤ n ∧ n < 2 ^ 511) :
    quireOfUnits n = some ⟨false, BitVec.ofInt 512 n⟩ := by
  rw [quireOfUnits, decide_eq_true h.1, decide_eq_true h.2]
  rfl
theorem quireOfUnits_out {n : Int} (h : ¬(-(2 ^ 511) ≤ n ∧ n < 2 ^ 511)) : quireOfUnits n = none := by
  rw [quireOfUnits, ← Bool.decide_and, decide_eq_false h]
  rfl
/-- A number of units in the range of R30 is held exactly. -/
theorem toInt_ofInt_512 {n : Int} (h : -(2 ^ 511) ≤ n ∧ n < 2 ^ 511) : (BitVec.ofInt 512 n).toInt = n :=
  BitVec.toInt_ofInt_eq_self (by decide) h.1 h.2

theorem quireAdd_nar {c : Quire} (h : c.nar = true) (x : Val) : quireAdd c x = (c, Flags.none) := by
  simp [quireAdd, h]
theorem quireAdd_special {c : Quire} {x : Val} (hc : c.nar = false) (h : x.real? = none) :
    quireAdd c x = (⟨true, 0⟩, Flags.narf) := by
  simp [quireAdd, hc, h, Quire.narState]
theorem quireAdd_in {c : Quire} {x : Val} {n : Int} (hc : c.nar = false) (h : x.HasUnits (some n))
    (hin : -(2 ^ 511) ≤ c.val.toInt + n ∧ c.val.toInt + n < 2 ^ 511) :
    quireAdd c x = (⟨false, BitVec.ofInt 512 (c.val.toInt + n)⟩, Flags.none) := by
  have hreal : x.real? = some (Q.units n) := h
  simp only [quireAdd, hc, hreal, entryUnits_units, quireOfUnits_in hin, Bool.false_eq_true, if_false]
theorem quireAdd_out {c : Quire} {x : Val} {n : Int} (hc : c.nar = false) (h : x.HasUnits (some n))
    (hout : ¬(-(2 ^ 511) ≤ c.val.toInt + n ∧ c.val.toInt + n < 2 ^ 511)) :
    quireAdd c x = (⟨true, 0⟩, Flags.qov) := by
  have hreal : x.real? = some (Q.units n) := h
  have hflag : Flags.none ||| Flags.qov = Flags.qov := by decide
  simp only [quireAdd, hc, hreal, entryUnits_units, quireOfUnits_out hout, Bool.false_eq_true, if_false, hflag,
    Quire.narState]

theorem quireSum_nar {c r : Quire} {u : Option Int} {fl : Flags} (hc : c.nar = true) :
    QuireSum c u r fl ↔ r = c ∧ fl = Flags.none := by
  obtain ⟨_, val⟩ := c
  cases hc
  rfl
theorem quireSum_none {c r : Quire} {fl : Flags} (hc : c.nar = false) :
    QuireSum c none r fl ↔ r = ⟨true, 0⟩ ∧ fl = Flags.narf := by
  obtain ⟨_, val⟩ := c
  cases hc
  rfl
theorem quireSum_some {c r : Quire} {n : Int} {fl : Flags} (hc : c.nar = false) : QuireSum c (some n) r fl ↔
    if -(2 ^ 511) ≤ c.val.toInt + n ∧ c.val.toInt + n < 2 ^ 511
    then r.nar = false ∧ r.val.toInt = c.val.toInt + n ∧ fl = Flags.none
    else r = ⟨true, 0⟩ ∧ fl = Flags.qov := by
  obtain ⟨_, val⟩ := c
  cases hc
  rfl

/-- The addition of a value in units meets R32. -/
theorem quireSum_quireAdd {c : Quire} {x : Val} {u : Option Int} (h : x.HasUnits u) :
    QuireSum c u (quireAdd c x).1 (quireAdd c x).2 := by
  cases hc : c.nar with
  | true =>
    rw [quireAdd_nar hc]
    exact (quireSum_nar hc).mpr ⟨rfl, rfl⟩
  | false =>
    cases u with
    | none =>
      rw [quireAdd_special hc h]
      exact (quireSum_none hc).mpr ⟨rfl, rfl⟩
    | some n =>
      by_cases hin : -(2 ^ 511) ≤ c.val.toInt + n ∧ c.val.toInt + n < 2 ^ 511
      · rw [quireSum_some hc, if_pos hin, quireAdd_in hc h hin]
        exact ⟨rfl, toInt_ofInt_512 hin, rfl⟩
      · rw [quireSum_some hc, if_neg hin, quireAdd_out hc h hin]
        exact ⟨rfl, rfl⟩

/-! ### Negation (R171) -/

theorem Quire.negate_nar {c : Quire} (h : c.nar = true) : c.negate = (c, Flags.none) := by
  simp [Quire.negate, h]
theorem Quire.negate_least {c : Quire} (hc : c.nar = false) (h : c.val.toInt = -(2 ^ 511)) :
    c.negate = (⟨true, 0⟩, Flags.qov) := by
  have hout : ¬(-(2 ^ 511) ≤ -c.val.toInt ∧ -c.val.toInt < 2 ^ 511) := by
    rw [h, Int.neg_neg]
    exact fun hin => Int.lt_irrefl _ hin.2
  simp only [Quire.negate, hc, quireOfUnits_out hout, Bool.false_eq_true, if_false, Quire.narState]
theorem Quire.negate_real {c : Quire} (hc : c.nar = false) (h : c.val.toInt ≠ -(2 ^ 511)) :
    c.negate = (⟨false, -c.val⟩, Flags.none) := by
  have hlower : -(2 ^ 511) ≤ c.val.toInt := BitVec.le_toInt c.val
  have hupper : c.val.toInt < 2 ^ 511 := BitVec.toInt_lt
  have hin : -(2 ^ 511) ≤ -c.val.toInt ∧ -c.val.toInt < 2 ^ 511 :=
    ⟨Int.neg_le_neg (Int.le_of_lt hupper), Int.neg_lt_of_neg_lt (Int.lt_iff_le_and_ne.mpr ⟨hlower, h.symm⟩)⟩
  simp only [Quire.negate, hc, quireOfUnits_in hin, Bool.false_eq_true, if_false, BitVec.ofInt_neg, BitVec.ofInt_toInt]

/-! ### Conditions on a quire (R64, R179) -/

/-- The codes of R64 on an order mean what the statements say of them. -/
theorem condOrd_iff (code : Nat) (lt eq ltu : Bool) :
    condOrd code lt eq ltu = true ↔ OrderHolds code (lt = true) (eq = true) (ltu = true) := by
  unfold condOrd OrderHolds
  split <;> simp_all
theorem nar_or_isNeg_iff (q : Quire) : (q.nar || q.isNeg) = true ↔ q.nar = true ∨ q.val.toInt < 0 := by
  have hsign : q.val.getLsbD 511 = decide (q.val.toInt < 0) := by
    rw [← BitVec.msb_eq_toInt, BitVec.msb_eq_getLsbD_last]
  cases hn : q.nar <;> simp only [Quire.isNeg, hn, hsign, Bool.not_true, Bool.not_false, Bool.true_or, Bool.false_or,
    Bool.true_and, Bool.false_eq_true, false_or, true_or, decide_eq_true_iff]
theorem notNar_and_zero_iff (q : Quire) : (!q.nar && q.val == 0) = true ↔ q.nar = false ∧ q.val.toInt = 0 := by
  have hzero : q.val = 0 ↔ q.val.toInt = 0 := by rw [← BitVec.toInt_inj, BitVec.ofNat_eq_ofNat, BitVec.toInt_zero]
  rw [Bool.and_eq_true, Bool.not_eq_true', beq_iff_eq, hzero]
theorem quireCond_iff (code : Nat) (q : Quire) : quireCond code q = true ↔
    OrderHolds code (q.nar = true ∨ q.val.toInt < 0) (q.nar = false ∧ q.val.toInt = 0) False := by
  rw [quireCond, condOrd_iff, nar_or_isNeg_iff, notNar_and_zero_iff, Bool.false_eq_true]

/-! ### Words read out (R178) -/

theorem sextWord_eq_ofInt (w n : Nat) : sextWord w n = BitVec.ofInt 64 (BitVec.ofNat w n).toInt := by
  rw [sextWord, ← sextInt_toNat, BitVec.toNat_ofNat, sextInt, sextInt, Nat.mod_mod]
theorem extendWord_eq (fmt : BitVec 6) (n : Nat) : extendWord fmt n =
    if isSignedInt fmt || isTap fmt then BitVec.ofInt 64 (BitVec.ofNat (fmtWidth fmt) n).toInt else BitVec.ofNat 64 n := by
  rw [extendWord, sextWord_eq_ofInt]

/-! ### What the words answer -/

/-- The tile check of an owned tile passes; that of another traps with ACCF and the number of the tile (R167). -/
theorem checkTile_owned {t : Nat} {s : State} (h : Owns s true t) : checkTile t s = .ok :=
  trapIf_ok (bne_eq_false_iff_eq.mpr h)
theorem checkTile_unowned {t : Nat} {s : State} (h : ¬Owns s true t) :
    checkTile t s = .trap (Trap.plain causeACCF (BitVec.ofNat 64 (0x100 + t))) := by
  have hne : ((s.here.tileOwner t).owner != some s.cur.ctx) = true := bne_iff_ne.mpr h
  rw [checkTile, hne, trapIf_true]

section
variable {g : Guard} {f : FmtA} {s : State}

theorem exec_qneg_goes (h : Goes (.qneg g f) g s) {r : Quire × Flags} (hr : (s.me.qr f.dst.toNat).negate = r) :
    exec (.qneg g f) s = .next (s.put 4 (.q f.dst.toNat r.1) r.2) :=
  exec_goes h rfl (by rw [doQneg, hr, putQ])
theorem exec_qaddq_goes (h : Goes (.qaddq g f) g s) : exec (.qaddq g f) s =
    .next (putQ 4 f.dst (quireAdd (s.me.qr f.dst.toNat) (signed f (s.me.qr f.opa.toNat).value)) s) :=
  exec_goes h rfl rfl
theorem exec_qfrom_owned (h : Goes (.qfrom g f) g s) (ho : Owns s true f.opa.toNat) : exec (.qfrom g f) s =
    .next (putQ 4 f.dst (quireAdd (s.me.qr f.dst.toNat) (signed f (cellOf f s).value)) s) := by
  rw [exec_qfrom, execQfrom, issue_goes h (checkTile_owned ho), doQfrom]
theorem exec_qfrom_unowned (h : Goes (.qfrom g f) g s) (hk : s.iss.checked = false) (ho : ¬Owns s true f.opa.toNat) :
    exec (.qfrom g f) s =
      .next (s.takeTrap s.cur (Trap.plain causeACCF (BitVec.ofNat 64 (0x100 + f.opa.toNat))) s.me.at_) := by
  rw [exec_qfrom, execQfrom, h.traps hk (checkTile_unowned ho)]
/-- QADD adds the signed value of the low bits of x[OPA]; a signalling NaN also sets NV (R175). -/
theorem exec_qadd_goes (h : Goes (.qadd g f) g s) {v : Val} {r : Quire × Flags}
    (hv : v = decodeVal (fmtOf f.fmt) ((s.me.x f.opa.toNat).toNat % 2 ^ fmtWidth f.fmt))
    (hr : quireAdd (s.me.qr f.dst.toNat) (signed f v) = r) :
    exec (.qadd g f) s = .next (s.put 4 (.q f.dst.toNat r.1) (r.2 ||| flagIf v.isSignalling Flags.nv)) :=
  exec_goes h rfl (by rw [doQadd, ← hv, hr, putQ])
theorem exec_qadd_special (h : Goes (.qadd g f) g s) {v : Val}
    (hv : v = decodeVal (fmtOf f.fmt) ((s.me.x f.opa.toNat).toNat % 2 ^ fmtWidth f.fmt)) (hn : v.real? = none)
    (hc : (s.me.qr f.dst.toNat).nar = false) : ∃ fl, exec (.qadd g f) s = .next (s.put 4 (.q f.dst.toNat ⟨true, 0⟩) fl) ∧
      fl = if v.isSignalling then Flags.narf ||| Flags.nv else Flags.narf := by
  refine ⟨_, exec_qadd_goes h hv (quireAdd_special hc (real?_signed_none hn f)), ?_⟩
  cases v.isSignalling <;> rfl
theorem exec_qadd_real (h : Goes (.qadd g f) g s) {v : Val}
    (hv : v = decodeVal (fmtOf f.fmt) ((s.me.x f.opa.toNat).toNat % 2 ^ fmtWidth f.fmt)) {n : Int}
    (hn : v.HasUnits (some n)) : ∃ r fl, exec (.qadd g f) s = .next (s.put 4 (.q f.dst.toNat r) fl) ∧
      QuireSum (s.me.qr f.dst.toNat) (some (addendSign f * n)) r fl := by
  have hquiet : v.isSignalling = false := by
    cases v with
    | nan _ => cases hn
    | _ => rfl
  have hsum := quireSum_quireAdd (c := s.me.qr f.dst.toNat) (hn.signed f)
  refine ⟨_, _, exec_qadd_goes h hv rfl, ?_⟩
  rw [hquiet, flagIf, if_neg Bool.false_ne_true, Flags.none, BitVec.or_zero]
  exact hsum
/-- QRND rounds the value of the quire once (R178). -/
theorem exec_qrnd_goes (h : Goes (.qrnd g f) g s) : exec (.qrnd g f) s = .next (s.put 4 (.x f.dst.toNat
    (extendWord f.fmt (readQuire (fmtOf f.fmt) (s.me.qr f.opa.toNat)).1))
      (readQuire (fmtOf f.fmt) (s.me.qr f.opa.toNat)).2) :=
  exec_goes h rfl rfl
theorem exec_qtst_goes (h : Goes (.qtst g f) g s) {v : Bool} (hv : quireCond f.sub.toNat (s.me.qr f.opa.toNat) = v) :
    exec (.qtst g f) s = .next (s.put 2 (.p f.dst.toNat v) Flags.none) :=
  exec_goes h rfl (by rw [doQtst, hv])
end

/-- Settles O54: an addend is a whole number of units, which enters a quire exactly; the other words put what their quire
gives. -/
theorem quireArithmetic : Obligations.QuireArithmetic := by
  unfold Obligations.QuireArithmetic
  rintro g f s c a sign rfl rfl rfl
  refine ⟨?qclr, ?qneg, ?qaddq, ?qfrom, ?unowned, ?qadd, ?qrnd, ?qtst, ?qtstNar⟩
  case qclr => exact fun h => exec_goes h rfl rfl
  case qneg =>
    exact fun h => ⟨fun hc => exec_qneg_goes h (Quire.negate_nar hc), fun hc hv => exec_qneg_goes h (Quire.negate_least hc hv),
      fun hc hv => exec_qneg_goes h (Quire.negate_real hc hv)⟩
  case qaddq => exact fun h => ⟨_, _, exec_qaddq_goes h, quireSum_quireAdd ((Quire.value_hasUnits _).signed f)⟩
  case qfrom =>
    rintro _ rfl h ho
    exact ⟨_, _, exec_qfrom_owned h ho, quireSum_quireAdd ((Quire.value_hasUnits _).signed f)⟩
  case unowned => exact exec_qfrom_unowned
  case qadd =>
    refine fun v hv h => ⟨exec_qadd_special h hv, ?_⟩
    rintro n _ hn rfl
    exact exec_qadd_real h hv hn
  case qrnd =>
    rintro _ rfl h
    rw [← extendWord_eq]
    exact exec_qrnd_goes h
  case qtst => exact fun v h hv => exec_qtst_goes h (Bool.eq_iff_iff.mpr ((quireCond_iff _ _).trans hv.symm))
  case qtstNar => exact fun h => exec_goes h rfl rfl

end Sys2Proof.Machine
end
